-- ==== Sys2Proof/Word.lean ====
section
/-! DEFINITION. The word types of the LX9: a byte, a 32-bit register and instruction word (R12, R69). -/

namespace Sys2Proof

/-- One byte of memory (R7). -/
abbrev Byte := BitVec 8

/-- One 32-bit register, or one instruction word (R12, R69). -/
abbrev Word := BitVec 32

end Sys2Proof
end

