-- ==== Sys2Proof/Machine/Bits.lean ====
section
/-! DEFINITION. Bit fields, sign extension and byte order on patterns held as natural numbers (R7, R8, R37),
and sorted association lists with one canonical form, in which memory, registers and every sparse store is held. -/

namespace Sys2Proof.Machine

/-- Bits [lo+len−1 : lo] of a pattern (R8). -/
def field (n lo len : Nat) : Nat := n / 2 ^ lo % 2 ^ len

/-- Bit `i` of a pattern. -/
def bit (n i : Nat) : Bool := n / 2 ^ i % 2 == 1

/-- The number 0 or 1 of a truth value. -/
def b2n (b : Bool) : Nat := if b then 1 else 0

/-- `sx` of R37: the two's-complement value of an n-bit pattern. -/
def toInt (v n : Nat) : Int :=
  if v % 2 ^ n < 2 ^ (n - 1) ∨ n = 0 then (v % 2 ^ n : Nat) else ((v % 2 ^ n : Nat) : Int) - 2 ^ n

/-- `wrap` of R37: an exact integer modulo 2^n, as an n-bit pattern. -/
def wrap (x : Int) (n : Nat) : Nat := (x % (2 ^ n : Nat)).toNat

/-- `sx(v, n)` of R37 from a w-bit pattern. -/
def sx (v w n : Nat) : Nat := wrap (toInt v w) n

/-- Bytes, least significant first, of an n-byte value (R7). -/
def toBytes : Nat → Nat → List Byte
  | 0, _ => []
  | n + 1, v => BitVec.ofNat 8 v :: toBytes n (v / 256)

/-- The value whose bytes, least significant first, are given (R7). -/
def ofBytes : List Byte → Nat
  | [] => 0
  | b :: bs => b.toNat + 256 * ofBytes bs

/-- The bits of a pattern that are 1, among its n lowest (R89). -/
def popcount : Nat → Nat → Nat
  | 0, _ => 0
  | n + 1, v => v % 2 + popcount n (v / 2)

/-- The lowest position below n at which a pattern holds a 1, counted from `i` (R89). -/
def lowestOne : Nat → Nat → Nat → Option Nat
  | 0, _, _ => none
  | n + 1, i, v => if v % 2 = 1 then some i else lowestOne n (i + 1) (v / 2)

/-- floor(log2 n) for n > 0, and 0 for 0. -/
def log2 (n : Nat) : Nat := Nat.log2 n

/-- n shifts of the CRC-64 of ECMA-182, most significant bit first (R307). -/
def crcShift : Nat → Nat → Nat
  | 0, r => r
  | n + 1, r =>
    let x := r * 2 % 2 ^ 64
    crcShift n (if 2 ^ 63 ≤ r then Nat.xor x 0x42F0E1EBA9EA3693 else x)

/-- The CRC-64 of R307 carried on over bytes from a register value. -/
def crc64 (r : Nat) (bs : List Byte) : Nat := bs.foldl (fun r b => crcShift 8 (Nat.xor r (b.toNat * 2 ^ 56))) r

/-! ### Sorted association lists -/

/-- A sparse store: keys strictly rising. -/
abbrev Map (α : Type) := List (Nat × α)

/-- The entry at a key. -/
def Map.look {α : Type} : Map α → Nat → Option α
  | [], _ => none
  | (k, v) :: m, x => if x = k then some v else Map.look m x

/-- The entry at a key, or the value an unlisted key reads as. -/
def Map.lookD {α : Type} (m : Map α) (x : Nat) (d : α) : α := (m.look x).getD d

/-- Remove a key. -/
def Map.del {α : Type} : Map α → Nat → Map α
  | [], _ => []
  | (k, v) :: m, x => if x = k then m else (k, v) :: Map.del m x

/-- Put an entry, keeping the keys rising. -/
def Map.ins {α : Type} : Map α → Nat → α → Map α
  | [], x, a => [(x, a)]
  | (k, v) :: m, x, a =>
    if x < k then (x, a) :: (k, v) :: m
    else if x = k then (x, a) :: m
    else (k, v) :: Map.ins m x a

/-- Put an entry in canonical form: the value an unlisted key reads as removes the entry. -/
def Map.put {α : Type} [DecidableEq α] (d : α) (m : Map α) (x : Nat) (a : α) : Map α :=
  if a = d then m.del x else m.ins x a

/-- Change an entry if it is there. -/
def Map.adjust {α : Type} (m : Map α) (x : Nat) (f : α → α) : Map α :=
  match m.look x with
  | some v => m.ins x (f v)
  | none => m

/-- The keys of a store. -/
def Map.keys {α : Type} (m : Map α) : List Nat := m.map Prod.fst

/-- The canonical form: keys strictly rising, no entry equal to the value `d` an unlisted key reads as. -/
abbrev Map.wf {α : Type} [DecidableEq α] (d : α) (m : Map α) : Prop :=
  m.Pairwise (fun a b => a.1 < b.1) ∧ ∀ p ∈ m, p.2 ≠ d

/-- Replace entry `i` of a list. -/
def setAt {α : Type} : List α → Nat → α → List α
  | [], _, _ => []
  | _ :: l, 0, a => a :: l
  | b :: l, i + 1, a => b :: setAt l i a

/-- Change entry `i` of a list. -/
def adjustAt {α : Type} (l : List α) (i : Nat) (f : α → α) : List α :=
  match l[i]? with
  | some a => setAt l i (f a)
  | none => l

/-- The lowest number below `n`, counted from `i`, that satisfies a test. -/
def lowestFree : Nat → Nat → (Nat → Bool) → Option Nat
  | 0, _, _ => none
  | n + 1, i, f => if f i then some i else lowestFree n (i + 1) f

/-- The numbers i, i+1, …, n of them. -/
def span : Nat → Nat → List Nat
  | _, 0 => []
  | i, n + 1 => i :: span (i + 1) n

end Sys2Proof.Machine
end

