-- ==== Sys2Proof/Syntax.lean ====
section
/-! DEFINITION. The instructions of Emver revision 1 as typed syntax, and the device's own steps (events), one
constructor for each row of the opcode table (R30, R31, R37). An instruction constructor carries the operands of the
extended form (R17 to R21). An event constructor carries the operands that say which unit, record, request or message
the step is about, and what comes from outside the module. -/

namespace Sys2Proof

/-- The length and form of an instruction, LEN (R12). -/
inductive Form
  | base | baseLit | ext | extLit
  deriving DecidableEq, Repr

/-- The types of R26; `dflt` is code 0x00. -/
inductive Ty
  | dflt | s8 | s16 | s32 | s64 | n8 | n16 | n32 | n64 | b8 | b16 | b32 | b64 | b128
  | f64 | f32 | f16 | bf16 | e4m3 | e5m2 | i4 | i4x | w64
  deriving DecidableEq, Repr

/-- A source operand: a register, or a bypass latch ^1 to ^8 (R16, R19). -/
inductive Opnd
  | reg (n : Nat)
  | latch (n : Nat)
  deriving DecidableEq, Repr

/-- Operand B: an operand code, the class A immediate field IMM22, or a literal (R22, R27). -/
inductive BOpnd
  | src (o : Opnd)
  | imm22 (v : BitVec 22)
  | lit (v : BitVec 64)
  deriving DecidableEq, Repr

/-- A predicate P with PN (R25). -/
structure Pred where
  neg : Bool
  src : Opnd
  deriving DecidableEq, Repr

/-- What every instruction has: form, predicate, NW, the operands D, A, B, C, the second result E (0 for none),
the operation type (FN, with the default written out) and the second type (R15 to R21). -/
structure Head where
  form : Form
  pred : Option Pred
  nw : Bool
  d : Nat
  a : Opnd
  b : BOpnd
  c : Opnd
  e : Nat
  ty : Ty
  ty2 : Ty
  deriving DecidableEq, Repr

/-- Rounding modes, RND (R20). -/
inductive Rnd
  | rne | rtz | rdn | rup
  deriving DecidableEq, Repr

/-- Class A modifiers (R20): IMM22 stands in operand B. -/
structure ModA where
  tid : Nat
  sat : Bool
  ftz : Bool
  rnd : Rnd
  deriving DecidableEq, Repr

/-- Memory orderings, ORD (R20). -/
inductive MemOrd
  | plain | acquire | release | acqRel
  deriving DecidableEq, Repr

/-- Class M modifiers (R20). The offset is an exact integer: REPEAT may form one beyond 22 bits (R62). -/
structure ModM where
  ofs : Int
  tid : Nat
  ch : Nat
  ord : MemOrd
  deriving DecidableEq, Repr

/-- Comparison conditions of cmp and cmp64 (R82). -/
inductive Cond
  | eq | ne | lt | le | gt | ge
  deriving DecidableEq, Repr

/-- Comparison conditions of fcmp (R106). -/
inductive FCond
  | eq | ne | lt | le | gt | ge | un | or
  deriving DecidableEq, Repr

/-- Modes of shfl (R67). -/
inductive ShflMode
  | idx | up | down | xor
  deriving DecidableEq, Repr

/-- Modes of vote (R67). -/
inductive VoteMode
  | all | any | ballot | count
  deriving DecidableEq, Repr

/-- Combining operations of lred, atom, red and the collectives (R67, R216, R316). -/
inductive RedOp
  | add | min | max | and | or | xor
  deriving DecidableEq, Repr

/-- Operations of atom (R216). -/
inductive AtomOp
  | red (op : RedOp)
  | exch
  | cas
  deriving DecidableEq, Repr

/-- Modes of ldl (R167). -/
inductive LdlMode
  | plain | take | any
  deriving DecidableEq, Repr

/-- Modes of stl (R167). -/
inductive StlMode
  | plain | any | fill
  deriving DecidableEq, Repr

/-- A flit of a Tlalith port, header fields and payload (R307). -/
structure Flit where
  seq : Nat
  ack : Nat
  kind : Nat
  nreason : Nat
  cls : Nat
  plen : Nat
  dpkg : Nat
  spkg : Nat
  first : Bool
  last : Bool
  mtag : Nat
  payload : List Byte
  deriving DecidableEq, Repr

/-- A memory request of the load-store domain, performed at the package that holds the frame (R314). -/
inductive MemReq
  | read (pa n : Nat)
  | write (pa : Nat) (bytes : List Byte) (pdom : Nat)
  | atom (op : AtomOp) (ty : Ty) (pa b c pdom : Nat)
  | red (op : RedOp) (ty : Ty) (pa b pdom : Nat)
  deriving DecidableEq, Repr

/-- The instructions and the device's own steps, one constructor for each row of the opcode table. -/
inductive Instr
  -- control, traps, control registers, self-test (row 0x0)
  | bra (h : Head) (ofs : Int)
  | brz (h : Head) (ofs : Int)
  | brnz (h : Head) (ofs : Int)
  | jmp (h : Head)
  | call (h : Head) (ofs : Int)
  | ret (h : Head)
  | yield (h : Head)
  | exit (h : Head)
  | exitWithSuccessors (h : Head) (n : Nat)
  | repeatLoop (h : Head) (byReg : Bool) (count body : Nat)
  | trap (h : Head) (code : Nat)
  | eret (h : Head)
  | csrr (h : Head) (num : Nat)
  | csrw (h : Head) (num : Nat)
  | selftestLane (h : Head)
  | selftestRf (h : Head)
  | selftestLar (h : Head)
  | selftestDrw (h : Head)
  | selftestArr (h : Head)
  | selftestBank (h : Head)
  | selftestHbm (h : Head)
  | selftestScm (h : Head)
  | selftestLink (h : Head)
  | selftestComplete (serial outcome index : Nat)
  | nop (h : Head)
  -- lane operations, park, spawn (row 0x1)
  | shfl (h : Head) (mode : ShflMode)
  | vote (h : Head) (mode : VoteMode)
  | elect (h : Head) (pred : Bool)
  | matchLanes (h : Head) (all : Bool)
  | lred (h : Head) (op : RedOp) (tid : Nat) (ftz : Bool) (rnd : Rnd)
  | parkNow (h : Head) (keep : Nat)
  | parkUntil (h : Head) (keep : Nat)
  | parkNe (h : Head) (keep : Nat)
  | spawn (h : Head) (laneGiven : Bool) (narg : Nat)
  -- integer arithmetic (row 0x2)
  | add (h : Head) (m : ModA)
  | sub (h : Head) (m : ModA)
  | addc (h : Head) (m : ModA)
  | subc (h : Head) (m : ModA)
  | mul (h : Head) (m : ModA)
  | mulhi (h : Head) (m : ModA)
  | mulw (h : Head) (m : ModA)
  | mad (h : Head) (m : ModA)
  | min (h : Head) (m : ModA)
  | max (h : Head) (m : ModA)
  | abs (h : Head) (m : ModA)
  | cmp (h : Head) (m : ModA) (cond : Cond)
  | sel (h : Head) (m : ModA)
  | lea (h : Head) (m : ModA) (sh : Nat)
  -- logic, shifts, bit fields, counts (row 0x3)
  | and (h : Head) (m : ModA)
  | or (h : Head) (m : ModA)
  | xor (h : Head) (m : ModA)
  | andn (h : Head) (m : ModA)
  | not (h : Head) (m : ModA)
  | shl (h : Head) (m : ModA)
  | shr (h : Head) (m : ModA)
  | sar (h : Head) (m : ModA)
  | rol (h : Head) (m : ModA)
  | ror (h : Head) (m : ModA)
  | bfe (h : Head) (m : ModA)
  | bfi (h : Head) (m : ModA)
  | popc (h : Head) (m : ModA)
  | clz (h : Head) (m : ModA)
  | ctz (h : Head) (m : ModA)
  | brev (h : Head) (m : ModA)
  -- moves, extension, 64-bit pair arithmetic (row 0x4)
  | mov (h : Head) (m : ModA)
  | movi (h : Head) (m : ModA)
  | sext (h : Head) (m : ModA)
  | zext (h : Head) (m : ModA)
  | add64 (h : Head) (m : ModA)
  | sub64 (h : Head) (m : ModA)
  | mul64 (h : Head) (m : ModA)
  | shl64 (h : Head) (m : ModA)
  | shr64 (h : Head) (m : ModA)
  | sar64 (h : Head) (m : ModA)
  | cmp64 (h : Head) (m : ModA) (cond : Cond)
  | min64 (h : Head) (m : ModA)
  | max64 (h : Head) (m : ModA)
  -- floating-point arithmetic (row 0x5)
  | fadd (h : Head) (m : ModA)
  | fsub (h : Head) (m : ModA)
  | fmul (h : Head) (m : ModA)
  | fma (h : Head) (m : ModA)
  | fmin (h : Head) (m : ModA)
  | fmax (h : Head) (m : ModA)
  | fcmp (h : Head) (m : ModA) (cond : FCond)
  | fclass (h : Head) (m : ModA) (exp : Bool)
  | fround (h : Head) (m : ModA)
  | fscale (h : Head) (m : ModA)
  | fadd2 (h : Head) (m : ModA)
  | fmul2 (h : Head) (m : ModA)
  | fma2 (h : Head) (m : ModA)
  | fmin2 (h : Head) (m : ModA)
  | fmax2 (h : Head) (m : ModA)
  -- approximations, conversion, pack, random, counters (row 0x6)
  | frcp (h : Head) (m : ModA)
  | frsq (h : Head) (m : ModA)
  | fsqrt (h : Head) (m : ModA)
  | fexp2 (h : Head) (m : ModA)
  | flog2 (h : Head) (m : ModA)
  | fsin (h : Head) (m : ModA)
  | fcos (h : Head) (m : ModA)
  | ftanh (h : Head) (m : ModA)
  | cvt (h : Head) (m : ModA) (ovn : Bool)
  | pack (h : Head) (m : ModA) (k : Nat) (ovn : Bool)
  | unpack (h : Head) (m : ModA) (k : Nat)
  | rand (h : Head) (unit : Bool) (w : Nat)
  | cntflush (h : Head)
  -- larder (row 0x7)
  | lalloc (h : Head) (m : ModM) (empty : Bool)
  | lfree (h : Head) (m : ModM)
  | luseby (h : Head) (m : ModM) (ext : Bool)
  | lrenew (h : Head) (m : ModM)
  | ldl (h : Head) (m : ModM) (mode : LdlMode)
  | stl (h : Head) (m : ModM) (mode : StlMode)
  | setempty (h : Head) (m : ModM)
  | setfull (h : Head) (m : ModM)
  | lstateLine (h : Head) (m : ModM)
  | lstateAlloc (h : Head) (m : ModM)
  | lstateRet (h : Head) (m : ModM)
  | lstateFree (h : Head) (m : ModM)
  | smap (h : Head) (m : ModM)
  | sunmap (h : Head) (m : ModM)
  | sflush (h : Head) (m : ModM) (inv : Bool)
  -- barrier objects and Harness (row 0x8)
  | binit (h : Head) (ofs : Int) (bytes : Bool)
  | barr (h : Head) (ofs : Int)
  | bwait (h : Head) (ofs : Int) (keep : Nat)
  | barrw (h : Head) (ofs : Int) (keep : Nat)
  | bbytes (h : Head) (ofs : Int) (exp : Bool)
  | hjoin (h : Head) (grp : Nat)
  | hleave (h : Head) (grp : Nat)
  | harr (h : Head) (grp : Nat)
  | hwait (h : Head) (grp keep : Nat)
  | hsig (h : Head) (bytes : Bool)
  -- global memory (row 0x9)
  | ldg (h : Head) (m : ModM)
  | stg (h : Head) (m : ModM)
  | ldc (h : Head) (m : ModM)
  | atom (h : Head) (m : ModM) (op : AtomOp)
  | red (h : Head) (m : ModM) (op : RedOp)
  | fence (h : Head)
  | pref (h : Head) (m : ModM) (hbm : Bool)
  -- copies, queues, publish, collectives, persistence (row 0xA)
  | copy (h : Head) (ofs : Int) (keep : Nat)
  | enq (h : Head) (ofs : Int) (keep : Nat)
  | publish (h : Head) (seti : Nat)
  | collRun (h : Head) (tid : Nat)
  | collLoad (h : Head) (tid : Nat)
  | collDrop (h : Head) (tid : Nat)
  | repart (h : Head)
  | pfenceDie (h : Head)
  | pfencePkg (h : Head)
  | steptag (h : Head)
  | snapStat (h : Head)
  | snapGo (h : Head)
  | snapAbort (h : Head)
  | digest (h : Head)
  -- matrix array (row 0xB)
  | mma (h : Head) (pbn : Nat)
  | mmwait (h : Head) (ofs : Int) (keep : Nat)
  | mmrd (h : Head)
  | mmclrAcc (h : Head)
  | mmclrClaim (h : Head)
  | mmclrFree (h : Head)
  | mmscl (h : Head) (pbn : Nat)
  | mmstBank (h : Head)
  | mmstAcc (h : Head)
  -- the device's own steps (no encoding)
  | pendingRegisterPark (group : Nat) (lanes : List Nat)
  | missStatusReplay (group : Nat) (lanes : List Nat)
  | incomingWriteComplete (wid : Nat)
  | crockTimerExpiry (core bin : Nat)
  | groupAdmission (core unit : Nat)
  | timeEventExpiry (rid : Nat)
  | watchedWordEvaluate (rid : Nat)
  | blockStart (launch : Nat) (cores : List Nat)
  | blockRetire (bid : Nat)
  | successorEnqueue
  | launchCompletionSignal (launch : Nat)
  | queuePacketTake (asid queue : Nat)
  | launchPacketGrid (serial : Nat)
  | launchPacketMask (serial : Nat)
  | taskRecord (serial : Nat)
  | queueCopy (serial : Nat)
  | queueDeadlockDetect (asid queue : Nat)
  | faultQueueSpace (asid : Nat)
  | larderRenewal (core : Nat)
  | lretUpdate (core temp guar : Nat)
  | allocationExpiry (bid base : Nat)
  | stashFetchComplete (core line : Nat)
  | stashLineAgeOut (core line : Nat)
  | stashRemoteReadRecall (core line : Nat)
  | stashRemoteWriteRecall (core line ofs : Nat) (bytes : List Byte)
  | lfreeUnitsRelease (serial : Nat)
  | lrenewComplete (serial : Nat)
  | sflushComplete (serial : Nat)
  | hsigApply (asid name count : Nat) (bytes : Bool)
  | harnessArrivalMessage (asid grp pkg handle count : Nat)
  | harnessMembershipMessage (asid grp pkg handle : Nat) (join : Bool) (quota : Nat)
  | walkComplete (serial : Nat)
  | tlbinv (value : Nat)
  | tlbinvComplete
  | tres (value : Nat)
  | tepcWrite (thread value : Nat)
  | hostBar2Read (addr len : Nat)
  | hostBar2Write (addr : Nat) (bytes : List Byte)
  | peerMemoryRequest (pkg tag : Nat) (req : MemReq)
  | peerMemoryResponse (tag : Nat) (data : List Byte)
  | copyRequestEnd (serial : Nat)
  | publishSwapStart (serial : Nat)
  | publishSwapComplete (serial : Nat)
  | matrixOpStart (core : Nat)
  | mmaKStep (core : Nat)
  | matrixOpEnd (core : Nat)
  | wbqDrainEntry (die : Nat)
  | wbqRoomWrite (die : Nat)
  | energyReserveMeasure (energy qcap drain : Nat) (armed : Bool)
  | powerFail (drained : Nat) (kept : List Nat)
  | pfenceComplete (serial : Nat)
  | chunkCaptureLagExpiry (asid region : Nat)
  | chunkCaptureOnWrite (asid region chunk : Nat)
  | stripeFragmentsDurable (asid region stripe : Nat) (stored : Bool)
  /-- `slot` is one of the two slots of a region, as 2 × region + its number (R297) -/
  | fragmentStoreWrite (pkg job slot step stripe frag : Nat) (data trailer : List Byte)
  | digestComplete (serial : Nat) (uncorrectable : Bool)
  | rstctl (value : Nat)
  | restoreComplete
  | payloadFlit (port : Nat) (image : List Byte) (outstanding : List Nat) (room : Bool)
  | acknowledgementFlit (port : Nat) (image : List Byte)
  | negativeAcknowledgement (port : Nat) (image : List Byte)
  | retrainMarker (port : Nat) (image : List Byte)
  | ackOnlyTimeout (port cls : Nat)
  | busyResend (port cls : Nat)
  | replayTimeout (port cls : Nat)
  | laneFailure (port lane : Nat)
  | retrainComplete (port : Nat)
  | portSilent (port pkg : Nat)
  | switchGroupTimeout (pkg : Nat)
  | domainTimeout (pkg : Nat)
  | failureNotice (pkg : Nat)
  | sendNotice (asid graph node pkg run len : Nat) (dt : Ty) (rop : Nat)
  | clearToSend (asid graph run node : Nat)
  | collectiveData (asid graph run node pkg : Nat) (data : List Byte)
  | collectiveNodeComplete (serial node : Nat)
  | switchReductionResult (serial node : Nat) (ok : Bool) (data : List Byte)
  | collLoadComplete (serial : Nat)
  | repartOperationStart (asid grp : Nat)
  | repartOperationEnd (asid grp : Nat) (failed : Bool)
  | tlmctlGo (value : Nat)
  | marginMeasurementComplete (errs bits : Nat)
  | ctxCreate (value : Nat)
  | ctxPreemptAll (value : Nat)
  | ctxResume (value : Nat)
  | ctxKill (value : Nat)
  | ctxFreeze (value : Nat)
  | ctxThaw (value : Nat)
  | ctxReservedAction (value : Nat)
  | prectlGo (value : Nat)
  | dispatcherPreempt (launch bid : Nat)
  | drainlimExpiry (bid : Nat)
  | deferredSave (bid : Nat)
  | blockSaveComplete (bid : Nat)
  | flushedBlockRestart (bid core : Nat)
  | blockRestore (bid core : Nat)
  | laneSteering (core unit lane : Nat)
  | pairedCheckPoint (bid lin : Nat)
  | targetedSelfTest (src unit loc failing : Nat)
  | transferErrorRetry (stack chan pc lane retries : Nat) (write : Bool)
  | arrlogRead
  | xfrlogRead
  | faillogRead
  | hbmcfgWrite (value : Nat)
  | channelTemperatureMeasure (stack chan temp : Nat)
  | stitch (value : Nat)
  | stitchComplete
  | vmctlGo (value : Nat)
  | voltageMarginComplete (vmeas result : Nat)
  | clockStepChange (up therm power : Bool)
  | moduleReset
  | bootStageAdvance (fail : Nat)
  | attestationRequest (nonce : List Byte)
  | registerWrite (num value : Nat)
  | chunkCaptureComplete (asid region chunk : Nat)
  | engineByteCountPiece (serial elements : Nat)
  | repartDescriptorArrival (asid pkg handle : Nat) (descriptor : Nat) (serial : Nat)
  | hbmcfgTakesEffect
  | powerGatedCoreWake (core : Nat)
  deriving DecidableEq, Repr

end Sys2Proof
end

