-- ==== Sys2Proof/Machine/Encoding.lean ====
section
/-! DEFINITION. The fields of an instruction before it is typed, the attributes of every opcode (R30, R31 and the
operand tables of each family), and the check of an encoding against them, detail by detail (R28). -/

namespace Sys2Proof

open Sys2Proof.Machine

/-- Words of each form, 1, 3 or 5 (R12). -/
def Form.words : Form → Nat
  | .base => 1
  | .baseLit => 3
  | .ext => 3
  | .extLit => 5

/-- A literal follows (R12). -/
def Form.hasLit : Form → Bool
  | .base => false
  | .baseLit => true
  | .ext => false
  | .extLit => true

/-- Width of a type in bits (R26, R92, R94, R96). -/
def Ty.width : Ty → Nat
  | .dflt => 32
  | .s8 => 8 | .s16 => 16 | .s32 => 32 | .s64 => 64
  | .n8 => 8 | .n16 => 16 | .n32 => 32 | .n64 => 64
  | .b8 => 8 | .b16 => 16 | .b32 => 32 | .b64 => 64 | .b128 => 128
  | .f64 => 64 | .f32 => 32 | .f16 => 16 | .bf16 => 16 | .e4m3 => 8 | .e5m2 => 8
  | .i4 => 4 | .i4x => 4 | .w64 => 128

/-- Width of the register operand that holds a value of a type: 32, 64 or 128 bits (R23). -/
def Ty.regWidth (t : Ty) : Nat := if t.width ≤ 32 then 32 else t.width

/-- Floating-point types (R92). -/
def Ty.isFloat : Ty → Bool
  | .f64 | .f32 | .f16 | .bf16 | .e4m3 | .e5m2 => true
  | _ => false

/-- Signed integer types (R81). -/
def Ty.isSigned : Ty → Bool
  | .s8 | .s16 | .s32 | .s64 | .i4 | .i4x => true
  | _ => false

/-- The FN type codes (R26). -/
def Ty.code : Ty → Nat
  | .dflt => 0x00 | .s8 => 0x01 | .s16 => 0x02 | .s32 => 0x03 | .s64 => 0x04
  | .n8 => 0x05 | .n16 => 0x06 | .n32 => 0x07 | .n64 => 0x08
  | .b8 => 0x09 | .b16 => 0x0A | .b32 => 0x0B | .b64 => 0x0C | .b128 => 0x0D
  | .f64 => 0x0E | .f32 => 0x0F | .f16 => 0x10 | .bf16 => 0x11 | .e4m3 => 0x12 | .e5m2 => 0x13
  | .i4 => 0x14 | .i4x => 0x15 | .w64 => 0x16

/-- The type a code names; reserved codes name none (R26). -/
def Ty.ofCode : Nat → Option Ty
  | 0x00 => some .dflt | 0x01 => some .s8 | 0x02 => some .s16 | 0x03 => some .s32 | 0x04 => some .s64
  | 0x05 => some .n8 | 0x06 => some .n16 | 0x07 => some .n32 | 0x08 => some .n64
  | 0x09 => some .b8 | 0x0A => some .b16 | 0x0B => some .b32 | 0x0C => some .b64 | 0x0D => some .b128
  | 0x0E => some .f64 | 0x0F => some .f32 | 0x10 => some .f16 | 0x11 => some .bf16
  | 0x12 => some .e4m3 | 0x13 => some .e5m2 | 0x14 => some .i4 | 0x15 => some .i4x | 0x16 => some .w64
  | _ => none

/-- Rounding mode codes (R20). -/
def Rnd.code : Rnd → Nat
  | .rne => 0 | .rtz => 1 | .rdn => 2 | .rup => 3

/-- The rounding mode of a code. -/
def Rnd.ofCode : Nat → Rnd
  | 0 => .rne | 1 => .rtz | 2 => .rdn | _ => .rup

/-- Ordering codes (R20). -/
def MemOrd.code : MemOrd → Nat
  | .plain => 0 | .acquire => 1 | .release => 2 | .acqRel => 3

/-- The ordering of a code. -/
def MemOrd.ofCode : Nat → MemOrd
  | 0 => .plain | 1 => .acquire | 2 => .release | _ => .acqRel

/-- cmp conditions by X (R82). -/
def Cond.code : Cond → Nat
  | .eq => 0 | .ne => 1 | .lt => 2 | .le => 3 | .gt => 4 | .ge => 5

/-- The condition of an X value. -/
def Cond.ofCode : Nat → Cond
  | 0 => .eq | 1 => .ne | 2 => .lt | 3 => .le | 4 => .gt | _ => .ge

/-- fcmp conditions by X (R106). -/
def FCond.code : FCond → Nat
  | .eq => 0 | .ne => 1 | .lt => 2 | .le => 3 | .gt => 4 | .ge => 5 | .un => 6 | .or => 7

/-- The condition of an X value. -/
def FCond.ofCode : Nat → FCond
  | 0 => .eq | 1 => .ne | 2 => .lt | 3 => .le | 4 => .gt | 5 => .ge | 6 => .un | _ => .or

/-- shfl modes by X (R67). -/
def ShflMode.code : ShflMode → Nat
  | .idx => 0 | .up => 1 | .down => 2 | .xor => 3

/-- The mode of an X value. -/
def ShflMode.ofCode : Nat → ShflMode
  | 0 => .idx | 1 => .up | 2 => .down | _ => .xor

/-- vote modes by X (R67). -/
def VoteMode.code : VoteMode → Nat
  | .all => 0 | .any => 1 | .ballot => 2 | .count => 3

/-- The mode of an X value. -/
def VoteMode.ofCode : Nat → VoteMode
  | 0 => .all | 1 => .any | 2 => .ballot | _ => .count

/-- Combining operations by X (R67, R216). -/
def RedOp.code : RedOp → Nat
  | .add => 0 | .min => 1 | .max => 2 | .and => 3 | .or => 4 | .xor => 5

/-- The operation of an X value. -/
def RedOp.ofCode : Nat → RedOp
  | 0 => .add | 1 => .min | 2 => .max | 3 => .and | 4 => .or | _ => .xor

/-- atom operations by X (R216). -/
def AtomOp.code : AtomOp → Nat
  | .red op => op.code
  | .exch => 6
  | .cas => 7

/-- The operation of an X value. -/
def AtomOp.ofCode (x : Nat) : AtomOp := if x = 7 then .cas else if x = 6 then .exch else .red (RedOp.ofCode x)

/-- ldl modes by X (R167). -/
def LdlMode.code : LdlMode → Nat
  | .plain => 0 | .take => 1 | .any => 2

/-- The mode of an X value. -/
def LdlMode.ofCode : Nat → LdlMode
  | 0 => .plain | 1 => .take | _ => .any

/-- stl modes by X (R167). -/
def StlMode.code : StlMode → Nat
  | .plain => 0 | .any => 1 | .fill => 2

/-- The mode of an X value. -/
def StlMode.ofCode : Nat → StlMode
  | 0 => .plain | 1 => .any | _ => .fill

/-- Modifier classes (R20, R30). -/
inductive ModClass
  | a | m | g
  deriving DecidableEq, Repr

/-- The fields of an instruction in its extended form (R17 to R20), not yet checked. Operand codes are exact integers,
so that a REPEAT increment can form one outside 0 to 255 (R62). `ofsAdd` and `repAdd` are what REPEAT adds to the
address offset and to the repeat field (R62). -/
structure Raw where
  form : Form
  op : Nat
  x : Nat
  pn : Bool
  p : Nat
  nw : Bool
  d : Int
  a : Int
  b : Int
  c : Int
  fn : Nat
  m : Nat
  lit : Nat
  ofsAdd : Int
  repAdd : Int
  deriving DecidableEq, Repr

/-- What an opcode with a given X and type accepts. Operand widths are in bits, 0 for an unused operand. -/
structure Attr where
  cls : ModClass
  dflt : Ty
  types : List Ty
  ty2s : List Ty := []
  xs : List Nat := [0]
  d : Nat := 0
  a : Nat := 0
  b : Nat := 0
  c : Nat := 0
  e : Nat := 0
  /-- operand B is an immediate field or a literal only, never a register -/
  immOnly : Bool := false
  /-- an opcode whose entry gives the literal a layout of its own, or that takes none -/
  litOwn : Bool := false
  litNone : Bool := false
  nw : Bool := false
  bi : Bool := false
  priv : Bool := false
  sat : Bool := false
  ftz : Bool := false
  rnd : Bool := false
  ords : List Nat := [0]
  chs : List Nat := [0]
  tid : Bool := false
  ofs : Bool := false
  /-- class G modifier bits that the entry defines -/
  gmask : Nat := 0
  deriving DecidableEq, Repr

/-- s8 to n32 (R82). -/
def tyInt : List Ty := [.s8, .s16, .s32, .n8, .n16, .n32]
/-- f64, f32, f16, bf16 (R106). -/
def tyFloat : List Ty := [.f64, .f32, .f16, .bf16]
/-- f32, f16, bf16 (R106). -/
def tyApprox : List Ty := [.f32, .f16, .bf16]
/-- The packed element types of pack and unpack (R106). -/
def tyPack : List Ty := [.f16, .bf16, .e4m3, .e5m2, .s8, .n8, .i4, .i4x]
/-- FP8 types. -/
def tyFp8 : List Ty := [.e4m3, .e5m2]
/-- Float types a conversion names (R117). -/
def tyCvtF : List Ty := [.f64, .f32, .f16, .bf16, .e4m3, .e5m2]
/-- Integer types a conversion names (R117). -/
def tyCvtI : List Ty := [.s8, .s16, .s32, .s64, .n8, .n16, .n32, .n64]

/-- The (destination, source) pairs cvt accepts (R117). -/
def cvtPair (td ts : Ty) : Bool :=
  (tyCvtF.contains td && (tyCvtF.contains ts || tyCvtI.contains ts)) ||
  (tyCvtI.contains td && (tyCvtF.contains ts || tyCvtI.contains ts)) ||
  (td = .w64 && (ts = .f64 || ts = .f32)) || ((td = .f64 || td = .f32) && ts = .w64)

/-- Class A integer opcodes: NW, TID (R81). -/
def attrInt (d a b c : Nat) (ts : List Ty) (dfl : Ty) : Attr :=
  { cls := .a, dflt := dfl, types := ts, nw := true, d := d, a := a, b := b, c := c }

/-- Class A float opcodes: NW, TID, FTZ as given (R105, R106). -/
def attrF (d a b c : Nat) (ts : List Ty) (dfl : Ty) (rnd ftz sat : Bool) : Attr :=
  { cls := .a, dflt := dfl, types := ts, nw := true, d := d, a := a, b := b, c := c, rnd := rnd, ftz := ftz, sat := sat }

/-- Class G opcodes with type code 0x00 only (R30). -/
def attrG : Attr := { cls := .g, dflt := .dflt, types := [.dflt] }

/-- Class M larder opcodes (R166, R167). -/
def attrL (d a b : Nat) : Attr := { cls := .m, dflt := .b32, types := [.b32], d := d, a := a, b := b }

/-- OFS22 in modifier bits [31:10] (R20, R185). -/
def ofsMask : Nat := 0xFFFFFC00

/-- The types atom and red accept for each X (R216); under an X that is not defined, those of any X. -/
def atomTypes (x : Nat) : List Ty :=
  if x = 0 ∨ 7 < x then [.b32, .s32, .n32, .b64, .s64, .n64, .f32, .f64]
  else if x = 1 ∨ x = 2 then [.s32, .n32, .s64, .n64]
  else [.b32, .b64]

/-- Attributes of the opcodes of rows 0x0 and 0x1 (R57 to R67, R145, R147, R344, R363 to R365, R373). E of match is an operand
under X = 1 alone, where R68 writes it; a nonzero E under X = 0 takes detail 0x02 (log 57). -/
def attrControl (op x : Nat) (w : Nat) : Option Attr :=
  match op with
  | 0x01 => some { attrG with b := 32, immOnly := true, bi := true, gmask := 0xFFFFFF00 }
  | 0x02 => some { attrG with a := 32, b := 32, immOnly := true, bi := true, gmask := 0xFFFFFF00 }
  | 0x03 => some { attrG with a := 32, b := 32, immOnly := true, bi := true, gmask := 0xFFFFFF00 }
  | 0x04 => some { attrG with d := 64, a := 64 }
  | 0x05 => some { attrG with d := 64, b := 32, immOnly := true, bi := true, gmask := 0xFFFFFF00 }
  | 0x06 => some { attrG with a := 64 }
  | 0x07 => some attrG
  | 0x08 => some { attrG with xs := [0, 1, 2, 3, 4], a := if x = 0 then 0 else 64 }
  | 0x09 => some { attrG with xs := [0, 1], a := if x = 0 then 0 else 32, litOwn := true,
                              gmask := if x = 1 then 0x0000FC00 else 0xFFFFFC00 }
  | 0x0A => some { attrG with b := 16, immOnly := true, bi := true, gmask := 0xFFFF0000 }
  | 0x0B => some { attrG with priv := true }
  | 0x0C => some { attrG with d := 64, gmask := 0xFFF }
  | 0x0D => some { attrG with a := 64, gmask := 0xFFF }
  | 0x0E => some { attrG with d := 32, a := 32, xs := [0, 1, 2, 3, 4, 5, 6, 7, 8], priv := true }
  | 0x0F => some attrG
  | 0x10 => some { attrG with dflt := .b32, types := [.b32, .b64], xs := [0, 1, 2, 3], nw := true,
                              d := w, a := w, b := 32, e := 32, gmask := 0xFF000000 }
  | 0x11 => some { attrG with dflt := .b32, types := [.b32], xs := [0, 1, 2, 3], nw := true, d := 32, a := 32 }
  | 0x12 => some { attrG with dflt := .b32, types := [.b32], xs := [0, 1], nw := true, d := 32,
                              a := if x = 0 then 0 else 32, e := 32, gmask := 0xFF000000 }
  | 0x13 => some { attrG with dflt := .b32, types := [.b32, .b64], xs := [0, 1], nw := true, d := 32, a := w,
                              e := if x = 0 then 0 else 32, gmask := if x = 0 then 0 else 0xFF000000 }
  | 0x14 => some { attrG with dflt := .b32, xs := [0, 1, 2, 3, 4, 5], nw := true, d := w, a := w, gmask := 0x3F7,
                              types := (if x ≤ 2 ∨ 5 < x then [.s32, .n32, .s64, .n64, .f32] else []) ++
                                       (if 2 < x then [.b32, .b64] else []) }
  | 0x15 => some { attrG with dflt := .b32, types := [.b32], xs := [0, 1, 2], d := 32, gmask := 0xFF,
                              a := if x = 0 then 0 else 64, b := if x = 0 ∨ x = 1 then 0 else 32,
                              c := if x = 0 ∨ x = 1 then 0 else 64 }
  | 0x16 => some { attrG with dflt := .b32, types := [.b32], xs := [0, 1], d := 32, a := 64, b := 32,
                              c := if x = 0 then 0 else 32, litNone := true, gmask := 0x700 }
  | _ => none

/-- Attributes of rows 0x2, 0x3 and 0x4 (R82). -/
def attrInteger (op : Nat) (w : Nat) : Option Attr :=
  match op with
  | 0x20 | 0x21 | 0x24 => some { attrInt 32 32 32 0 tyInt .s32 with sat := true }
  | 0x22 | 0x23 => some { attrInt 32 32 32 32 [.s32, .n32] .s32 with e := 32 }
  | 0x25 => some (attrInt 32 32 32 0 [.s32, .n32] .s32)
  | 0x26 => some (attrInt 64 32 32 0 [.s32, .n32] .s32)
  | 0x27 => some { attrInt 32 32 32 32 [.s16, .s32, .n16, .n32] .s32 with sat := true }
  | 0x28 | 0x29 => some (attrInt 32 32 32 0 tyInt .s32)
  | 0x2A => some { attrInt 32 32 0 0 [.s8, .s16, .s32] .s32 with sat := true }
  | 0x2B => some { attrInt 32 32 32 0 (tyInt ++ [.b32]) .s32 with xs := [0, 1, 2, 3, 4, 5] }
  | 0x2C => some (attrInt w w w 32 [.b32, .b64] .b32)
  | 0x2D => some { attrInt 64 64 32 0 [.s32, .n32] .s32 with xs := [0, 1, 2, 3, 4, 5, 6, 7] }
  | 0x30 | 0x31 | 0x32 | 0x33 => some (attrInt w w w 0 [.b32, .b64] .b32)
  | 0x34 | 0x3F => some (attrInt w w 0 0 [.b32, .b64] .b32)
  | 0x35 | 0x36 | 0x37 | 0x38 | 0x39 => some { attrInt 32 32 32 0 [.b32] .b32 with bi := true }
  | 0x3A => some (attrInt 32 32 32 0 [.b32, .s32] .b32)
  | 0x3B => some (attrInt 32 32 32 32 [.b32] .b32)
  | 0x3C | 0x3D | 0x3E => some (attrInt 32 w 0 0 [.b32, .b64] .b32)
  | 0x40 => some (attrInt w w 0 0 [.b32, .b64, .b128] .b32)
  | 0x41 => some { attrInt w 0 w 0 [.b32, .b64] .b32 with bi := true }
  | 0x42 | 0x43 => some (attrInt w 32 32 0 [.s32, .n32, .s64, .n64] .s32)
  | 0x44 | 0x45 | 0x46 => some { attrInt 64 64 64 0 [.s64, .n64] .s64 with sat := true }
  | 0x47 | 0x48 | 0x49 => some { attrInt 64 64 32 0 [.s64, .n64, .b64] .s64 with bi := true }
  | 0x4A => some { attrInt 32 64 64 0 [.s64, .n64, .b64] .s64 with xs := [0, 1, 2, 3, 4, 5] }
  | 0x4B | 0x4C => some (attrInt 64 64 64 0 [.s64, .n64] .s64)
  | _ => none

/-- Attributes of rows 0x5 and 0x6 (R104, R106, R117, R120, R123). `w2` is the register width of the second type. -/
def attrFloat (op : Nat) (ty ty2 : Ty) (w w2 : Nat) : Option Attr :=
  match op with
  | 0x50 | 0x51 | 0x52 => some (attrF w w w 0 tyFloat .f32 true true true)
  | 0x53 => some (attrF w w w w tyFloat .f32 true true true)
  | 0x54 | 0x55 => some (attrF w w w 0 tyFloat .f32 false true false)
  | 0x56 => some { attrF 32 w w 0 tyFloat .f32 false true false with xs := [0, 1, 2, 3, 4, 5, 6, 7] }
  | 0x57 => some { attrF 32 w 0 0 tyFloat .f32 false false false with xs := [0, 1] }
  | 0x58 => some (attrF w w 0 0 tyFloat .f32 true true false)
  | 0x59 => some (attrF w w 32 0 tyFloat .f32 true true true)
  | 0x5A | 0x5B => some (attrF 32 32 32 0 [.f16, .bf16] .f16 true true true)
  | 0x5C => some (attrF 32 32 32 32 [.f16, .bf16] .f16 true true true)
  | 0x5D | 0x5E => some (attrF 32 32 32 0 [.f16, .bf16] .f16 false true false)
  | 0x60 | 0x61 => some (attrF 32 32 0 0 tyApprox .f32 false true true)
  | 0x62 => some (attrF w w 0 0 tyFloat .f32 true true false)
  | 0x63 => some (attrF 32 32 0 0 tyApprox .f32 false true true)
  | 0x64 | 0x65 | 0x66 | 0x67 => some (attrF 32 32 0 0 tyApprox .f32 false true false)
  | 0x68 =>
    let ty := if ty = .dflt then Ty.f32 else ty
    some { attrF w w2 (if ty = .w64 then 32 else 0) 0 (tyCvtF ++ tyCvtI ++ [.w64]) .f32
             (ty ≠ .w64)
             (tyCvtF.contains ty || tyCvtF.contains ty2 || ty = .w64)
             ((tyFloat.contains ty) || (tyCvtI.contains ty && tyCvtI.contains ty2)) with
           ty2s := tyCvtF ++ tyCvtI ++ [.w64]
           xs := if tyFp8.contains ty then [0, 1] else [0] }
  | 0x69 =>
    let k := if ty.width = 16 then [0] else if ty.width = 8 then [0, 1] else [0, 1, 2, 3]
    some { attrF 32 32 32 32 tyPack .f32 (ty.isFloat) true (ty = .f16 ∨ ty = .bf16) with
           xs := if tyFp8.contains ty then k ++ [4, 5] else k }
  | 0x6A => some { attrF 32 32 0 0 tyPack .f32 false true false with xs := span 0 (32 / ty.width) }
  | 0x6B => some { attrG with dflt := .b32, types := [.b32, .b64], nw := true, d := w, a := 64, b := 64, c := 64,
                              xs := if ty = .b64 then [0, 1, 4, 5] else [0, 1, 2, 3, 4, 5, 6, 7] }
  | 0x6C => some { attrG with a := 64 }
  | _ => none

/-- Attributes of rows 0x7 and 0x9 (R167, R216). -/
def attrMemory (op x : Nat) (ty : Ty) (w : Nat) : Option Attr :=
  let sizes : List Ty := [.b8, .b16, .b32, .b64, .b128]
  match op with
  | 0x70 => some { attrL 32 64 32 with xs := [0, 1] }
  | 0x71 => some (attrL 0 32 0)
  | 0x72 => some { attrL 32 32 64 with xs := [0, 1] }
  | 0x73 => some { attrL 32 32 32 with ofs := true }
  | 0x74 => some { attrL w 32 0 with types := sizes, xs := [0, 1, 2], ords := [0, 1], ofs := true }
  | 0x75 => some { attrL 0 32 w with types := sizes, xs := [0, 1, 2], ords := [0, 2], ofs := true }
  | 0x76 | 0x77 => some { attrL 0 32 32 with ofs := true }
  | 0x78 => some { attrL (if x = 1 then 64 else 32) (if x = 2 ∨ x = 3 then 0 else 32) 0 with
                   xs := [0, 1, 2, 3], ofs := !(x = 2 || x = 3) }
  | 0x79 => some (attrL 0 32 64)
  | 0x7A => some (attrL 0 32 0)
  | 0x7B => some { attrL 32 32 32 with xs := [0, 1], ofs := true }
  | 0x90 => some { attrL w 64 0 with types := [.s8, .s16, .b8, .b16, .b32, .b64, .b128], ords := [0, 1],
                                     chs := [0, 1, 2], ofs := true }
  | 0x91 => some { attrL 0 64 w with types := sizes, ords := [0, 2], chs := [0, 1, 2], ofs := true }
  | 0x92 => some { attrL w 64 0 with types := [.b32, .b64, .b128], chs := [0, 1, 2], ofs := true }
  | 0x93 => some { attrL w 64 w with types := atomTypes x, xs := [0, 1, 2, 3, 4, 5, 6, 7], ords := [0, 1, 2, 3],
                                     ofs := true, c := if x = 7 then w else 0, tid := ty = .f32 ∨ ty = .f64 }
  | 0x94 => some { attrL 0 64 w with types := if x = 0 ∨ 5 < x then atomTypes 0 ++ [.w64] else atomTypes x,
                                     xs := [0, 1, 2, 3, 4, 5], ords := [0, 2], ofs := true,
                                     tid := ty = .f32 ∨ ty = .f64 ∨ ty = .w64 }
  | 0x95 => some attrG
  | 0x96 => some { attrL 0 64 0 with dflt := .dflt, types := [.dflt], xs := [0, 1], ofs := true }
  | _ => none

/-- Attributes of rows 0x8, 0xA and 0xB (R185, R186, R255, R280, R293, R302 to R304, R327, R334). -/
def attrEngine (op x : Nat) : Option Attr :=
  match op with
  | 0x80 => some { attrG with xs := [0, 1], a := 32, b := 32, gmask := ofsMask }
  | 0x81 => some { attrG with d := 32, a := 32, b := 32, gmask := ofsMask }
  | 0x82 => some { attrG with a := 32, b := 32, gmask := ofsMask + 0xFF }
  | 0x83 => some { attrG with d := 32, a := 32, b := 32, gmask := ofsMask + 0xFF }
  | 0x84 => some { attrG with xs := [0, 1], a := 32, b := 32, gmask := ofsMask }
  | 0x85 => some { attrG with d := 32, a := 32, b := 32, e := 32, gmask := 0xFF03FC00 }
  | 0x86 => some { attrG with d := 32, a := 32, e := 32, gmask := 0xFF03FC00 }
  | 0x87 => some { attrG with d := 32, a := 32, b := 32, gmask := 0x0003FC00 }
  | 0x88 => some { attrG with a := 32, b := 32, gmask := 0x0003FCFF }
  | 0x89 => some { attrG with xs := [0, 1], a := 64, b := 32 }
  | 0xA0 => some { attrG with a := 32, gmask := ofsMask + 0xFF }
  | 0xA1 => some { attrG with d := 32, a := 32, b := 32, gmask := ofsMask + 0xFF }
  | 0xA2 => some { attrG with d := 32, a := 32, gmask := 0xFC00 }
  | 0xA3 => some { attrG with xs := [0, 1, 2], d := 32, a := if x = 2 then 0 else if x = 1 then 64 else 32,
                              b := 32, c := if x = 1 ∨ x = 2 then 0 else 32, gmask := 0x3F0 }
  | 0xA4 => some { attrG with d := 32, a := 32 }
  | 0xA5 => some { attrG with xs := [0, 1], d := 32 }
  | 0xA6 => some { attrG with d := 64, b := 32 }
  | 0xA7 => some { attrG with xs := [0, 1, 2], d := if x = 0 then 64 else 32, b := 32 }
  | 0xA8 => some { attrG with d := 32, a := 64, b := 32, c := 64 }
  | 0xB0 | 0xB4 => some { attrG with d := 32, a := 32, gmask := 0x3FF00 }
  | 0xB1 => some { attrG with a := 32, b := 32, gmask := ofsMask + 0xFF }
  | 0xB2 => some { attrG with d := 64, a := 32, e := 32, gmask := 0xFF000000 }
  | 0xB3 => some { attrG with xs := [0, 1, 2], d := 32, a := 32 }
  | 0xB5 => some { attrG with xs := [0, 1], d := 32, a := 32, b := 32, c := 32 }
  | _ => none

/-- What an opcode accepts under a given X and types; `none` for an unassigned opcode (R30). The types given are the
codes as encoded: 0x00 in FN stands for the opcode's default (R26). -/
def attrOf (op x : Nat) (ty ty2 : Ty) : Option Attr :=
  match op / 16 with
  | 0 | 1 => attrControl op x (if ty = .dflt then 32 else ty.regWidth)
  | 2 | 3 => attrInteger op (if ty = .dflt then 32 else ty.regWidth)
  | 4 => attrInteger op (if ty = .dflt then 32 else ty.regWidth)
  | 5 | 6 => attrFloat op ty ty2 (if ty = .dflt then 32 else ty.regWidth) ty2.regWidth
  | 7 | 9 => attrMemory op x ty (if ty = .dflt then 32 else ty.regWidth)
  | 8 | 10 | 11 => attrEngine op x
  | _ => none

/-- X as the opcode's sub-operation: X[2:0] in class A, X[3:0] otherwise (R18). -/
def Raw.sub (r : Raw) (cls : ModClass) : Nat := if cls = .a then r.x % 8 else r.x

/-- IMMB: X[3] in class A (R18). -/
def Raw.immb (r : Raw) (cls : ModClass) : Bool := cls = .a && 8 ≤ r.x

/-- The FN type, with a reserved code read as the default. -/
def Raw.ty (r : Raw) : Ty := (Ty.ofCode (r.fn % 32)).getD .dflt

/-- The second type held in C, with a reserved code read as the default. -/
def Raw.ty2 (r : Raw) : Ty := (Ty.ofCode (r.c.toNat % 32)).getD .dflt

/-- The attributes that apply to an encoding. -/
def Raw.attr (r : Raw) : Option Attr := attrOf r.op r.x r.ty r.ty2

/-- OFS22 with what REPEAT adds (R20, R62). -/
def Raw.ofs (r : Raw) : Int := toInt (field r.m 10 22) 22 + r.ofsAdd

/-- PBN with what REPEAT adds (R280). -/
def Raw.pbn (r : Raw) : Int := (field r.m 8 10 : Int) + r.repAdd

/-- The second result's code, modifier bits [31:24] (R21). -/
def Raw.e (r : Raw) : Nat := field r.m 24 8

/-- An operand code names a register pair or quad that is misaligned, or a latch for 128 bits (R23). -/
def misaligned (code : Int) (w : Nat) : Bool :=
  (0 ≤ code && code ≤ 247 && ((w = 64 && code % 2 ≠ 0) || (w = 128 && code % 4 ≠ 0))) ||
  (248 ≤ code && code ≤ 255 && w = 128)

/-- A literal's upper bits are all zero or all equal to bit W−1 (R22). -/
def litOk (lit w : Nat) : Bool :=
  64 ≤ w || lit / 2 ^ w = 0 || (bit lit (w - 1) && lit / 2 ^ w = 2 ^ (64 - w) - 1)

/-- The width of operand B that a literal supplies (R22, R23): the type's own where B is an operand of the operation's type
(rows 0x2 and 0x5) or a stored value (R167, R216), otherwise the width of the registers B names. -/
def litWidth (op : Nat) (ty : Ty) (b : Nat) : Nat :=
  if b = 0 then 64
  else if (0x20 ≤ op && op ≤ 0x2B) || (0x50 ≤ op && op ≤ 0x56) || op = 0x75 || op = 0x91 then ty.width
  else b

/-- A latch code as encoded. A REPEAT increment never forms one (R62). -/
def isLatch (code : Int) : Bool := 248 ≤ code && code ≤ 255

/-- The static illegal-encoding conditions 0x02 to 0x0A of an assigned opcode, in the order of R28. A latch in A of exit stands
for its one pair; with more pairs, which would follow it by number, it names none of them (R23, R344, log 56). -/
def Raw.staticDetail (r : Raw) (t : Attr) : Option Nat :=
  let sub := r.sub t.cls
  let immb := r.immb t.cls
  let lit := r.form.hasLit
  let two := !t.ty2s.isEmpty
  let unused : Bool :=
    (t.d = 0 && r.d ≠ 0) || (t.a = 0 && r.a ≠ 0) || (t.b = 0 && r.b ≠ 0) ||
    (t.immOnly && !lit && r.b ≠ 0) ||
    (if two then r.c ≥ 32 else t.c = 0 && r.c ≠ 0) || 32 ≤ r.fn ||
    (match t.cls with
     | .a => if t.e ≠ 0 then field r.m 10 14 ≠ 0 else !immb && field r.m 10 22 ≠ 0
     | .m => (!t.ofs && r.ofs ≠ 0) || (!t.tid && field r.m 4 6 ≠ 0)
     | .g => Nat.land r.m (0xFFFFFFFF - t.gmask) ≠ 0) ||
    (r.op = 0x16 && (4 < field r.m 8 3 || (field r.m 8 3 = 0 && r.b ≠ 0))) ||
    ((r.op = 0xB0 || r.op = 0xB4) && (r.pbn < 0 || 1023 < r.pbn))
  let latchDest : Bool := (t.d ≠ 0 && isLatch r.d) || (t.e ≠ 0 && 248 ≤ r.e)
  let nwBad : Bool := r.nw && (r.d ≠ 0 || !t.nw)
  let tyBad : Bool :=
    (Ty.ofCode (r.fn % 32)).isNone ||
    !(t.types.contains (if r.fn % 32 = 0 then t.dflt else r.ty)) ||
    (two && (r.c = 0 || !(t.ty2s.contains r.ty2) || !(cvtPair (if r.fn % 32 = 0 then t.dflt else r.ty) r.ty2))) ||
    ((r.op = 0x2B || r.op = 0x4A) && (r.ty = .b32 || r.ty = .b64) && 2 ≤ sub && sub ≤ 5)
  let xBad : Bool := !(t.xs.contains sub) || (t.e ≠ 0 && immb)
  let modBad : Bool :=
    match t.cls with
    | .a => (!t.rnd && field r.m 0 2 ≠ 0) || (!t.ftz && bit r.m 2) || (!t.sat && bit r.m 3)
    | .m => !(t.ords.contains (field r.m 0 2)) || !(t.chs.contains (field r.m 2 2))
    | .g => r.op = 0x14 && r.ty ≠ .f32 && r.m ≠ 0
  let pairBad : Bool :=
    misaligned r.d t.d || misaligned r.a t.a || (!lit && !immb && misaligned r.b t.b) || (!two && misaligned r.c t.c) ||
    misaligned r.e t.e || (r.op = 0x16 && isLatch r.b) || (r.op = 0x08 && 2 ≤ sub && isLatch r.a)
  let litBad : Bool :=
    (lit && !t.litOwn && (r.b ≠ 0 || immb || t.b = 0 || t.litNone || !(litOk r.lit (litWidth r.op (if r.fn % 32 = 0 then t.dflt else r.ty) t.b)))) ||
    (lit && (t.litOwn && r.b ≠ 0)) ||
    (lit && t.immOnly && r.m ≠ 0) || (immb && (t.b = 0 || r.b ≠ 0))
  if unused then some 0x02
  else if latchDest then some 0x03
  else if nwBad then some 0x04
  else if r.pn && r.p = 0 then some 0x05
  else if tyBad then some 0x06
  else if xBad then some 0x07
  else if modBad then some 0x08
  else if pairBad then some 0x09
  else if litBad then some 0x0A
  else none

/-- The operand codes formed by REPEAT that name no register, detail 0x0B (R62). -/
def Raw.codesBad (r : Raw) : Bool :=
  r.d < 0 || 255 < r.d || r.a < 0 || 255 < r.a || r.b < 0 || 255 < r.b || r.c < 0 || 255 < r.c

/-- The detail of an illegal encoding, apart from the declared register count (R28, 0x01 to 0x0A, and 0x0B of R62). -/
def Raw.detail (r : Raw) : Option Nat :=
  match r.attr with
  | none => some 0x01
  | some t =>
    match r.staticDetail t with
    | some k => some k
    | none => if r.codesBad then some 0x0B else none

/-- An operand from its 8-bit code (R19). -/
def Opnd.ofCode (n : Nat) : Opnd := if n < 248 then .reg n else .latch (n - 247)

/-- The 8-bit code of an operand. -/
def Opnd.code : Opnd → Nat
  | .reg n => n
  | .latch n => n + 247

end Sys2Proof
end

