-- ==== Sys2Proof/Machine/Fields.lean ====
section
/-! DEFINITION. From typed instructions to the fields of their extended words (R17 to R21) and the registers an
instruction names (R23, R28). -/

namespace Sys2Proof

open Sys2Proof.Machine

/-- The class A modifier bits below IMM22 (R20). -/
def ModA.word (m : ModA) : Nat := m.tid * 2 ^ 4 + b2n m.sat * 8 + b2n m.ftz * 4 + m.rnd.code

/-- The class M modifier word (R20). -/
def ModM.word (m : ModM) : Nat := wrap m.ofs 22 * 2 ^ 10 + m.tid * 2 ^ 4 + m.ch * 4 + m.ord.code

/-- Opcode, X, modifier bits and head of an instruction; `none` for the device's own steps, which have no words. -/
def Instr.parts : Instr → Option (Nat × Nat × Nat × Head)
  | .bra h ofs => some (0x01, 0, wrap ofs 24 * 2 ^ 8, h)
  | .brz h ofs => some (0x02, 0, wrap ofs 24 * 2 ^ 8, h)
  | .brnz h ofs => some (0x03, 0, wrap ofs 24 * 2 ^ 8, h)
  | .jmp h => some (0x04, 0, 0, h)
  | .call h ofs => some (0x05, 0, wrap ofs 24 * 2 ^ 8, h)
  | .ret h => some (0x06, 0, 0, h)
  | .yield h => some (0x07, 0, 0, h)
  | .exit h => some (0x08, 0, 0, h)
  | .exitWithSuccessors h n => some (0x08, n, 0, h)
  | .repeatLoop h byReg count body => some (0x09, b2n byReg, count * 2 ^ 16 + body * 2 ^ 10, h)
  | .trap h code => some (0x0A, 0, code * 2 ^ 16, h)
  | .eret h => some (0x0B, 0, 0, h)
  | .csrr h num => some (0x0C, 0, num, h)
  | .csrw h num => some (0x0D, 0, num, h)
  | .selftestLane h => some (0x0E, 0, 0, h)
  | .selftestRf h => some (0x0E, 1, 0, h)
  | .selftestLar h => some (0x0E, 2, 0, h)
  | .selftestDrw h => some (0x0E, 3, 0, h)
  | .selftestArr h => some (0x0E, 4, 0, h)
  | .selftestBank h => some (0x0E, 5, 0, h)
  | .selftestHbm h => some (0x0E, 6, 0, h)
  | .selftestScm h => some (0x0E, 7, 0, h)
  | .selftestLink h => some (0x0E, 8, 0, h)
  | .nop h => some (0x0F, 0, 0, h)
  | .shfl h k => some (0x10, k.code, 0, h)
  | .vote h k => some (0x11, k.code, 0, h)
  | .elect h p => some (0x12, b2n p, 0, h)
  | .matchLanes h p => some (0x13, b2n p, 0, h)
  | .lred h op tid ftz rnd => some (0x14, op.code, tid * 2 ^ 4 + b2n ftz * 4 + rnd.code, h)
  | .parkNow h k => some (0x15, 0, k, h)
  | .parkUntil h k => some (0x15, 1, k, h)
  | .parkNe h k => some (0x15, 2, k, h)
  | .spawn h l n => some (0x16, b2n l, n * 2 ^ 8, h)
  | .add h m => some (0x20, 0, m.word, h)
  | .sub h m => some (0x21, 0, m.word, h)
  | .addc h m => some (0x22, 0, m.word, h)
  | .subc h m => some (0x23, 0, m.word, h)
  | .mul h m => some (0x24, 0, m.word, h)
  | .mulhi h m => some (0x25, 0, m.word, h)
  | .mulw h m => some (0x26, 0, m.word, h)
  | .mad h m => some (0x27, 0, m.word, h)
  | .min h m => some (0x28, 0, m.word, h)
  | .max h m => some (0x29, 0, m.word, h)
  | .abs h m => some (0x2A, 0, m.word, h)
  | .cmp h m c => some (0x2B, c.code, m.word, h)
  | .sel h m => some (0x2C, 0, m.word, h)
  | .lea h m k => some (0x2D, k, m.word, h)
  | .and h m => some (0x30, 0, m.word, h)
  | .or h m => some (0x31, 0, m.word, h)
  | .xor h m => some (0x32, 0, m.word, h)
  | .andn h m => some (0x33, 0, m.word, h)
  | .not h m => some (0x34, 0, m.word, h)
  | .shl h m => some (0x35, 0, m.word, h)
  | .shr h m => some (0x36, 0, m.word, h)
  | .sar h m => some (0x37, 0, m.word, h)
  | .rol h m => some (0x38, 0, m.word, h)
  | .ror h m => some (0x39, 0, m.word, h)
  | .bfe h m => some (0x3A, 0, m.word, h)
  | .bfi h m => some (0x3B, 0, m.word, h)
  | .popc h m => some (0x3C, 0, m.word, h)
  | .clz h m => some (0x3D, 0, m.word, h)
  | .ctz h m => some (0x3E, 0, m.word, h)
  | .brev h m => some (0x3F, 0, m.word, h)
  | .mov h m => some (0x40, 0, m.word, h)
  | .movi h m => some (0x41, 0, m.word, h)
  | .sext h m => some (0x42, 0, m.word, h)
  | .zext h m => some (0x43, 0, m.word, h)
  | .add64 h m => some (0x44, 0, m.word, h)
  | .sub64 h m => some (0x45, 0, m.word, h)
  | .mul64 h m => some (0x46, 0, m.word, h)
  | .shl64 h m => some (0x47, 0, m.word, h)
  | .shr64 h m => some (0x48, 0, m.word, h)
  | .sar64 h m => some (0x49, 0, m.word, h)
  | .cmp64 h m c => some (0x4A, c.code, m.word, h)
  | .min64 h m => some (0x4B, 0, m.word, h)
  | .max64 h m => some (0x4C, 0, m.word, h)
  | .fadd h m => some (0x50, 0, m.word, h)
  | .fsub h m => some (0x51, 0, m.word, h)
  | .fmul h m => some (0x52, 0, m.word, h)
  | .fma h m => some (0x53, 0, m.word, h)
  | .fmin h m => some (0x54, 0, m.word, h)
  | .fmax h m => some (0x55, 0, m.word, h)
  | .fcmp h m c => some (0x56, c.code, m.word, h)
  | .fclass h m e => some (0x57, b2n e, m.word, h)
  | .fround h m => some (0x58, 0, m.word, h)
  | .fscale h m => some (0x59, 0, m.word, h)
  | .fadd2 h m => some (0x5A, 0, m.word, h)
  | .fmul2 h m => some (0x5B, 0, m.word, h)
  | .fma2 h m => some (0x5C, 0, m.word, h)
  | .fmin2 h m => some (0x5D, 0, m.word, h)
  | .fmax2 h m => some (0x5E, 0, m.word, h)
  | .frcp h m => some (0x60, 0, m.word, h)
  | .frsq h m => some (0x61, 0, m.word, h)
  | .fsqrt h m => some (0x62, 0, m.word, h)
  | .fexp2 h m => some (0x63, 0, m.word, h)
  | .flog2 h m => some (0x64, 0, m.word, h)
  | .fsin h m => some (0x65, 0, m.word, h)
  | .fcos h m => some (0x66, 0, m.word, h)
  | .ftanh h m => some (0x67, 0, m.word, h)
  | .cvt h m o => some (0x68, b2n o, m.word, h)
  | .pack h m k o => some (0x69, k + 4 * b2n o, m.word, h)
  | .unpack h m k => some (0x6A, k, m.word, h)
  | .rand h u w => some (0x6B, w + 4 * b2n u, 0, h)
  | .cntflush h => some (0x6C, 0, 0, h)
  | .lalloc h m e => some (0x70, b2n e, m.word, h)
  | .lfree h m => some (0x71, 0, m.word, h)
  | .luseby h m e => some (0x72, b2n e, m.word, h)
  | .lrenew h m => some (0x73, 0, m.word, h)
  | .ldl h m k => some (0x74, k.code, m.word, h)
  | .stl h m k => some (0x75, k.code, m.word, h)
  | .setempty h m => some (0x76, 0, m.word, h)
  | .setfull h m => some (0x77, 0, m.word, h)
  | .lstateLine h m => some (0x78, 0, m.word, h)
  | .lstateAlloc h m => some (0x78, 1, m.word, h)
  | .lstateRet h m => some (0x78, 2, m.word, h)
  | .lstateFree h m => some (0x78, 3, m.word, h)
  | .smap h m => some (0x79, 0, m.word, h)
  | .sunmap h m => some (0x7A, 0, m.word, h)
  | .sflush h m e => some (0x7B, b2n e, m.word, h)
  | .binit h ofs e => some (0x80, b2n e, wrap ofs 22 * 2 ^ 10, h)
  | .barr h ofs => some (0x81, 0, wrap ofs 22 * 2 ^ 10, h)
  | .bwait h ofs k => some (0x82, 0, wrap ofs 22 * 2 ^ 10 + k, h)
  | .barrw h ofs k => some (0x83, 0, wrap ofs 22 * 2 ^ 10 + k, h)
  | .bbytes h ofs e => some (0x84, b2n e, wrap ofs 22 * 2 ^ 10, h)
  | .hjoin h g => some (0x85, 0, g * 2 ^ 10, h)
  | .hleave h g => some (0x86, 0, g * 2 ^ 10, h)
  | .harr h g => some (0x87, 0, g * 2 ^ 10, h)
  | .hwait h g k => some (0x88, 0, g * 2 ^ 10 + k, h)
  | .hsig h e => some (0x89, b2n e, 0, h)
  | .ldg h m => some (0x90, 0, m.word, h)
  | .stg h m => some (0x91, 0, m.word, h)
  | .ldc h m => some (0x92, 0, m.word, h)
  | .atom h m op => some (0x93, op.code, m.word, h)
  | .red h m op => some (0x94, op.code, m.word, h)
  | .fence h => some (0x95, 0, 0, h)
  | .pref h m e => some (0x96, b2n e, m.word, h)
  | .copy h ofs k => some (0xA0, 0, wrap ofs 22 * 2 ^ 10 + k, h)
  | .enq h ofs k => some (0xA1, 0, wrap ofs 22 * 2 ^ 10 + k, h)
  | .publish h s => some (0xA2, 0, s * 2 ^ 10, h)
  | .collRun h t => some (0xA3, 0, t * 2 ^ 4, h)
  | .collLoad h t => some (0xA3, 1, t * 2 ^ 4, h)
  | .collDrop h t => some (0xA3, 2, t * 2 ^ 4, h)
  | .repart h => some (0xA4, 0, 0, h)
  | .pfenceDie h => some (0xA5, 0, 0, h)
  | .pfencePkg h => some (0xA5, 1, 0, h)
  | .steptag h => some (0xA6, 0, 0, h)
  | .snapStat h => some (0xA7, 0, 0, h)
  | .snapGo h => some (0xA7, 1, 0, h)
  | .snapAbort h => some (0xA7, 2, 0, h)
  | .digest h => some (0xA8, 0, 0, h)
  | .mma h pbn => some (0xB0, 0, pbn * 2 ^ 8, h)
  | .mmwait h ofs k => some (0xB1, 0, wrap ofs 22 * 2 ^ 10 + k, h)
  | .mmrd h => some (0xB2, 0, 0, h)
  | .mmclrAcc h => some (0xB3, 0, 0, h)
  | .mmclrClaim h => some (0xB3, 1, 0, h)
  | .mmclrFree h => some (0xB3, 2, 0, h)
  | .mmscl h pbn => some (0xB4, 0, pbn * 2 ^ 8, h)
  | .mmstBank h => some (0xB5, 0, 0, h)
  | .mmstAcc h => some (0xB5, 1, 0, h)
  | _ => none

/-- The immediate field IMM22 of operand B, or 0 (R20). -/
def BOpnd.imm : BOpnd → Nat
  | .imm22 v => v.toNat
  | _ => 0

/-- IMMB: operand B is the immediate field (R18). -/
def BOpnd.isImm : BOpnd → Bool
  | .imm22 _ => true
  | _ => false

/-- The B field's code, 0 for an immediate or a literal (R22, R27). -/
def BOpnd.code : BOpnd → Nat
  | .src o => o.code
  | _ => 0

/-- The literal, or 0 (R22). -/
def BOpnd.literal : BOpnd → Nat
  | .lit v => v.toNat
  | _ => 0

/-- The fields of the extended form of an instruction (R17 to R21). -/
def Instr.raw (i : Instr) : Option Raw :=
  match i.parts with
  | none => none
  | some (op, x, m, h) =>
    let t := attrOf op x h.ty h.ty2
    let dfl := (t.map Attr.dflt).getD .dflt
    let two := (t.map fun t => !t.ty2s.isEmpty).getD false
    some
      { form := h.form, op := op, x := x + (if h.b.isImm then 8 else 0)
        pn := (h.pred.map Pred.neg).getD false
        p := (h.pred.map fun q => q.src.code).getD 0
        nw := h.nw, d := h.d, a := h.a.code, b := h.b.code
        c := if two then h.ty2.code else h.c.code
        fn := if h.ty = dfl then 0 else h.ty.code
        m := m + h.b.imm * 2 ^ 10 + h.e * 2 ^ 24
        lit := h.b.literal, ofsAdd := 0, repAdd := 0 }

/-- The attributes that apply to an instruction. -/
def Instr.attr (i : Instr) : Option Attr := i.raw.bind Raw.attr

/-- The head of an instruction. -/
def Instr.head (i : Instr) : Option Head := i.parts.map fun p => p.2.2.2

/-- The registers an operand of a given width names: one, a pair or a quad (R23). -/
def regsOf (o : Opnd) (w : Nat) : List Nat :=
  match o with
  | .reg n => if w = 0 then [] else span n ((w + 31) / 32)
  | .latch _ => []

/-- The registers operand B names (R22, R23). -/
def BOpnd.regs (b : BOpnd) (w : Nat) : List Nat :=
  match b with
  | .src o => regsOf o w
  | _ => []

/-- The registers an instruction reads, its predicate among them (R70, R71): the argument registers of spawn (R147)
and the pairs of exit with successors (R344) included. -/
def Instr.sources (i : Instr) : List Nat :=
  match i.head, i.attr with
  | some h, some t =>
    let p := (h.pred.map fun q => regsOf q.src 32).getD []
    match i with
    | .spawn _ _ n => p ++ regsOf h.a t.a ++ h.b.regs (32 * n) ++ regsOf h.c t.c
    | .exitWithSuccessors _ n => p ++ regsOf h.a (64 * n)
    | _ => p ++ regsOf h.a t.a ++ (if t.immOnly then [] else h.b.regs t.b) ++
           (if t.ty2s.isEmpty then regsOf h.c t.c else [])
  | _, _ => []

/-- The registers an instruction writes: D and E, v0 and its pair or quad discarded (R21, R23). -/
def Instr.dests (i : Instr) : List Nat :=
  match i.head, i.attr with
  | some h, some t => (if h.d = 0 then [] else regsOf (.reg h.d) t.d) ++ (if h.e = 0 then [] else regsOf (.reg h.e) t.e)
  | _, _ => []

/-- The latch positions an instruction names in its sources, without its predicate (R77). -/
def Instr.latches (i : Instr) : List Nat :=
  match i.head with
  | some h =>
    (match h.a with | .latch n => [n] | _ => []) ++ (match h.b with | .src (.latch n) => [n] | _ => []) ++
    (match h.c with | .latch n => [n] | _ => [])
  | none => []

/-- KEEP of an instruction that can park (R128). -/
def Instr.keep : Instr → Option Nat
  | .parkNow _ k => some k
  | .parkUntil _ k => some k
  | .parkNe _ k => some k
  | .bwait _ _ k => some k
  | .barrw _ _ k => some k
  | .hwait _ _ k => some k
  | .copy _ _ k => some k
  | .enq _ _ k => some k
  | .mmwait _ _ k => some k
  | _ => none

/-- An instruction names a register at or beyond the declared count, or a KEEP not below it: detail 0x0B (R28, R128). -/
def Instr.overRegs (i : Instr) (n : Nat) : Bool :=
  (i.sources ++ i.dests).any (fun r => n ≤ r) || ((i.keep.map fun k => decide (n ≤ k)).getD false)

/-- Word count of an instruction (R12). -/
def Instr.words (i : Instr) : Nat := (i.head.map fun h => h.form.words).getD 0

end Sys2Proof
end

