-- ==== Sys2Proof/Decode.lean ====
section
/-! DEFINITION. The decoder, total on any words and bytes, and the encoder (R12, R15 to R22, R28). -/

namespace Sys2Proof

open Sys2Proof.Machine

/-- Word count from the LEN field of a first word (R12). -/
def wordCount (w0 : Nat) : Nat :=
  match w0 % 4 with
  | 0 => 1
  | 1 => 3
  | 2 => 3
  | _ => 5

/-- A 7-bit operand code widened to 8 bits (R17). -/
def widen (c : Nat) : Nat := if c < 120 then c else c + 128

/-- The modifier word of a base word's Bi immediate: sign-extended into the field that the opcode's class or entry
defines (R17, R27): OFS24 for the branches, CODE for trap, IMM22 for class A. -/
def baseImm (op b : Nat) (cls : ModClass) : Nat :=
  if cls = .a then sx b 7 22 * 2 ^ 10
  else if op = 0x0A then sx b 7 16 * 2 ^ 16
  else sx b 7 24 * 2 ^ 8

/-- The fields of a base word, widened to the extended form (R15, R17). -/
def rawBase (form : Form) (w lit : Nat) : Raw :=
  let op := field w 2 8
  let t := attrOf op 0 .dflt .dflt
  let cls := (t.map Attr.cls).getD .g
  let bi := (t.map Attr.bi).getD false && form = .base
  { form := form, op := op, x := if bi && cls = .a then 8 else 0, pn := false, p := 0
    nw := bit w 10, d := widen (field w 11 7), a := widen (field w 18 7)
    b := if bi then 0 else if form = .base then widen (field w 25 7) else widen (field w 25 7)
    c := 0, fn := 0, m := if bi then baseImm op (field w 25 7) cls else 0, lit := lit, ofsAdd := 0, repAdd := 0 }

/-- The fields of extended words (R18 to R20). -/
def rawExt (form : Form) (w v m lit : Nat) : Raw :=
  { form := form, op := field w 2 8, x := field w 28 4, pn := bit w 27, p := field w 19 8
    nw := bit w 10, d := field w 11 8, a := field v 0 8, b := field v 8 8, c := field v 16 8, fn := field v 24 8
    m := m, lit := lit, ofsAdd := 0, repAdd := 0 }

/-- The fields of the instruction at the head of a list of words; `none` when the list is too short for it (R12). -/
def rawOf : List Nat → Option Raw
  | [] => none
  | w :: ws =>
    match w % 4, ws with
    | 0, _ => some (rawBase .base w 0)
    | 1, l0 :: l1 :: _ => some (rawBase .baseLit w (l0 + 2 ^ 32 * l1))
    | 2, v :: m :: _ => some (rawExt .ext w v m 0)
    | 3, v :: m :: l0 :: l1 :: _ => some (rawExt .extLit w v m (l0 + 2 ^ 32 * l1))
    | _, _ => none

/-- Class A modifiers of a modifier word (R20). -/
def Raw.modA (r : Raw) : ModA :=
  { tid := field r.m 4 6, sat := bit r.m 3, ftz := bit r.m 2, rnd := Rnd.ofCode (field r.m 0 2) }

/-- Class M modifiers of a modifier word (R20), with what REPEAT adds to the offset (R62). -/
def Raw.modM (r : Raw) : ModM :=
  { ofs := r.ofs, tid := field r.m 4 6, ch := field r.m 2 2, ord := MemOrd.ofCode (field r.m 0 2) }

/-- The typed head of an encoding under its attributes. -/
def Raw.head (r : Raw) (t : Attr) : Head :=
  let two := !t.ty2s.isEmpty
  { form := r.form
    pred := if r.p = 0 then none else some ⟨r.pn, .ofCode r.p⟩
    nw := r.nw, d := r.d.toNat, a := .ofCode r.a.toNat
    b := if r.form.hasLit then .lit (BitVec.ofNat 64 r.lit)
         else if r.immb t.cls then .imm22 (BitVec.ofNat 22 (field r.m 10 22))
         else .src (.ofCode r.b.toNat)
    c := if two then .reg 0 else .ofCode r.c.toNat
    e := if t.e = 0 then 0 else r.e
    ty := if r.fn % 32 = 0 then t.dflt else r.ty
    ty2 := if two then r.ty2 else .dflt }

/-- The typed instruction of a legal encoding. -/
def Raw.build (r : Raw) (t : Attr) : Option Instr :=
  let h := r.head t
  let x := r.sub t.cls
  match r.op with
  | 0x01 => some (.bra h (toInt (field r.m 8 24) 24))
  | 0x02 => some (.brz h (toInt (field r.m 8 24) 24))
  | 0x03 => some (.brnz h (toInt (field r.m 8 24) 24))
  | 0x04 => some (.jmp h)
  | 0x05 => some (.call h (toInt (field r.m 8 24) 24))
  | 0x06 => some (.ret h)
  | 0x07 => some (.yield h)
  | 0x08 => some (if x = 0 then .exit h else .exitWithSuccessors h x)
  | 0x09 => some (.repeatLoop h (x == 1) (field r.m 16 16) (field r.m 10 6))
  | 0x0A => some (.trap h (field r.m 16 16))
  | 0x0B => some (.eret h)
  | 0x0C => some (.csrr h (field r.m 0 12))
  | 0x0D => some (.csrw h (field r.m 0 12))
  | 0x0E => some (match x with | 0 => .selftestLane h | 1 => .selftestRf h | 2 => .selftestLar h | 3 => .selftestDrw h | 4 => .selftestArr h | 5 => .selftestBank h | 6 => .selftestHbm h | 7 => .selftestScm h | _ => .selftestLink h)
  | 0x0F => some (.nop h)
  | 0x10 => some (.shfl h (ShflMode.ofCode x))
  | 0x11 => some (.vote h (VoteMode.ofCode x))
  | 0x12 => some (.elect h (x == 1))
  | 0x13 => some (.matchLanes h (x == 1))
  | 0x14 => some (.lred h (RedOp.ofCode x) (field r.m 4 6) (bit r.m 2) (Rnd.ofCode (field r.m 0 2)))
  | 0x15 => some (if x = 0 then .parkNow h (field r.m 0 8) else if x = 1 then .parkUntil h (field r.m 0 8) else .parkNe h (field r.m 0 8))
  | 0x16 => some (.spawn h (x == 1) (field r.m 8 3))
  | 0x20 => some (.add h r.modA)
  | 0x21 => some (.sub h r.modA)
  | 0x22 => some (.addc h r.modA)
  | 0x23 => some (.subc h r.modA)
  | 0x24 => some (.mul h r.modA)
  | 0x25 => some (.mulhi h r.modA)
  | 0x26 => some (.mulw h r.modA)
  | 0x27 => some (.mad h r.modA)
  | 0x28 => some (.min h r.modA)
  | 0x29 => some (.max h r.modA)
  | 0x2A => some (.abs h r.modA)
  | 0x2B => some (.cmp h r.modA (Cond.ofCode x))
  | 0x2C => some (.sel h r.modA)
  | 0x2D => some (.lea h r.modA x)
  | 0x30 => some (.and h r.modA)
  | 0x31 => some (.or h r.modA)
  | 0x32 => some (.xor h r.modA)
  | 0x33 => some (.andn h r.modA)
  | 0x34 => some (.not h r.modA)
  | 0x35 => some (.shl h r.modA)
  | 0x36 => some (.shr h r.modA)
  | 0x37 => some (.sar h r.modA)
  | 0x38 => some (.rol h r.modA)
  | 0x39 => some (.ror h r.modA)
  | 0x3A => some (.bfe h r.modA)
  | 0x3B => some (.bfi h r.modA)
  | 0x3C => some (.popc h r.modA)
  | 0x3D => some (.clz h r.modA)
  | 0x3E => some (.ctz h r.modA)
  | 0x3F => some (.brev h r.modA)
  | 0x40 => some (.mov h r.modA)
  | 0x41 => some (.movi h r.modA)
  | 0x42 => some (.sext h r.modA)
  | 0x43 => some (.zext h r.modA)
  | 0x44 => some (.add64 h r.modA)
  | 0x45 => some (.sub64 h r.modA)
  | 0x46 => some (.mul64 h r.modA)
  | 0x47 => some (.shl64 h r.modA)
  | 0x48 => some (.shr64 h r.modA)
  | 0x49 => some (.sar64 h r.modA)
  | 0x4A => some (.cmp64 h r.modA (Cond.ofCode x))
  | 0x4B => some (.min64 h r.modA)
  | 0x4C => some (.max64 h r.modA)
  | 0x50 => some (.fadd h r.modA)
  | 0x51 => some (.fsub h r.modA)
  | 0x52 => some (.fmul h r.modA)
  | 0x53 => some (.fma h r.modA)
  | 0x54 => some (.fmin h r.modA)
  | 0x55 => some (.fmax h r.modA)
  | 0x56 => some (.fcmp h r.modA (FCond.ofCode x))
  | 0x57 => some (.fclass h r.modA (x == 1))
  | 0x58 => some (.fround h r.modA)
  | 0x59 => some (.fscale h r.modA)
  | 0x5A => some (.fadd2 h r.modA)
  | 0x5B => some (.fmul2 h r.modA)
  | 0x5C => some (.fma2 h r.modA)
  | 0x5D => some (.fmin2 h r.modA)
  | 0x5E => some (.fmax2 h r.modA)
  | 0x60 => some (.frcp h r.modA)
  | 0x61 => some (.frsq h r.modA)
  | 0x62 => some (.fsqrt h r.modA)
  | 0x63 => some (.fexp2 h r.modA)
  | 0x64 => some (.flog2 h r.modA)
  | 0x65 => some (.fsin h r.modA)
  | 0x66 => some (.fcos h r.modA)
  | 0x67 => some (.ftanh h r.modA)
  | 0x68 => some (.cvt h r.modA (x == 1))
  | 0x69 => some (.pack h r.modA (x % 4) (x / 4 == 1))
  | 0x6A => some (.unpack h r.modA x)
  | 0x6B => some (.rand h (4 ≤ x) (x % 4))
  | 0x6C => some (.cntflush h)
  | 0x70 => some (.lalloc h r.modM (x == 1))
  | 0x71 => some (.lfree h r.modM)
  | 0x72 => some (.luseby h r.modM (x == 1))
  | 0x73 => some (.lrenew h r.modM)
  | 0x74 => some (.ldl h r.modM (LdlMode.ofCode x))
  | 0x75 => some (.stl h r.modM (StlMode.ofCode x))
  | 0x76 => some (.setempty h r.modM)
  | 0x77 => some (.setfull h r.modM)
  | 0x78 => some (match x with | 0 => .lstateLine h r.modM | 1 => .lstateAlloc h r.modM | 2 => .lstateRet h r.modM | _ => .lstateFree h r.modM)
  | 0x79 => some (.smap h r.modM)
  | 0x7A => some (.sunmap h r.modM)
  | 0x7B => some (.sflush h r.modM (x == 1))
  | 0x80 => some (.binit h r.ofs (x == 1))
  | 0x81 => some (.barr h r.ofs)
  | 0x82 => some (.bwait h r.ofs (field r.m 0 8))
  | 0x83 => some (.barrw h r.ofs (field r.m 0 8))
  | 0x84 => some (.bbytes h r.ofs (x == 1))
  | 0x85 => some (.hjoin h (field r.m 10 8))
  | 0x86 => some (.hleave h (field r.m 10 8))
  | 0x87 => some (.harr h (field r.m 10 8))
  | 0x88 => some (.hwait h (field r.m 10 8) (field r.m 0 8))
  | 0x89 => some (.hsig h (x == 1))
  | 0x90 => some (.ldg h r.modM)
  | 0x91 => some (.stg h r.modM)
  | 0x92 => some (.ldc h r.modM)
  | 0x93 => some (.atom h r.modM (AtomOp.ofCode x))
  | 0x94 => some (.red h r.modM (RedOp.ofCode x))
  | 0x95 => some (.fence h)
  | 0x96 => some (.pref h r.modM (x == 1))
  | 0xA0 => some (.copy h r.ofs (field r.m 0 8))
  | 0xA1 => some (.enq h r.ofs (field r.m 0 8))
  | 0xA2 => some (.publish h (field r.m 10 6))
  | 0xA3 => some (if x = 0 then .collRun h (field r.m 4 6) else if x = 1 then .collLoad h (field r.m 4 6) else .collDrop h (field r.m 4 6))
  | 0xA4 => some (.repart h)
  | 0xA5 => some (if x = 0 then .pfenceDie h else .pfencePkg h)
  | 0xA6 => some (.steptag h)
  | 0xA7 => some (if x = 0 then .snapStat h else if x = 1 then .snapGo h else .snapAbort h)
  | 0xA8 => some (.digest h)
  | 0xB0 => some (.mma h r.pbn.toNat)
  | 0xB1 => some (.mmwait h r.ofs (field r.m 0 8))
  | 0xB2 => some (.mmrd h)
  | 0xB3 => some (if x = 0 then .mmclrAcc h else if x = 1 then .mmclrClaim h else .mmclrFree h)
  | 0xB4 => some (.mmscl h r.pbn.toNat)
  | 0xB5 => some (if x = 0 then .mmstBank h else .mmstAcc h)
  | _ => none

/-- The instruction of checked fields, or the detail of the illegal-instruction trap (R28). -/
def Raw.instr (r : Raw) : Except Nat Instr :=
  match r.detail, r.attr with
  | some k, _ => .error k
  | none, some t =>
    match r.build t with
    | some i => .ok i
    | none => .error 0x01
  | none, none => .error 0x01

/-- Why a decoding gives no instruction. -/
inductive DecodeError
  /-- too few words for the length that LEN gives -/
  | short
  /-- the illegal-instruction trap's detail (R28) -/
  | illegal (detail : Nat)
  deriving DecidableEq, Repr

/-- Decode the instruction at the head of a list of words (R12, R28). -/
def decodeWords (ws : List Nat) : Except DecodeError Instr :=
  match rawOf ws with
  | none => .error .short
  | some r =>
    match r.instr with
    | .ok i => .ok i
    | .error k => .error (.illegal k)

/-- The 32-bit words of a list of bytes, each word little-endian (R7, R12). -/
def wordsOf : List Byte → List Nat
  | b0 :: b1 :: b2 :: b3 :: bs => ofBytes [b0, b1, b2, b3] :: wordsOf bs
  | _ => []

/-- Decode the instruction at the head of a list of bytes, with the bytes that follow it. -/
def decode (bs : List Byte) : Except DecodeError (Instr × List Byte) :=
  match decodeWords (wordsOf bs) with
  | .ok i => .ok (i, bs.drop (4 * i.words))
  | .error e => .error e

/-- The instruction at address `pc` runs in pass k of a REPEAT body: one increment entry applied to its fields
(R62). SEL 1 to 4 step an operand code, which never wraps and never reaches a latch code; SEL 5 and 6 the address
offset; SEL 7 the repeat field. -/
def Raw.step (r : Raw) (sel : Nat) (by_ : Int) : Raw :=
  let code (c : Int) : Int := if 0 ≤ c + by_ ∧ c + by_ ≤ 247 then c + by_ else -1
  match sel with
  | 1 => { r with d := code r.d }
  | 2 => { r with a := code r.a }
  | 3 => { r with b := code r.b }
  | 4 => { r with c := code r.c }
  | 5 => { r with ofsAdd := r.ofsAdd + 4 * by_ }
  | 6 => { r with ofsAdd := r.ofsAdd + 256 * by_ }
  | 7 => { r with repAdd := r.repAdd + by_ }
  | _ => r

/-! ### The encoder -/

/-- An 8-bit operand code narrowed to 7 bits (R17). -/
def narrow (c : Nat) : Nat := if c < 120 then c else c - 128

/-- The B field of a base word: a Bi immediate in a word without a literal, otherwise operand B's code (R15). -/
def baseB (r : Raw) (t : Attr) : Nat :=
  if t.bi && r.form = .base then
    (if t.cls = .a then field r.m 10 7 else if r.op = 0x0A then field r.m 16 7 else field r.m 8 7)
  else narrow r.b.toNat

/-- The words of an encoding's fields (R12, R15, R18 to R20). -/
def Raw.wordsOf (r : Raw) (t : Attr) : List Nat :=
  let lits := [r.lit % 2 ^ 32, r.lit / 2 ^ 32]
  let base (len : Nat) : Nat :=
    baseB r t * 2 ^ 25 + narrow r.a.toNat * 2 ^ 18 + narrow r.d.toNat * 2 ^ 11 + b2n r.nw * 2 ^ 10 + r.op * 4 + len
  let ext (len : Nat) : Nat :=
    r.x * 2 ^ 28 + b2n r.pn * 2 ^ 27 + r.p * 2 ^ 19 + r.d.toNat * 2 ^ 11 + b2n r.nw * 2 ^ 10 + r.op * 4 + len
  let opw := r.fn * 2 ^ 24 + r.c.toNat * 2 ^ 16 + r.b.toNat * 2 ^ 8 + r.a.toNat
  match r.form with
  | .base => [base 0]
  | .baseLit => base 1 :: lits
  | .ext => [ext 2, opw, r.m]
  | .extLit => ext 3 :: opw :: r.m :: lits

/-- The words of an instruction; none for a step of the device, which has no encoding. -/
def encode (i : Instr) : List Nat :=
  match i.raw, i.attr with
  | some r, some t => r.wordsOf t
  | _, _ => []

/-- The bytes of an instruction, each word little-endian (R7, R12). -/
def encodeBytes (i : Instr) : List Byte := (encode i).flatMap (toBytes 4)

/-- First, operand and modifier words of the extended form of an encoding's fields, as an operand log and TINST hold
them: LEN[0] is kept and LEN[1] is 1 (R17, R132, R357). -/
def Raw.extWords (r : Raw) : List Nat :=
  [r.x * 2 ^ 28 + b2n r.pn * 2 ^ 27 + r.p * 2 ^ 19 + r.d.toNat * 2 ^ 11 + b2n r.nw * 2 ^ 10 + r.op * 4 +
     (if r.form.hasLit then 3 else 2),
   r.fn * 2 ^ 24 + r.c.toNat * 2 ^ 16 + r.b.toNat * 2 ^ 8 + r.a.toNat, r.m]

/-- The same words of a typed instruction. -/
def Instr.extWords (i : Instr) : List Nat := (i.raw.map Raw.extWords).getD [0, 0, 0]

/-- The instruction that the decoder reads from an instruction whose bits are `w`, bit 0 the least significant of
the first word; the bits above `nbits` are 0. -/
def decodeTableWord (nbits w : Nat) : Option Instr :=
  let v := w % 2 ^ nbits
  match decode (toBytes 20 v) with
  | .ok (i, _) => some i
  | .error _ => none

end Sys2Proof
end

