-- ==== Sys2Proof/Config.lean ====
section
/-! DEFINITION. What the specification leaves open, as constants with no value that a proof could use. Each is named
in an assumption log entry. -/

namespace Sys2Proof.Config

/-- Nanoseconds that pass with a step the agenda does not name, drawn with the tick (log 2). -/
opaque elapse : Nat → Nat

/-- The SM2 signature of the identity key over a report, and the digests of the running firmware images (log 17). -/
opaque sm2Sign : List Byte → List Byte
opaque firmwareDigests : Nat → List Byte

/-- The port that carries a message to a package, or to the switches of switch group g as 1,024 + g; and the payload of a
message whose layout the specification does not give, by its tag (log 19). -/
opaque portOf : Nat → Nat
opaque payload : Nat → List Byte

/-- A payload of class 2 is a send notice; and a package contributes to a switch group, as system software has set the switches up
(logs 19, 33). -/
opaque isNotice : List Byte → Bool
opaque inGroup : Nat → Nat → Bool

/-- The stack of an HBM address, taken modulo 8: the interleaving is not given (R200, log 63). -/
opaque stackOf : Nat → Nat

/-- Bytes that the specification leaves open, drawn with the tick and an address or a number: contents after a failed restore
or repartition, which lines a faulted matrix operation wrote, which of two elements of a copy remains, data that no code corrects
(logs 14, 15, 34, 46). -/
opaque freeByte : Nat → Nat → Byte

/-- µs between a use-by time, or the present, and the last renewal of a line before it, drawn with the tick and the line; taken
modulo the guaranteed retention (log 52). -/
opaque renewalLag : Nat → Nat → Nat

end Sys2Proof.Config
end

