-- ==== Sys2Proof/Machine/State.lean ====
section
/-! DEFINITION. The state of one LX9 package, as plain data: threads, groups and units; registers, latches and
REPEAT state; records, crock and drawer; larder, barrier objects, memory, translation; engines, matrix arrays,
persistence, fabric, dispatch and control registers. Every field is listed in INVENTORY.md under State, with the rule
that names it and its value at reset. -/

namespace Sys2Proof.Machine

/-- Why the machine stops with a fault. No meaning raises one: every fault of the specification is a next state
(a trap entry, a fault-queue entry, a parked thread). -/
inductive Fault
  /-- raised by no meaning and by no step; safe -/
  | unused
  deriving DecidableEq, Repr

/-- Why an instruction has no meaning. -/
inductive Refusal
  /-- an arm of `exec` whose instruction has no meaning yet; safe, since nothing is then claimed -/
  | notModelled (mnemonic : String)
  deriving DecidableEq, Repr

/-! ### Memory accesses -/

/-- The leaf that maps an address: its first byte, its size, its level and its entry (R201, R202). -/
structure Leaf where
  base : Nat
  size : Nat
  level : Nat
  entry : Nat
  deriving DecidableEq, Repr

/-- What a global access does at its address. -/
inductive GOp
  | load (ty : Ty)
  | store
  | atom (op : AtomOp) (ty : Ty)
  | red (op : RedOp) (ty : Ty)
  /-- a fence, which stands among the accesses that it orders (R223) -/
  | fence
  deriving DecidableEq, Repr

/-- One party's global access: address, bytes, operands B and C, acquire, release, slot. -/
structure GAccess where
  op : GOp
  va : Nat
  n : Nat
  b : Nat
  c : Nat
  acquire : Bool
  release : Bool
  tid : Nat
  deriving DecidableEq, Repr

/-- A translated piece of an access: virtual address, offset in the access, bytes, leaf, and the physical address in the
half that was current at its translation (R203, R237). -/
structure Piece where
  va : Nat
  ofs : Nat
  n : Nat
  leaf : Leaf
  pa : Nat
  deriving DecidableEq, Repr

/-- Who issues accesses that are ordered among themselves: a thread by block and linear identifier (R226), the units of
the hub die, the host (R227), a peer package. -/
inductive Party
  | thread (bid lin : Nat)
  | hub
  | host
  | peer (pkg : Nat)
  deriving DecidableEq, Repr

/-- An access that has issued, with its pieces translated: its number in issue order, its party, the core (192 + die for
the queue of a party that is no core), address space and launch; its register result (0 for none), or the tag under which its
answer goes out to a peer or the host; and the number of the issue turn it belongs to (R225). In `State.ops` it is not yet performed. -/
structure Pending where
  no : Nat
  who : Party
  core : Nat
  asid : Nat
  launch : Nat
  wid : Nat
  acc : GAccess
  pieces : List Piece
  reply : Option Nat
  cycle : Nat
  deriving DecidableEq, Repr

/-! ### Threads -/

/-- REPEAT state (R64): the address of the repeat, its length in bytes, the pass, the count, the captured body words
and the increment entries (R61, R62). `fetched` is false from a relaunch or a return until the body is fetched again. -/
structure Repeat where
  addr : Nat
  len : Nat
  pass : Nat
  count : Nat
  body : List Nat
  incs : Nat
  fetched : Bool
  deriving DecidableEq, Repr

/-- One result of the latch window (R74, R75). -/
structure Latch where
  value : Nat
  width : Nat
  readable : Bool
  deriving DecidableEq, Repr

/-- An incoming write (R129): its serial number, the destination code and width, the registers it still writes
(younger writes remove some, R72), and its data once it has returned. -/
structure Incoming where
  wid : Nat
  reg : Nat
  width : Nat
  live : List Nat
  data : Option Nat
  deriving DecidableEq, Repr

/-- The operand log (R132): first, operand and modifier words of the extended form, the effective address, B and C.
`len` is the instruction's length in bytes, `aux` what the instruction keeps across its park (the claimed index of enq plus 1,
the token of barrw), `live` the registers a logged access still writes (R72), and `ended` says that the allocation its line or
object lay in has ended meanwhile (R165). -/
structure OpLog where
  words : List Nat
  ea : Nat
  b : Nat
  c : Nat
  len : Nat
  aux : Nat
  live : List Nat
  ended : Bool
  deriving DecidableEq, Repr

/-- What a parking thread hands to its record (R127 to R132): MODE, the event key, KEEP, RESUME, the log, whether the
event is satisfied already, and the number of the cycle in which its siblings park (R138). `wid` is the incoming write of the
logged access, 0 for none. -/
structure ParkReq where
  mode : Nat
  event : Nat
  keep : Nat
  resume : Nat
  log : Option OpLog
  wid : Nat
  satisfied : Bool
  cycle : Nat
  deriving DecidableEq, Repr

/-- What becomes of a thread once its report is written: it ends, after an unhandled trap (R359), or stays held for want of room
for its record, since a given cycle (R134). -/
inductive AfterReport
  | ends
  | holds (cycle : Nat) (p : Option ParkReq)
  deriving DecidableEq, Repr

/-- Why a resident thread issues nothing (R43, R126, R358). -/
inductive Hold
  | none
  /-- a privileged thread waits in its slot for an event (R358) -/
  | event (key : Nat) (log : OpLog)
  /-- a privileged thread waits for a translation ticket, with its access logged (R358); no log for a fetch -/
  | ticket (t : Nat) (log : Option OpLog)
  /-- its first action is still due: completing the instruction at its pc (MODE 1) or replaying a logged access
  (MODE 2) (R142, R358) -/
  | resume (mode : Nat) (log : OpLog)
  /-- no room for the record (R134), since a given cycle; without a request the instruction is spawn, which issues
  again -/
  | overflow (cycle : Nat) (p : Option ParkReq)
  /-- the fault queue and its holding store are full (R361); what becomes of the thread when its report is written -/
  | report (entry : Nat) (after : AfterReport)
  /-- a paired thread at a check point (R368) -/
  | checkPoint
  /-- too few miss-status entries (R209) -/
  | replay
  deriving DecidableEq, Repr

/-- An asynchronous park that takes effect at the thread's latch-safe point (R79): the instructions it may still
issue, and the record's MODE, event and log. -/
structure AsyncPark where
  left : Nat
  mode : Nat
  event : Nat
  wid : Nat
  log : Option OpLog
  deriving DecidableEq, Repr

/-- A thread resident in a group slot (R38, R42, R69, R357). `lastTurn` is the group turn at which it last issued, 0
when it has not since it became resident (R45). `passed` says that a paired thread has passed the check point of the
instruction at its pc, and `given` holds the old value of an atom that the other copy performed (R368). -/
structure Thread where
  regs : Map Word
  pc : BitVec 64
  rep : Option Repeat
  window : List Latch
  incoming : List Incoming
  hold : Hold
  priv : Bool
  tepc : BitVec 64
  tcause : BitVec 32
  tinfo : BitVec 64
  tinsta : BitVec 64
  tinstb : BitVec 64
  savedRep : Option Repeat
  keptLog : Option OpLog
  walk : Option Nat
  park : Option AsyncPark
  lastTurn : Nat
  passed : Bool
  given : Option Nat
  lin : Nat
  bid : Nat
  deriving DecidableEq, Repr

/-- A kernel header as the dispatcher read it (R52), with its address. `preload` holds the PL bits, PL_LIN bit 0. -/
structure Header where
  addr : Nat
  entry : Nat
  handler : Nat
  dump : Nat
  expect : Nat
  regs : Nat
  larder : Nat
  preload : Nat
  idem : Bool
  paired : Bool
  mayPre : Bool
  deriving DecidableEq, Repr

/-- A group in a group slot (R39, R41, R44, R45): its context and kernel, the number of the unit's turn at which it last issued,
or that of its admission, the count of its own issue turns, and whether its last instruction was a yield (R59). -/
structure Group where
  asid : Nat
  hdr : Header
  lastIssue : Nat
  turn : Nat
  yielded : Bool
  deriving DecidableEq, Repr

/-- A SIMD unit: the number of its last issue turn, whether it is being emptied, the failed lanes it steers past, fenced (R44, R367). -/
structure SimdUnit where
  turn : Nat
  emptying : Bool
  failed : List Nat
  fenced : Bool
  deriving DecidableEq, Repr

/-- The threads issuing together at this step (R45), set by the step before `exec`: core, unit and slot as one group
number, the thread numbers in ascending lane order, the number of the cycle, and first, operand and modifier words. -/
structure Issue where
  group : Nat
  threads : List Nat
  cycle : Nat
  words : List Nat
  deriving DecidableEq, Repr

/-! ### Records and the crock -/

/-- Where a record stands (R133, R134, R144). -/
inductive Place
  | drawer (slots : List Nat)
  | overflow (ofs size : Nat)
  | image
  deriving DecidableEq, Repr

/-- A continuation record (R130 to R132, R135). `incoming` holds its incoming slots in order and `landed` the ones
whose data has arrived (INV); `unit` names its sibling set by the first record of it (R138), `cycle` the cycle it was
written in; `satisfied` says its event is satisfied and `entered` that it has become ready. -/
structure Record where
  core : Nat
  group : Nat
  asid : Nat
  bid : Nat
  handle : Nat
  hdr : Header
  lane : Nat
  lin : Nat
  keep : Nat
  mode : Nat
  rep : Option Repeat
  resume : Nat
  event : Nat
  regs : Map Word
  incoming : List Incoming
  landed : List Nat
  log : Option OpLog
  unit : Nat
  cycle : Nat
  satisfied : Bool
  entered : Bool
  place : Place
  deriving DecidableEq, Repr

/-- A crock bin (R137 to R139): its key, and its units in insertion order, each a set of records. `handle` is 0 but
for paired blocks; `since` is the reading of the core clock, in thousandths of a cycle, at which its timer started. -/
structure Bin where
  asid : Nat
  hdr : Header
  resume : Nat
  handle : Nat
  units : List (List Nat)
  since : Nat
  deriving DecidableEq, Repr

/-- A launched group waiting for admission (R141). -/
structure Launching where
  asid : Nat
  hdr : Header
  rids : List Nat
  deriving DecidableEq, Repr

/-- A counter set bound to a launch (R101), with its number: counters by 3 × slot + kind (0 sat, 1 flush, 2 nan). -/
structure CounterSet where
  no : Nat
  launch : Nat
  counts : Map Nat
  deriving DecidableEq, Repr

/-- An outstanding miss-status entry (R209): its 64-byte sector, whether reads may merge with it, the issue turn of the
instruction that took it, and the incoming writes and accesses it serves. -/
structure MissEntry where
  core : Nat
  sector : Nat
  isRead : Bool
  cycle : Nat
  wids : List Nat
  deriving DecidableEq, Repr

/-- A cached translation, leaf or non-leaf (R205): address space, level, first byte and size of the range, and the
entry. -/
structure Transl where
  asid : Nat
  level : Nat
  base : Nat
  size : Nat
  entry : Nat
  deriving DecidableEq, Repr

/-- A core: LRET, bins, pass queue, launch list, counter sets, TLB, claims of tiles (keys 0, 1) and B units (keys 2 to
17) with those being released (R277), and whether it is fenced or power-gated (R101, R137 to R141, R152, R196, R205, R259, R371). -/
structure Core where
  lret : BitVec 32
  bins : List (Nat × Bin)
  passQueue : List (List Nat)
  launching : List Launching
  counters : List CounterSet
  tlb : List Transl
  claims : Map Nat
  freeing : List Nat
  fenced : Bool
  gated : Bool
  deriving DecidableEq, Repr

/-! ### Larder, engines, matrix -/

/-- State of a physical larder line (R149, R153, R160): stamp, stale bit, full/empty, present, dirty, fetch started. -/
structure Line where
  stamp : Nat
  stale : Bool
  full : Bool
  present : Bool
  dirty : Bool
  fetching : Bool
  deriving DecidableEq, Repr

/-- An allocation of a block (R150, R154, R160): window base, use-by tag, whether the device has ended its life at the use-by
time, stash mapping, physical units in order. -/
structure Alloc where
  base : Nat
  tag : Nat
  expired : Bool
  stash : Option Nat
  phys : List Nat
  deriving DecidableEq, Repr

/-- Physical units whose allocation has ended: its block and launch, the window range it had, the address space and the global
address it was mapped to, and the engine requests that were writing into it then: their writes to the range are discarded, and the units are
free once those have ended and its stash lines are written back (R162, R165, R169). -/
structure FreedUnits where
  serial : Nat
  core : Nat
  asid : Nat
  phys : List Nat
  bid : Nat
  launch : Nat
  base : Nat
  stash : Option Nat
  waits : List Nat
  deriving DecidableEq, Repr

/-- A register result an engine of the core writes later: lrenew and sflush (R171, R177). For sflush, the lines whose
write-back it waits for, with the address space and the global address of each, and whether they are then made not present. -/
structure PendingResult where
  serial : Nat
  bid : Nat
  wid : Nat
  value : Nat
  asid : Nat
  lines : List (Nat × Nat)
  drop : List Nat
  deriving DecidableEq, Repr

/-- An accepted copy request (R239, R245, R252): `core` 192 is the hub die's engine. `done` is the count of elements
below the progress offset (R242), `ticket` the fault it is stopped at, `halves` the current halves of the publish sets
at acceptance (R253), `lines` the bytes it has written of larder lines it has not written whole (R244), `got` the
bytes that peers have returned for it, by virtual address, and `acked` the virtual addresses of the writes that peers have
answered (R314). -/
structure CopyReq where
  serial : Nat
  core : Nat
  asid : Nat
  bid : Nat
  launch : Nat
  addr : Nat
  req : Nat
  done : Nat
  ticket : Option Nat
  halves : Nat
  lines : Map Nat
  got : List Host.Cell
  acked : List Nat
  deriving DecidableEq, Repr

/-- An accepted array operation (R270, R273): opcode and X, its parameter or scale block or mmst control word (for
mmclr.acc the tile), the larder address, the completion object, the token and the K steps completed; whether it has
started, whether an mma has no step left, and how it has faulted. -/
structure MatOp where
  serial : Nat
  asid : Nat
  bid : Nat
  launch : Nat
  op : Nat
  x : Nat
  blk : Nat
  addr : Nat
  cpl : Nat
  token : Nat
  steps : Nat
  started : Bool
  finished : Bool
  fault : Nat
  faultAddr : Nat
  deriving DecidableEq, Repr

/-- A commutative-update partial (R325) of a page without a persist domain: where it stands (core, or 192 + die), the line,
the operation, the type, the partial value at each operand address; and the core, launch and slot that its events are counted
in (R220). -/
structure Partial where
  home : Nat
  line : Nat
  op : RedOp
  ty : Ty
  core : Nat
  launch : Nat
  tid : Nat
  values : Map Nat
  deriving DecidableEq, Repr

/-! ### Contexts, launches, blocks -/

/-- A member of a Harness group (R190): package and block handle, quota, first generation, arrivals, last generation
once it has left. Counts of arrivals and generations are 32-bit. -/
structure HMember where
  pkg : Nat
  handle : Nat
  quota : Nat
  first : Nat
  count : Nat
  last : Option Nat
  deriving DecidableEq, Repr

/-- A Harness group: generations completed, and members (R190). On a package that is not the context's home it holds what
the home agent has told: the generations completed and the package's own members. -/
structure HGroup where
  completed : Nat
  members : List HMember
  deriving DecidableEq, Repr

/-- An hjoin or hleave that waits for the reply of a home agent on another package: block and thread, the incoming writes of
D and E (R192). -/
structure HarnessWait where
  asid : Nat
  grp : Nat
  handle : Nat
  bid : Nat
  lin : Nat
  join : Bool
  quota : Nat
  widD : Nat
  widE : Nat
  deriving DecidableEq, Repr

/-- A repartition descriptor held at the home agent (R333). -/
structure RepartMember where
  pkg : Nat
  handle : Nat
  serial : Nat
  descriptor : Nat
  deriving DecidableEq, Repr

/-- Repartition operations of one Harness group: accepted count, members of the open operation, the running one. -/
structure RepartGroup where
  accepted : Nat
  held : List RepartMember
  running : List RepartMember
  deriving DecidableEq, Repr

/-- A repart issued on this package, waiting for its end (R333): the descriptor, whether it has reached the home agent and
been accepted, the halves of the publish sets at its issue (R253), the ticket the engine is stopped at for it, the bytes that peers
have returned of its input and the virtual addresses of the writes that they have answered; its input as far as it has been read; once the owners are known, what is left to write of its areas, how many bytes of them are
written, and what D becomes then. -/
structure RepartIssue where
  serial : Nat
  asid : Nat
  bid : Nat
  core : Nat
  wid : Nat
  descriptor : Nat
  accepted : Bool
  halves : Nat
  ticket : Option Nat
  got : List Host.Cell
  acked : List Nat
  input : List Byte
  todo : List (Nat × List Byte)
  written : Nat
  fate : Option Nat
  deriving DecidableEq, Repr

/-- A chunk graph (R315, R316): its nodes as 256-bit patterns; and the register result of the coll.drop that frees it once its
runs have ended, 0 where that has none (R328). -/
structure Graph where
  nodes : List Nat
  dropped : Option Nat
  deriving DecidableEq, Repr

/-- A send notice held in the notice table (R320). -/
structure Notice where
  asid : Nat
  graph : Nat
  node : Nat
  pkg : Nat
  run : Nat
  len : Nat
  dt : Ty
  rop : Nat
  deriving DecidableEq, Repr

/-- A run of a chunk graph (R319 to R324): identifier, run number, issuing block, core and launch, slot TID, register
result, completion object, base table and halves of the publish sets at its start; node counters left and nodes done; for a
started node its phase (a SEND: notice sent, cleared, data handed to the port; an SRED: started, first contribution sent,
second sent), bytes completed, the ticket it is stopped at, the tag of its message; contributions still due of each RECV, and
the packages that have been cleared to send one and have not; data that a node has to write, in arrival order; for an SRED its contribution and the result of pass 1; bytes that peers
have returned and the virtual addresses of the writes that they have answered; whether its turn has come, and the fault record it
ends with. -/
structure Run where
  serial : Nat
  asid : Nat
  graph : Nat
  number : Nat
  bid : Nat
  core : Nat
  launch : Nat
  tid : Nat
  wid : Nat
  cpl : Option Nat
  table : List Nat
  halves : Nat
  counters : List Nat
  doneNodes : List Nat
  phase : Map Nat
  progress : Map Nat
  tickets : Map Nat
  tags : Map Nat
  recvLeft : Map Nat
  senders : List (Nat × Nat)
  pend : List (Nat × List Byte)
  contrib : Map (List Byte)
  passOne : Map (List Byte)
  got : List Host.Cell
  acked : List Nat
  active : Bool
  ending : Option Nat
  deriving DecidableEq, Repr

/-- A pending coll.load (R328), with the halves of the publish sets at its issue (R253), the ticket its read is stopped at and the
bytes that peers have returned. -/
structure CollLoad where
  serial : Nat
  asid : Nat
  wid : Nat
  addr : Nat
  n : Nat
  ident : Nat
  bid : Nat
  halves : Nat
  ticket : Option Nat
  got : List Host.Cell
  deriving DecidableEq, Repr

/-- A capture in progress (R299): context, region, step, device time in µs of its steptag, captured chunks with their
bytes other than zero by offset, chunks to capture because they are written, stripes durable, lag over, and the slot of
fragments it writes (R297), and the halves of the publish sets that were current then (R253). -/
structure Capture where
  asid : Nat
  region : Nat
  step : Nat
  start : Nat
  captured : List (Nat × List (Nat × Byte))
  onWrite : List Nat
  stripes : List Nat
  lagOver : Bool
  slot : Nat
  halves : Nat
  deriving DecidableEq, Repr

/-- A live context (R335, R336): the descriptor as read at create or resume, frozen, pre-empted, queues in use, save
and overflow areas, Harness groups, graphs, tickets outstanding. -/
structure Context where
  root : Nat
  qbase : Nat
  psbase : Nat
  trbase : Nat
  ovbase : Nat
  ovsize : Nat
  svbase : Nat
  svsize : Nat
  fqbase : Nat
  fqlog2n : Nat
  fqvec : Nat
  draint : Nat
  flusht : Nat
  drainlim : Nat
  crtime : Nat
  home : Nat
  sys : Bool
  frozen : Bool
  preempted : Bool
  leaving : Bool
  saveFull : Bool
  saves : Nat
  savePages : List Nat
  ovFault : Bool
  fqwidx : Nat
  queues : List Nat
  stalled : Map Nat
  deadlocked : List Nat
  harness : Map HGroup
  reparts : Map RepartGroup
  graphs : Map Graph
  runCounts : Map Nat
  deriving DecidableEq, Repr

/-- What a launch is (R337, R338, R343). -/
inductive LaunchKind
  | grid
  | mask
  | task
  deriving DecidableEq, Repr

/-- A taken launch packet or task record (R337 to R343): its 512 bits, its header, the queue, priority, ring slot and index it came
from, the template address of a task record, the blocks not yet started as (linear index, stage), for a mask launch as
(rank, core), the cores of the grid's blocks started by 8 × linear index + stage (R50), the block counts and the failed count (R346), and whether its fencing fault has been reported. -/
structure Launch where
  asid : Nat
  queue : Nat
  prio : Nat
  slot : Nat
  index : Nat
  kind : LaunchKind
  packet : Nat
  hdr : Header
  template : Nat
  todo : List (Nat × Nat)
  cores : Map Nat
  total : Nat
  ended : Nat
  failed : Nat
  fenceFault : Bool
  deriving DecidableEq, Repr

/-- A dump of a counter set in progress (R103): the set's number, core, launch and address space it is of, the dump address, the counts read
and zeroed at its start, how many of the 192 counters have been added, and the ticket it is stopped at. -/
structure PendingDump where
  serial : Nat
  set : Nat
  core : Nat
  launch : Nat
  asid : Nat
  addr : Nat
  counts : Map Nat
  next : Nat
  ticket : Option Nat
  deriving DecidableEq, Repr

/-- The pairing of a block's two copies (R368, R369): the block of the other copy, whether this is the copy whose
writes are performed, store signature, held writes, and mismatches so far. -/
structure Pairing where
  other : Nat
  first : Bool
  signature : Nat
  held : List Pending
  mismatches : Nat
  deriving DecidableEq, Repr

/-- What pre-emption does with a block (R349, R350): it drains since a given µs, or since then for good once DRAINLIM has
passed with no room to save it; it is being saved; it is in an image at a page of the save area; or it is flushed. -/
inductive BlockState
  | running
  | draining (since : Nat)
  | late
  | saving
  | saved (page : Nat)
  | flushed
  deriving DecidableEq, Repr

/-- A block (R48 to R51, R55, R344, R349): launch, core, handle, linear index and stage (for a mask launch rank and core),
preload values v7 to v11 and v14:v15, successors, failed, threads it has had, instructions issued, threads alive, initial
groups not yet admitted, allocations, pairing and pre-emption; whether a pre-emption has named it. -/
structure Block where
  asid : Nat
  launch : Nat
  core : Nat
  handle : Nat
  linear : Nat
  stage : Nat
  pre : List Nat
  succ : List Nat
  failed : Bool
  threads : Nat
  issued : Nat
  alive : Nat
  waiting : List Nat
  allocs : List Alloc
  pairing : Option Pairing
  state : BlockState
  byPre : Bool
  deriving DecidableEq, Repr

/-- An allocation in a save image (R164): window base, REMAIN (none for an expired one, whose tag is kept), tag, stash
mapping, units; age, state and data of each line. -/
structure SavedAlloc where
  base : Nat
  tag : Nat
  remain : Option Nat
  stash : Option Nat
  units : Nat
  lines : List (Nat × Line × List Byte)
  deriving DecidableEq, Repr

/-- What a save image holds of a block beside its records (R164, R246, R278): where the image is and its size in pages, its
save number; allocations; claim keys, and those that are being released; cells and state words of tiles; bytes of B units, by key; operations; and its units
of records that had entered the crock, in their order (R144). -/
structure SavedBlock where
  page : Nat
  pages : Nat
  serial : Nat
  allocs : List SavedAlloc
  claims : List Nat
  freeing : List Nat
  tiles : List (Nat × Nat × List (Nat × Nat))
  banks : List (Nat × List (Nat × Byte))
  ops : List MatOp
  order : List (List Nat)
  deriving DecidableEq, Repr

/-- A packet taken from a queue and not yet processed (R250): its queue, the queue's priority, its index and ring slot, its
512 bits, and the address of its template when a successor enqueue placed it (R343). -/
structure Packet where
  serial : Nat
  asid : Nat
  queue : Nat
  prio : Nat
  index : Nat
  slot : Nat
  data : Nat
  template : Nat
  deriving DecidableEq, Repr

/-- A task record that a successor enqueue placed in a queue of this package at an index, and its template (R343). -/
structure Placed where
  asid : Nat
  queue : Nat
  index : Nat
  template : Nat
  deriving DecidableEq, Repr

/-- An index that a thread of another package has claimed of a queue that has no slot for its packet (R251): package and tag to
tell when there is one. -/
structure RemoteClaim where
  pkg : Nat
  tag : Nat
  asid : Nat
  queue : Nat
  deriving DecidableEq, Repr

/-- A successor of a retired block still to be enqueued (R345): its number, the address of its template and the retiring block's
handle; the template's bits once read, with what peers have returned of them; the number of the decrement of its counter, 0
before it, and what that found; whether it is to be enqueued, and the index claimed for it. -/
structure Successor where
  no : Nat
  asid : Nat
  template : Nat
  handle : Nat
  data : Option Nat
  got : List Host.Cell
  wid : Nat
  old : Option Nat
  ready : Bool
  claim : Option Nat
  deriving DecidableEq, Repr

/-- A signal held for a block that is not resident (R197). -/
structure HeldSignal where
  asid : Nat
  bid : Nat
  obj : Nat
  bytes : Bool
  count : Nat
  deriving DecidableEq, Repr

/-- An outstanding translation ticket (R211): its number, context, reason, range, core, and whether the walker resolves
it by itself (R214) or an engine owns it. -/
structure Ticket where
  number : Nat
  asid : Nat
  reason : Nat
  base : Nat
  size : Nat
  core : Nat
  engine : Bool
  self : Bool
  deriving DecidableEq, Repr

/-- A walk in progress for an access of a thread (R205, R210), which has no pieces yet: the thread, the access, its operand
log, and the ticket that the walker resolves by itself once its thread has parked, 0 while it is resident (R214). -/
structure Walk where
  thread : Nat
  x : Pending
  log : OpLog
  ticket : Nat
  deriving DecidableEq, Repr

/-- A publish swap (R254): the block that issued it, the requests accepted before it that it waits for, the entry of its set in memory once it has
started, the register result and the new version. -/
structure Swap where
  serial : Nat
  asid : Nat
  bid : Nat
  set : Nat
  waitFor : List Nat
  entry : Option Piece
  wid : Nat
  version : Nat
  deriving DecidableEq, Repr

/-! ### Persistence -/

/-- An entry of an ordered write-back queue (R289): its number in the order in which entries entered the four queues,
physical address and bytes within one granule, package epoch (R295). -/
structure WbEntry where
  no : Nat
  pa : Nat
  bytes : List Byte
  epoch : Nat
  deriving DecidableEq, Repr

/-- A pfence in progress (R295): its serial, which is higher than the numbers of the accesses issued before it; its die,
package reach or not, the register result, block and thread. -/
structure Pfence where
  serial : Nat
  die : Nat
  pkg : Bool
  wid : Nat
  who : Party
  deriving DecidableEq, Repr

/-- A digest request (R304), with the halves of the publish sets at its acceptance (R253), the progress, the ticket it is stopped
at, and what peers have returned and answered. -/
structure DigestReq where
  serial : Nat
  asid : Nat
  bid : Nat
  core : Nat
  addr : Nat
  len : Nat
  dst : Nat
  wid : Nat
  halves : Nat
  ticket : Option Nat
  got : List Host.Cell
  acked : List Nat
  deriving DecidableEq, Repr

/-- A fragment of a snapshot stored for a peer package, in one of the two slots of its region (R297, R298). -/
structure Fragment where
  pkg : Nat
  job : Nat
  region : Nat
  step : Nat
  stripe : Nat
  frag : Nat
  slot : Nat
  data : List (Nat × Byte)
  trailer : List Byte
  deriving DecidableEq, Repr

/-! ### Fabric -/

/-- One traffic class of a port, sending and receiving side (R308): next SEQ to send, last acknowledged, flits held in
the replay buffer and those that wait for room there, since when its ACK has not advanced, last SEQ accepted, since when an ACK
that advanced has not been carried, since when a busy refusal makes it wait; times in ns. -/
structure PortClass where
  next : Nat
  acked : Nat
  replay : List Flit
  waiting : List Flit
  since : Nat
  accepted : Nat
  ackDue : Option Nat
  busy : Option Nat
  deriving DecidableEq, Repr

/-- A Tlalith port (R308, R311, R312): good lanes, width, announced mode, counters, retraining, failed; when a flit with a correct CRC
last came, none before it is trained, and when an ACK last advanced or a busy refusal came, in ns; and its six classes. -/
structure Port where
  good : Nat
  width : Nat
  mode : Nat
  retrain : Nat
  naks : Nat
  replays : Nat
  retraining : Bool
  failed : Bool
  heard : Option Nat
  moved : Nat
  classes : List PortClass
  deriving DecidableEq, Repr

/-- How a switch reduces the contributions to an SRED: element by element, or, in pass 1 of a windowed sum, the greatest of bits
[15:0] of each word read as s16, and the OR of bits [18:16] (R322, R324). -/
inductive SwitchOp
  | elements (op : RedOp) (dt : Ty)
  | exponents
  deriving DecidableEq, Repr

/-- What this package sends to other packages, to the switches and to the host, as messages. -/
inductive Msg
  | flit (port : Nat) (image : List Byte)
  | memory (pkg tag : Nat) (req : MemReq)
  | memoryReply (pkg tag : Nat) (data : List Byte)
  | signal (asid name count : Nat) (bytes : Bool)
  | harnessArrive (asid grp pkg handle count : Nat)
  | harnessMember (asid grp pkg handle : Nat) (join : Bool) (quota : Nat)
  | harnessReply (asid grp pkg handle value : Nat)
  | harnessDone (asid grp completed : Nat)
  | notice (asid graph node pkg run len : Nat) (dt : Ty) (rop : Nat)
  | clearToSend (asid graph node pkg run : Nat)
  | collective (asid graph node pkg run : Nat) (data : List Byte)
  | switchData (push : Bool) (group run node : Nat) (op : SwitchOp) (data : List Byte)
  | endOfRun (asid graph node pkg run : Nat)
  | repart (asid pkg handle descriptor serial : Nat)
  | records (asid grp pkg : Nat) (data : List Byte)
  | repartEnd (asid grp pkg : Nat)
  | repartStart (asid grp pkg : Nat)
  | fragment (pkg job region step stripe frag slot : Nat) (data : List (Nat × Byte)) (trailer : List Byte)
  | enqueue (pkg tag asid queue packet template : Nat) (claim : Option Nat)
  | failed (pkg : Nat)
  | msix (vector : Nat)
  | hostReply (data : Option (List Byte))
  | report (bytes : List Byte)
  deriving DecidableEq, Repr

/-- What a PEER access that waits for its response is for (R314): a piece of an access, at an offset in it; a stash line
that is fetched, or written back; bytes that an engine's request reads, or has written, at a virtual address; a packet that a thread
sends to a queue (R256); the word that a thread watches (R146);
a word of code for a launch (R13). -/
inductive PeerUse
  | piece (p : Pending) (ofs : Nat)
  | fetch (line : Nat)
  | writeBack (line : Nat)
  | read (serial va : Nat)
  | written (serial va : Nat)
  | packet (who : Party)
  | watch (who : Party)
  | code (launch : Nat)
  deriving DecidableEq, Repr

/-- A PEER access that waits for its response (R314): its tag, the package, the block it is of (0 for none), the physical
address there and the bytes, the leaf it went through, what it is for, the data once returned, and when it was sent, in ns. -/
structure PeerAccess where
  tag : Nat
  pkg : Nat
  asid : Nat
  bid : Nat
  pa : Nat
  n : Nat
  leaf : Leaf
  use : PeerUse
  got : Option (List Byte)
  sent : Nat
  deriving DecidableEq, Repr

/-- A word of code that a peer package has returned: the launch that fetched it, package, physical address, word (R14,
R314). -/
structure CodeWord where
  launch : Nat
  pkg : Nat
  pa : Nat
  word : Nat
  deriving DecidableEq, Repr

/-- A selftest that is running (R374): X, selector, the register result. -/
structure RunningTest where
  serial : Nat
  x : Nat
  selector : Nat
  wid : Nat
  deriving DecidableEq, Repr

/-- A fault report waiting at the hub die (R361). -/
structure HeldReport where
  asid : Nat
  entry : Nat
  deriving DecidableEq, Repr

/-- What moves next: one SIMD unit issues, one step of the device happens, or an error that no code corrects strikes the
32-byte word at a physical address; `loc` is what ARRLOG says of it in [57:0] (R370, R372); the device gates the power of a core
(R196). -/
inductive Act
  | issue (core unit : Nat)
  | event (i : Instr)
  | upset (pa loc : Nat)
  | gate (core : Nat)
  deriving DecidableEq, Repr

/-- One entry of the agenda: the move, and the nanoseconds that pass with it. -/
structure Move where
  ns : Nat
  act : Act
  deriving DecidableEq, Repr

/-- The control registers that hold a value of their own (R366), except logs and per-thread registers. `tlbSince` is the serial
number at the last TLBINV write, above those of the accesses that used a translation it dropped (R205). `restored` holds status and
chunk of a restore that has handed over its writes and waits for them (R305), `rebuilt` the status of a rebuild that has (R379). `margin`, `rebuild` and `raised` hold the values
written to TLMCTL, STITCH and VMCTL with the GO of the action that is running (R313, R379, R384). `clkTicks` counts the
core clock in thousandths of a cycle up to the device time `clkSince` of the last change of its step (R381). -/
structure Regs where
  tlbinv : BitVec 64
  tlbSince : Nat
  deadsig : BitVec 64
  pstat : BitVec 64
  rstctl : BitVec 64
  restored : Option (Nat × Nat)
  ctxbase : BitVec 64
  ctxctl : BitVec 64
  prectl : BitVec 64
  prestat : BitVec 64
  tlmctl : BitVec 64
  tlmres : BitVec 64
  margin : Nat
  clkstep : BitVec 64
  clkTicks : Nat
  clkSince : Nat
  bootstage : BitVec 64
  hbmcfg : BitVec 64
  hbmcfgNext : Option (BitVec 64)
  thsel : BitVec 64
  defsel : BitVec 64
  stitch : BitVec 64
  rebuild : Nat
  rebuilt : Option Nat
  vmctl : BitVec 64
  vmres : BitVec 64
  raised : Nat
  deriving DecidableEq, Repr

/-- The state of one LX9 package. -/
structure State where
  /-- what moves next, oldest first; the model's own -/
  agenda : List Move
  /-- counter that free values are drawn with; the model's own -/
  tick : Nat
  /-- serial numbers given to records, requests, blocks; the model's own -/
  serial : Nat
  /-- the threads issuing at this step; the model's own -/
  issuing : Option Issue
  timebase : BitVec 64
  pkg : Nat
  /-- packages of the load-store domain, and those of them that have been named failed (R314, R378) -/
  domain : List Nat
  failed : List Nat
  threads : Map Thread
  groups : Map Group
  units : Map SimdUnit
  cores : Map Core
  records : Map Record
  lines : Map Line
  larder : List Host.Cell
  freed : List FreedUnits
  lrenews : List PendingResult
  sflushes : List PendingResult
  memory : List Host.Cell
  hostMemory : List Host.Cell
  /-- words whose data no code corrects, with ARRLOG [57:0] of each: 32-byte words of device memory by address, 64-bit words
  of the larders from 2^46, cores with such a word in tiles or B banks from 2^47 (R370, R372) -/
  poison : Map Nat
  misses : List MissEntry
  walkCaches : Map (List Transl)
  walks : List Walk
  tickets : List Ticket
  nextTicket : Nat
  tiles : Map Nat
  tileWords : Map Nat
  bank : List Host.Cell
  copies : List CopyReq
  queuesMat : Map (List MatOp)
  partials : List Partial
  swaps : List Swap
  contexts : Map Context
  launches : Map Launch
  blocks : Map Block
  /-- contents of save images, by block (R352) -/
  saved : Map SavedBlock
  packets : List Packet
  successors : List Successor
  placed : List Placed
  remoteClaims : List RemoteClaim
  lastServed : Map Nat
  signals : List HeldSignal
  harnessWaits : List HarnessWait
  heldReports : List HeldReport
  wbqs : List (List WbEntry)
  /-- accesses issued and not yet performed, in issue order (R226, R290) -/
  ops : List Pending
  epoch : Nat
  pfences : List Pfence
  /-- what the storage-class stacks hold (R287, R288) -/
  scm : List Host.Cell
  captures : List Capture
  /-- the slot that holds STABLE, by context × 16 + region; a number that is not listed has slot 0 (R297) -/
  stableSlots : Map Nat
  fragments : List Fragment
  digests : List DigestReq
  ports : List Port
  received : List Flit
  outbox : List Msg
  peers : List PeerAccess
  /-- when each package last answered a request, in ns (R378) -/
  answered : Map Nat
  code : List CodeWord
  notices : List Notice
  runs : List Run
  collLoads : List CollLoad
  repartIssues : List RepartIssue
  dumps : List PendingDump
  tests : List RunningTest
  preempting : List Nat
  arrlog : List (BitVec 64)
  xfrlog : List (BitVec 64)
  faillog : List (BitVec 64)
  fusedMap : List (BitVec 64)
  serviceMap : List (BitVec 64)
  temps : Map Nat
  selfRefresh : List Nat
  /-- pseudo-channels that no spare lane is left for, as stack × 64 + channel × 2 + pseudo-channel (R370) -/
  fencedPcs : List Nat
  /-- stacks that force contexts to be frozen, each with a context, in the order they were frozen (R377) -/
  freezeOrder : List (Nat × Nat)
  regs : Regs
  deriving DecidableEq, Repr

/-- A thread with nothing in it (R42): registers zero, window empty, user mode. The trap registers hold zero until a
trap writes them. -/
def Thread.fresh (pc : BitVec 64) (lin bid : Nat) : Thread :=
  { regs := [], pc := pc, rep := none, window := [], incoming := [], hold := .none, priv := false
    tepc := 0, tcause := 0, tinfo := 0, tinsta := 0, tinstb := 0, savedRep := none, keptLog := none
    walk := none, park := none, lastTurn := 0, passed := false, given := none, lin := lin, bid := bid }

/-- A SIMD unit at reset. -/
def SimdUnit.reset : SimdUnit := { turn := 0, emptying := false, failed := [], fenced := false }

/-- A core at reset: LRET.GUAR 0x01F4 (R152), everything else empty. -/
def Core.reset : Core :=
  { lret := 0x01F4, bins := [], passQueue := [], launching := [], counters := [], tlb := [], claims := [], freeing := []
    fenced := false, gated := false }

/-- A larder line that nothing has written. -/
def Line.reset : Line :=
  { stamp := 0, stale := false, full := false, present := false, dirty := false, fetching := false }

/-- One class of a port at reset: no flit sent or accepted. SEQ counts from 0, so the last accepted is 2^20 − 1. -/
def PortClass.reset : PortClass :=
  { next := 0, acked := 0xFFFFF, replay := [], waiting := [], since := 0, accepted := 0xFFFFF, ackDue := none, busy := none }

/-- A port at reset (R312). -/
def Port.reset : Port :=
  { good := 0, width := 0, mode := 0, retrain := 0, naks := 0, replays := 0, retraining := false, failed := false
    heard := none, moved := 0, classes := List.replicate 6 PortClass.reset }

/-- The control registers at reset (R152, R198, R205, R291, R305, R312, R313, R336, R348, R375, R380, R381). -/
def Regs.reset : Regs :=
  { tlbinv := 0, tlbSince := 0, deadsig := 0, pstat := 0, rstctl := 0, restored := none, ctxbase := 0, ctxctl := 0, prectl := 0, prestat := 0
    tlmctl := 0, tlmres := 0, margin := 0, clkstep := 0x00170411, clkTicks := 0, clkSince := 0, bootstage := 0, hbmcfg := 0x5555, hbmcfgNext := none
    thsel := 0, defsel := 0, stitch := 0, rebuild := 0, rebuilt := none, vmctl := 0, vmres := 0, raised := 0 }

/-- The machine right after reset: no context, no thread, boot stage 0 (R380), memory with nothing listed (R395). -/
def State.reset : State :=
  { agenda := [], tick := 0, serial := 1, issuing := none, timebase := 0, pkg := 0, domain := [0], failed := []
    threads := [], groups := [], units := [], cores := [], records := [], lines := [], larder := [], freed := []
    lrenews := [], sflushes := [], memory := [], hostMemory := [], poison := [], misses := [], walkCaches := [], walks := []
    tickets := [], nextTicket := 1, tiles := [], tileWords := [], bank := [], copies := [], queuesMat := [], partials := [], swaps := []
    contexts := [], launches := [], blocks := [], saved := [], packets := [], successors := [], placed := [], remoteClaims := [], lastServed := [], signals := [], harnessWaits := []
    heldReports := [], wbqs := [[], [], [], []], ops := [], epoch := 0, pfences := [], scm := []
    captures := [], stableSlots := [], fragments := [], digests := [], ports := List.replicate 16 Port.reset
    received := [], outbox := [], peers := [], answered := [], code := [], notices := [], runs := [], collLoads := [], repartIssues := []
    dumps := [], tests := [], preempting := [], arrlog := [], xfrlog := [], faillog := [], fusedMap := [], serviceMap := []
    temps := [], selfRefresh := [], fencedPcs := [], freezeOrder := [], regs := Regs.reset }

end Sys2Proof.Machine
end

