-- ==== Sys2Proof/Machine/Ports.lean ====
section
/-! DEFINITION. The sending side of the Tlalith ports (R307 to R310): a message is cut into flits, each class numbers its
own flits and holds them in the replay buffer until they are acknowledged. -/

namespace Sys2Proof.Machine

/-! ### Messages as flits -/

/-- The traffic class a message travels in (R307), `none` for what the fabric does not carry. Class 5 for signals, Harness
messages, fragments and notices is the model's (log 19). -/
def Msg.cls : Msg → Option Nat
  | .memory .. => some 0
  | .memoryReply .. => some 1
  | .notice .. | .clearToSend .. | .collective .. | .endOfRun .. | .switchData .. => some 2
  | .repart .. | .records .. | .repartStart .. | .repartEnd .. => some 3
  | .enqueue .. => some 4
  | .signal .. | .harnessArrive .. | .harnessMember .. | .harnessReply .. | .harnessDone .. | .fragment .. | .failed .. =>
    some 5
  | .flit .. | .msix .. | .hostReply .. | .report .. => none

/-- The home package of a context (R189). -/
def State.homeOf (s : State) (asid : Nat) : Nat := ((s.contexts.look asid).map Context.home).getD 0

/-- Where a message goes: packages, or the switches of a group. -/
def State.destsOf (s : State) (m : Msg) : List Nat :=
  match m with
  | .memory p _ _ | .memoryReply p _ _ | .harnessReply _ _ p _ _ | .notice _ _ _ p _ _ _ _ | .clearToSend _ _ _ p _
  | .collective _ _ _ p _ _ | .endOfRun _ _ _ p _ | .repart _ p _ _ _ | .records _ _ p _ | .repartStart _ _ p
  | .repartEnd _ _ p | .fragment p _ _ _ _ _ _ _ _ | .enqueue p _ _ _ _ _ _ => [p]
  | .signal _ name _ _ => [field name 54 10]
  | .harnessArrive a _ _ _ _ | .harnessMember a _ _ _ _ _ => [s.homeOf a]
  | .harnessDone .. | .failed .. => s.domain.filter fun p => p ≠ s.pkg
  | .switchData _ g _ _ _ _ => [1024 + g]
  | .flit .. | .msix .. | .hostReply .. | .report .. => []

/-- The payload of a message: its data where the specification gives it, else bytes of an unnamed layout (log 19). -/
def Msg.payload (m : Msg) (tag : Nat) : List Byte :=
  match m with
  | .collective _ _ _ _ _ d | .switchData _ _ _ _ _ d | .records _ _ _ d => d
  | .enqueue _ t asid queue packet template claim =>
    toBytes 8 t ++ toBytes 2 asid ++ toBytes 2 queue ++ toBytes 64 packet ++ toBytes 8 template ++ (claim.map (toBytes 8)).getD []
  | _ => Config.payload tag

/-- The header of a flit (R307). -/
def flitHeader (f : Flit) : Nat :=
  f.seq % 2 ^ 20 * 2 ^ 108 + f.ack % 2 ^ 20 * 2 ^ 88 + f.kind % 4 * 2 ^ 86 + f.nreason % 4 * 2 ^ 84 + f.cls % 16 * 2 ^ 80 +
    f.plen % 2 ^ 8 * 2 ^ 72 + f.dpkg % 2 ^ 10 * 2 ^ 62 + f.spkg % 2 ^ 10 * 2 ^ 52 + b2n f.first * 2 ^ 51 + b2n f.last * 2 ^ 50 +
    f.mtag % 2 ^ 18 * 2 ^ 32

/-- The 256 bytes of a flit: header, payload, and the trailer with the CRC of both (R306, R307). -/
def flitImage (f : Flit) : List Byte :=
  let front := toBytes 16 (flitHeader f) ++ (f.payload ++ List.replicate 224 0).take 224
  front ++ toBytes 8 (crc64 0 front) ++ List.replicate 8 0

/-- The flit that 256 bytes hold, `none` where the CRC is wrong (R307). -/
def openFlit (bs : List Byte) : Option Flit :=
  let h := ofBytes (bs.take 16)
  if bs.length = 256 && ofBytes ((bs.drop 240).take 8) = crc64 0 (bs.take 240) then
    some { seq := field h 108 20, ack := field h 88 20, kind := field h 86 2, nreason := field h 84 2, cls := field h 80 4
           plen := field h 72 8, dpkg := field h 62 10, spkg := field h 52 10, first := bit h 51, last := bit h 50
           mtag := field h 32 18, payload := (bs.drop 16).take (min 224 (field h 72 8)) }
  else none

/-- Cut a payload into pieces of 224 bytes, at least one (R306). -/
def cut224 (bs : List Byte) : List (List Byte) :=
  (span 0 (max 1 ((bs.length + 223) / 224))).map fun i => (bs.drop (224 * i)).take 224

/-- The flits of a message, before SEQ and ACK are given (R307). -/
def flitsOf (cls dpkg spkg tag : Nat) (bs : List Byte) : List Flit :=
  let l := cut224 bs
  ((span 0 l.length).zip l).map fun p =>
    { seq := 0, ack := 0, kind := 0, nreason := 0, cls := cls, plen := p.2.length, dpkg := dpkg, spkg := spkg
      first := p.1 = 0, last := p.1 + 1 = l.length, mtag := tag, payload := p.2 }

/-! ### Classes of a port -/

/-- A class of a port. -/
def Port.cls (p : Port) (c : Nat) : PortClass := (p.classes[c]?).getD PortClass.reset

/-- Change a class of a port. -/
def Port.updCls (p : Port) (c : Nat) (f : PortClass → PortClass) : Port := { p with classes := adjustAt p.classes c f }

/-- The replay buffer has room for a flit of a class: at most 4,096 of a class, 512 kept for each, 8,192 in all (R308). -/
def Port.room (p : Port) (c : Nat) : Bool :=
  let n := (p.cls c).replay.length
  let others := ((span 0 6).map fun d => if d = c then 0 else max 512 (p.cls d).replay.length).sum
  n < 4096 && (n < 512 || n + others < 8192)

/-- The port sends payload flits: it has a width, is not failed and does not retrain (R311). -/
def Port.sends (p : Port) : Bool := p.width ≠ 0 && !p.failed && !p.retraining

/-- Flits of some class are not acknowledged. -/
def Port.outstanding (p : Port) : Bool := p.classes.any fun k => k.replay ≠ []

namespace State

/-- A port. -/
def port (s : State) (n : Nat) : Port := (s.ports[n]?).getD Port.reset

/-- Change a port. -/
def updPort (s : State) (n : Nat) (f : Port → Port) : State := { s with ports := adjustAt s.ports n f }

/-- A flit leaves a port; it carries the ACK of its class (R308). -/
def emit (s : State) (n : Nat) (f : Flit) : State :=
  let a := ((s.port n).cls f.cls).accepted
  { s.updPort n fun p => p.updCls f.cls fun c => { c with ackDue := none } with
      outbox := s.outbox ++ [.flit n (flitImage { f with ack := a })] }

/-- Device time in nanoseconds. -/
def ns (s : State) : Nat := s.timebase.toNat

/-- The first waiting flit of a class takes the next SEQ and a place in the replay buffer, and is sent (R308). -/
def pumpOne (s : State) (n c : Nat) : State :=
  let p := s.port n
  let k := p.cls c
  match k.waiting with
  | [] => s
  | f :: rest =>
    if p.room c then
      let f := { f with seq := k.next }
      let s := s.updPort n fun p =>
        { p.updCls c (fun k =>
            { k with next := (k.next + 1) % 2 ^ 20, replay := k.replay ++ [f], waiting := rest
                     since := if k.replay = [] then s.ns else k.since }) with
            moved := if p.outstanding then p.moved else s.ns }
      if p.sends && k.busy.isNone then s.emit n f else s
    else s

/-- Waiting flits of a class enter the replay buffer while there is room. -/
def pump (s : State) (n c : Nat) : State := ((s.port n).cls c).waiting.foldl (fun s _ => s.pumpOne n c) s

/-- The same for every class of a port. -/
def pumpAll (s : State) (n : Nat) : State := (span 0 6).foldl (fun s c => s.pump n c) s

/-- The flits of a message enter a port's class, with a fresh tag (R307, R308). -/
def transmit (s : State) (c dest : Nat) (m : Msg) : State :=
  let tag := s.serial % 2 ^ 18
  let n := Config.portOf dest % 16
  let fs := flitsOf c (dest % 1024) s.pkg tag (m.payload tag)
  let s : State := { s with serial := s.serial + 1 }
  (s.updPort n fun p => p.updCls c fun k => { k with waiting := k.waiting ++ fs }).pump n c

/-- The flits of the message of a class that a package sent first, of those received, once the last of them has come (R309). -/
def messageOf (l : List Flit) (cls pkg : Nat) : Option (List Flit) :=
  let mine := l.filter fun f => f.cls = cls && f.spkg = pkg
  match mine with
  | [] => none
  | f :: _ =>
    let m := mine.takeWhile fun g => g.mtag = f.mtag
    if f.first && (m.getLast?.map Flit.last).getD false then some m else none

/-- Take in the first whole message of a class that a package has sent: each is delivered once, in the order sent (R309). `none`
while there is none. -/
def takeMessage (s : State) (cls pkg : Nat) : Option State :=
  (messageOf s.received cls pkg).map fun m =>
    { s with received := s.received.filter fun f => !(m.contains f)
             answered := if cls = 1 then s.answered.ins pkg s.ns else s.answered }

/-- The same of whichever package has sent one. -/
def takeAny (s : State) (cls : Nat) : Option State :=
  (((s.received.filter fun f => f.cls = cls).map Flit.spkg).eraseDups).findSome? (s.takeMessage cls)

/-- Hand a message to another party; one that the fabric carries goes out through a port. -/
def send (s : State) (m : Msg) : State :=
  let s' : State := { s with outbox := s.outbox ++ [m] }
  match m.cls with
  | some c => (s.destsOf m).foldl (fun s d => s.transmit c d m) s'
  | none => s'

end State

end Sys2Proof.Machine
end

