-- ==== Sys2Proof/Machine/Access.lean ====
section
/-! DEFINITION. Reading and changing single parts of the state: threads, groups, units, cores, blocks, contexts,
launches, records, and the exception counters (R100 to R102). -/

namespace Sys2Proof.Machine

/-- A thread's number: its group number × 32 + its lane index; a group's number: its unit × 16 + its slot; a unit's
number: its core × 4 + its index (R1, R2, R41). -/
def threadNo (group lane : Nat) : Nat := group * 32 + lane

/-- The lane index of a thread (R38). -/
def laneOf (k : Nat) : Nat := k % 32
/-- The group of a thread. -/
def groupOf (k : Nat) : Nat := k / 32
/-- The SIMD unit of a thread. -/
def unitOf (k : Nat) : Nat := k / 512
/-- The core of a thread. -/
def coreOf (k : Nat) : Nat := k / 2048
/-- The compute die of a core (R1). -/
def dieOf (core : Nat) : Nat := core / 48

namespace State

/-- The thread of a number. -/
def thread? (s : State) (k : Nat) : Option Thread := s.threads.look k

/-- Put a thread. -/
def setThread (s : State) (k : Nat) (t : Thread) : State := { s with threads := s.threads.ins k t }

/-- Change a thread that exists. -/
def updThread (s : State) (k : Nat) (f : Thread → Thread) : State := { s with threads := s.threads.adjust k f }

/-- The SIMD unit of a number. -/
def unit (s : State) (u : Nat) : SimdUnit := s.units.lookD u SimdUnit.reset

/-- Put a SIMD unit. -/
def setUnit (s : State) (u : Nat) (v : SimdUnit) : State := { s with units := s.units.ins u v }

/-- The core of a number. -/
def core (s : State) (c : Nat) : Core := s.cores.lookD c Core.reset

/-- Put a core. -/
def setCore (s : State) (c : Nat) (v : Core) : State := { s with cores := s.cores.ins c v }

/-- Change a core. -/
def updCore (s : State) (c : Nat) (f : Core → Core) : State := s.setCore c (f (s.core c))

/-- Change a block that exists. -/
def updBlock (s : State) (b : Nat) (f : Block → Block) : State := { s with blocks := s.blocks.adjust b f }

/-- Change a context that is live. -/
def updCtx (s : State) (a : Nat) (f : Context → Context) : State := { s with contexts := s.contexts.adjust a f }

/-- Change a launch that exists. -/
def updLaunch (s : State) (l : Nat) (f : Launch → Launch) : State := { s with launches := s.launches.adjust l f }

/-- Change a group that exists. -/
def updGroup (s : State) (g : Nat) (f : Group → Group) : State := { s with groups := s.groups.adjust g f }

/-- Change a record that exists. -/
def updRecord (s : State) (r : Nat) (f : Record → Record) : State := { s with records := s.records.adjust r f }

/-- The block of a thread. -/
def blockOf (s : State) (k : Nat) : Option Block := (s.thread? k).bind fun t => s.blocks.look t.bid

/-- The launch of a thread's block. -/
def launchOf (s : State) (k : Nat) : Nat := ((s.blockOf k).map Block.launch).getD 0

/-- The address space of a thread. -/
def asidOf (s : State) (k : Nat) : Nat := ((s.blockOf k).map Block.asid).getD 0

/-- The kernel header of a thread's group. -/
def headerOf (s : State) (k : Nat) : Option Header := (s.groups.look (groupOf k)).map Group.hdr

/-- The declared register count that applies to a thread (R52, R69). -/
def regCount (s : State) (k : Nat) : Nat := ((s.headerOf k).map Header.regs).getD 0

/-- A fresh serial number. -/
def fresh (s : State) : Nat × State := (s.serial, { s with serial := s.serial + 1 })

/-- Device time in µs (R149). -/
def now (s : State) : Nat := s.timebase.toNat / 1000

/-- LOC of the defect-map entries of a kind for a unit, fused and of service (R383). -/
def defects (s : State) (kind unit : Nat) : List Nat :=
  ((s.fusedMap ++ s.serviceMap).map BitVec.toNat).filterMap fun e =>
    if field e 60 4 = kind && field e 52 8 = unit then some (field e 0 52) else none

/-- The context of an address space, while it is live (R335). -/
def ctx? (s : State) (a : Nat) : Option Context := s.contexts.look a

end State

/-- Enter an entry into a log of 64, where a new entry replaces the oldest of a full one (R372, R378). -/
def pushLog (l : List (BitVec 64)) (e : Nat) : List (BitVec 64) :=
  (if 64 ≤ l.length then l.drop 1 else l) ++ [BitVec.ofNat 64 e]

/-- Enter an array error or a pairing mismatch into ARRLOG (R369, R372). -/
def State.logArray (s : State) (src cls rest : Nat) : State :=
  { s with arrlog := pushLog s.arrlog (2 ^ 63 + src * 2 ^ 60 + cls * 2 ^ 58 + rest % 2 ^ 58) }

/-! ### Exception events (R100 to R102) -/

/-- Events recorded by one instruction in one thread (R100). -/
structure Events where
  sat : Nat
  flush : Nat
  nan : Nat
  deriving DecidableEq, Repr

/-- No event. -/
def Events.none : Events := ⟨0, 0, 0⟩
/-- One `sat` event. -/
def Events.oneSat : Events := ⟨1, 0, 0⟩
/-- One `flush` event. -/
def Events.oneFlush : Events := ⟨0, 1, 0⟩
/-- One `nan` event. -/
def Events.oneNan : Events := ⟨0, 0, 1⟩
/-- Both records together. -/
def Events.plus (a b : Events) : Events := ⟨a.sat + b.sat, a.flush + b.flush, a.nan + b.nan⟩
/-- Some of several events when a condition holds. -/
def Events.ifSat (p : Bool) : Events := if p then .oneSat else .none

/-- A counter that reaches 0xFFFF_FFFF stays there (R101). -/
def addCounter (m : Map Nat) (key n : Nat) : Map Nat := m.put 0 key (min 0xFFFFFFFF (m.lookD key 0 + n))

/-- Add recorded events to slot `tid` of a counter set. -/
def CounterSet.add (c : CounterSet) (tid : Nat) (e : Events) : CounterSet :=
  { c with counts := addCounter (addCounter (addCounter c.counts (3 * tid) e.sat) (3 * tid + 1) e.flush) (3 * tid + 2) e.nan }

/-- `count` of R102: add events to slot `tid` of the set that the launch holds on the core; a launch without a set
discards them (R101), and so does an access of no launch, as of the host or a peer. -/
def State.countFor (s : State) (core launch tid : Nat) (e : Events) : State :=
  if e = Events.none || launch = 0 then s
  else s.updCore core fun c =>
    { c with counters := c.counters.map fun k => if k.launch = launch then k.add tid e else k }

/-- `count(id, …)` for the issuing thread (R37, R102). -/
def State.count (s : State) (k tid : Nat) (e : Events) : State := s.countFor (coreOf k) (s.launchOf k) tid e

end Sys2Proof.Machine
end

