-- ==== Sys2Proof/Machine/Operands.lean ====
section
/-! DEFINITION. Every operand form: registers, pairs, quads, latches, immediates and literals as sources (R16, R19, R22,
R23, R27, R69, R75), destinations with the younger write winning (R21, R72, R73), and the latch window (R74). -/

namespace Sys2Proof.Machine

/-- Register n as a 32-bit source; v0 reads zero (R69). -/
def Thread.reg (t : Thread) (n : Nat) : Word := if n = 0 then 0 else Map.lookD t.regs n 0

/-- `words` registers from n upward as one value, the first in the low bits (R7, R73). -/
def Thread.regs32 (t : Thread) : Nat → Nat → Nat
  | _, 0 => 0
  | n, words + 1 => (t.reg n).toNat + 2 ^ 32 * t.regs32 (n + 1) words

/-- Registers that a w-bit operand spans (R23). -/
def regWords (w : Nat) : Nat := (w + 31) / 32

/-- A register, pair or quad as a source; code 0 reads zero at every width (R23). -/
def Thread.readReg (t : Thread) (n w : Nat) : Nat := if n = 0 then 0 else t.regs32 n (regWords w)

/-- The result at latch ^n read at width w (R75): a narrower result is zero-extended, a wider one gives its low bits, one of 128
bits among them, which R75 does not name (log 55). -/
def Thread.latchVal (t : Thread) (n w : Nat) : Nat := ((t.window[n - 1]?).map fun l => l.value % 2 ^ w).getD 0

/-- A source operand at width w (R16, R19, R23). -/
def Thread.rd (t : Thread) (o : Opnd) (w : Nat) : Nat :=
  match o with
  | .reg n => t.readReg n w
  | .latch n => t.latchVal n w

/-- Operand B at width w for an integer or pattern type: an immediate is sign-extended to the width of B, a literal
gives its low bits (R22, R27). -/
def Thread.rdB (t : Thread) (b : BOpnd) (w : Nat) : Nat :=
  match b with
  | .src o => t.rd o w
  | .imm22 v => sx v.toNat 22 w
  | .lit v => v.toNat % 2 ^ w

/-- Put `words` 32-bit parts of a value into registers from n upward. -/
def putRegs (m : Map Word) : Nat → Nat → Nat → Map Word
  | _, 0, _ => m
  | n, words + 1, v => putRegs (Map.put 0 m n (BitVec.ofNat 32 v)) (n + 1) words (v / 2 ^ 32)

/-- Registers that a younger instruction writes leave the incoming writes that were to write them (R72). -/
def Incoming.without (i : Incoming) (l : List Nat) : Incoming :=
  { i with live := i.live.filter fun r => !(l.contains r) }

/-- A younger instruction writes registers: the incoming writes of older ones leave them alone, and so will the replay of the
access whose trap the thread handles (R72). -/
def Thread.younger (t : Thread) (l : List Nat) : Thread :=
  { t with incoming := t.incoming.map fun i => i.without l
           keptLog := t.keptLog.map fun g => { g with live := g.live.filter fun r => !(l.contains r) } }

/-- Write a w-bit value to register, pair or quad n as a younger write; code 0 discards it (R23, R69, R72, R73). -/
def Thread.write (t : Thread) (n w v : Nat) : Thread :=
  if n = 0 then t
  else ({ t with regs := putRegs t.regs n (regWords w) v } : Thread).younger (span n (regWords w))

/-- Enter a result into the latch window (R74): it becomes ^1 and ^8 is discarded. -/
def Thread.push (t : Thread) (v w : Nat) (readable : Bool) : Thread :=
  { t with window := (⟨v, w, readable⟩ :: t.window).take 8 }

/-- Registers that are pending in a thread (R71). -/
def Thread.pending (t : Thread) : List Nat := t.incoming.flatMap Incoming.live

/-- Registers that are pending and whose data has not returned: their writes are not due within the simmer window (R71). -/
def Thread.awaited (t : Thread) : List Nat := (t.incoming.filter fun i => i.data.isNone).flatMap Incoming.live

/-- Return the data of an incoming write to the registers it still writes (R72, R129). -/
def landRegs (m : Map Word) (live : List Nat) : Nat → Nat → Nat → Map Word
  | _, 0, _ => m
  | n, words + 1, v =>
    landRegs (if live.contains n then Map.put 0 m n (BitVec.ofNat 32 v) else m) live (n + 1) words (v / 2 ^ 32)

/-! ### What an instruction's row says of its result -/

/-- The opcode of an instruction, 0 for a step of the device. -/
def opOf (i : Instr) : Nat := (i.parts.map Prod.fst).getD 0

/-- The width of destination D, 0 when the entry defines none. -/
def destWidth (i : Instr) : Nat := (i.attr.map Attr.d).getD 0

/-- The width of the value an instruction enters into the latch window (R74): that of D's type, which is 16 or 8 bits for
the narrow formats of rows 0x5 and 0x6 (R93). -/
def entryWidth (i : Instr) : Nat :=
  let op := opOf i
  if (0x50 ≤ op && op ≤ 0x55) || op = 0x58 || op = 0x59 || (0x60 ≤ op && op ≤ 0x68) then
    (i.head.map fun h => h.ty.width).getD 0
  else destWidth i

/-- The instruction enters the latch window (R74): its entry has a D; jmp and call only when D is not 0. -/
def entersWindow (i : Instr) : Bool :=
  match i with
  | .jmp h => h.d ≠ 0
  | .call h _ => h.d ≠ 0
  | _ => destWidth i ≠ 0

/-- The result can be read through a latch (R75): rows 0x1 to 0x6 but park and spawn, and call or jmp. -/
def latchReadable (i : Instr) : Bool :=
  let op := opOf i
  op = 0x04 || op = 0x05 || (0x10 ≤ op && op < 0x70 && op ≠ 0x15 && op ≠ 0x16)

/-- The instruction is of rows 0x7 to 0xB, whose register results are incoming writes (R129). -/
def isRow7B (i : Instr) : Bool := 0x70 ≤ opOf i

/-- Incoming writes that an instruction of rows 0x7 to 0xB makes: one for D and one for E where they are not v0 (R129). -/
def newIncoming (i : Instr) : Nat :=
  match isRow7B i, i.head, i.attr with
  | true, some h, some t => (if h.d = 0 || t.d = 0 then 0 else 1) + (if h.e = 0 || t.e = 0 then 0 else 1)
  | _, _, _ => 0

/-- A thread has no room for the incoming writes of an instruction: it holds at most four (R129). -/
def Thread.writesFull (t : Thread) (i : Instr) : Bool := newIncoming i ≠ 0 && 4 < t.incoming.length + newIncoming i

/-- The instruction is held while an access of its thread awaits translation (R210): rows 0x7 to 0xB, exit, trap,
park, spawn and cntflush. -/
def heldByWalk (i : Instr) : Bool :=
  let op := opOf i
  0x70 ≤ op || op = 0x08 || op = 0x0A || op = 0x15 || op = 0x16 || op = 0x6C

/-- A privileged opcode (R29, R31). -/
def isPrivileged (i : Instr) : Bool := (i.attr.map Attr.priv).getD false

/-- The latch positions named in the sources and in P (R77, R79). -/
def latchesNamed (i : Instr) : List Nat :=
  (match (i.head.bind Head.pred).map Pred.src with
   | some (.latch n) => [n]
   | _ => []) ++ i.latches

/-- Detail of the illegal-latch trap for latch ^n, if it takes one (R77). -/
def Thread.latchBad (t : Thread) (n : Nat) : Option Nat :=
  match t.window[n - 1]? with
  | none => some 0x01
  | some l => if l.readable then none else some 0x02

/-- The first latch of a list that takes the trap with a detail. -/
def Thread.latchWith (t : Thread) (d : Nat) (l : List Nat) : Option (Nat × Nat) :=
  (l.find? fun n => t.latchBad n = some d).map fun n => (d, n)

/-- The first latch of a list that takes the trap: its detail and its number. Detail 0x01 is checked first (R77). -/
def Thread.firstLatchBad (t : Thread) (l : List Nat) : Option (Nat × Nat) :=
  (t.latchWith 0x01 l).or (t.latchWith 0x02 l)

/-- The predicate enables the instruction in a thread (R25). -/
def Thread.enabled (t : Thread) (h : Head) : Bool :=
  match h.pred with
  | none => true
  | some p => bit (t.rd p.src 32) 0 != p.neg

/-! ### Moving past an instruction -/

/-- The address after an instruction of `len` bytes (R37). -/
def nextPc (t : Thread) (len : Nat) : BitVec 64 := t.pc + BitVec.ofNat 64 len

/-- Continue at the next instruction. At the last word of a REPEAT body the pass ends: the next pass starts, or the
thread leaves the body with its REPEAT state cleared (R64). -/
def Thread.next (t : Thread) (len : Nat) : Thread :=
  match t.rep with
  | none => { t with pc := nextPc t len }
  | some r =>
    let first := r.addr + r.len
    if (nextPc t len).toNat = first + 4 * r.body.length then
      if r.pass + 1 < r.count then { t with pc := BitVec.ofNat 64 first, rep := some { r with pass := r.pass + 1 } }
      else { t with pc := nextPc t len, rep := none }
    else { t with pc := nextPc t len }

/-- Length in bytes of an instruction (R12). -/
def lenOf (i : Instr) : Nat := 4 * i.words

/-- What a thread does with an instruction that is disabled in it (R25): only its pc moves, and the window takes the
value D held, or zero under NW. -/
def Thread.disabled (t : Thread) (i : Instr) : Thread :=
  match i.head with
  | none => t
  | some h =>
    let t := if entersWindow i then
        t.push (if h.nw then 0 else t.readReg h.d (destWidth i) % 2 ^ entryWidth i) (destWidth i) (latchReadable i)
      else t
    t.next (lenOf i)

/-- Results of an instruction that writes within the simmer window: D, E when it has one, and the events counted. -/
structure Res where
  d : Nat
  e : Option Nat := none
  ev : Events := .none
  deriving DecidableEq, Repr

/-- Write the results of an instruction of rows 0x0 to 0x6: D unless NW, then E, which is younger (R21); the window
takes D (R74). -/
def Thread.writeResults (t : Thread) (i : Instr) (h : Head) (r : Res) : Thread :=
  let w := destWidth i
  let t := if h.nw then t else t.write h.d w r.d
  let t := match r.e with
    | some v => t.write h.e 32 v
    | none => t
  if entersWindow i then t.push r.d w (latchReadable i) else t

/-- The same, then on to the next instruction. -/
def Thread.finish (t : Thread) (i : Instr) (h : Head) (r : Res) : Thread := (t.writeResults i h r).next (lenOf i)

end Sys2Proof.Machine
end

