-- ==== Sys2Proof/Machine/Flags.lean ====
section
/-! DEFINITION. Floating-point formats (R92, R93), exact values, rounding (R97, R98), operands under FTZ (R99), and the
exception events each of them records (R100). -/

namespace Sys2Proof.Machine

/-- A floating-point format (R92): width, precision p, bias, and the largest finite value maxM × 2^maxE. -/
structure Fmt where
  width : Nat
  p : Nat
  bias : Int
  maxM : Nat
  maxE : Int
  canon : Nat
  /-- e4m3: no infinities, one NaN magnitude -/
  small : Bool
  /-- FP8 formats, written only by cvt and pack -/
  fp8 : Bool
  deriving DecidableEq, Repr

/-- The formats (R92, R93). A type that is not a floating-point type reads as f32. -/
def fmtOf : Ty → Fmt
  | .f64 => ⟨64, 53, 1023, 2 ^ 53 - 1, 971, 0x7FF8000000000000, false, false⟩
  | .f16 => ⟨16, 11, 15, 2 ^ 11 - 1, 5, 0x7E00, false, false⟩
  | .bf16 => ⟨16, 8, 127, 2 ^ 8 - 1, 120, 0x7FC0, false, false⟩
  | .e4m3 => ⟨8, 4, 7, 14, 5, 0x7F, true, true⟩
  | .e5m2 => ⟨8, 3, 15, 7, 13, 0x7E, false, true⟩
  | _ => ⟨32, 24, 127, 2 ^ 24 - 1, 104, 0x7FC00000, false, false⟩

/-- The exponent of the smallest normal (R97). -/
def Fmt.emin (f : Fmt) : Int := 1 - f.bias

/-- An exact value: (−1)^neg × m × 2^e, an infinity or a NaN. A zero has m = 0 and a sign. -/
inductive Num
  | nan
  | inf (neg : Bool)
  | fin (neg : Bool) (m : Nat) (e : Int)
  deriving DecidableEq, Repr

/-- The value of a pattern of a format (R92). -/
def Fmt.value (f : Fmt) (v : Nat) : Num :=
  let v := v % 2 ^ f.width
  let neg := bit v (f.width - 1)
  let frac := field v 0 (f.p - 1)
  let ex := field v (f.p - 1) (f.width - f.p)
  let top := 2 ^ (f.width - f.p) - 1
  if f.small then
    if ex = top ∧ frac = 7 then .nan
    else if ex = 0 then .fin neg frac (f.emin - (f.p - 1)) else .fin neg (frac + 2 ^ (f.p - 1)) (ex - f.bias - (f.p - 1))
  else if ex = top then (if frac = 0 then .inf neg else .nan)
  else if ex = 0 then .fin neg frac (f.emin - (f.p - 1))
  else .fin neg (frac + 2 ^ (f.p - 1)) (ex - f.bias - (f.p - 1))

/-- A pattern is subnormal. -/
def Fmt.subnormal (f : Fmt) (v : Nat) : Bool :=
  field v 0 (f.p - 1) ≠ 0 && field v (f.p - 1) (f.width - f.p) = 0

/-- The sign bit of a format. -/
def Fmt.signBit (f : Fmt) (neg : Bool) : Nat := b2n neg * 2 ^ (f.width - 1)

/-- An operand with its FTZ flush (R99). -/
def Fmt.operand (f : Fmt) (ftz : Bool) (v : Nat) : Nat × Events :=
  let v := v % 2 ^ f.width
  if ftz && f.subnormal v then (f.signBit (bit v (f.width - 1)), .oneFlush) else (v, .none)

/-- The pattern of (−1)^neg × k × 2^qe where k is at most 2^p and qe the spacing's exponent (R92). -/
def Fmt.pack (f : Fmt) (neg : Bool) (k : Nat) (qe : Int) : Nat :=
  let base := (qe - (f.emin - (f.p - 1))).toNat
  f.signBit neg + base * 2 ^ (f.p - 1) + k

/-- The pattern of an infinity. -/
def Fmt.infinity (f : Fmt) (neg : Bool) : Nat := f.signBit neg + (2 ^ (f.width - f.p) - 1) * 2 ^ (f.p - 1)

/-- The pattern of the largest finite value. -/
def Fmt.largest (f : Fmt) (neg : Bool) : Nat := f.pack neg f.maxM f.maxE

/-- Modifiers of a rounding: mode, SAT, FTZ, OVN (R97, R98). -/
structure Round where
  m : Rnd := .rne
  sat : Bool := false
  ftz : Bool := false
  ovn : Bool := false
  deriving DecidableEq, Repr

/-- Whether a magnitude with floor k and a remainder against half a unit is rounded up under a mode (R97). -/
def roundsUp (m : Rnd) (neg : Bool) (k : Nat) (rem : Ordering) (inexact : Bool) : Bool :=
  match m with
  | .rne => rem = .gt || (rem = .eq && k % 2 = 1)
  | .rtz => false
  | .rdn => neg && inexact
  | .rup => !neg && inexact

/-- Divide n by 2^shift and round to an integer; `sticky` says the exact value lies strictly above n. -/
def roundShift (m : Rnd) (neg : Bool) (n : Nat) (shift : Int) (sticky : Bool) : Nat :=
  if shift ≤ 0 then
    let k := n * 2 ^ (-shift).toNat
    if roundsUp m neg k .lt sticky then k + 1 else k
  else if (log2 n : Int) + 2 < shift then (if roundsUp m neg 0 .lt (n ≠ 0 || sticky) then 1 else 0)
  else
    let sh := shift.toNat
    let k := n / 2 ^ sh
    let r := 2 * (n % 2 ^ sh)
    let c := if r < 2 ^ sh then Ordering.lt else if 2 ^ sh < r || sticky then .gt else .eq
    if roundsUp m neg k c (r ≠ 0 || sticky) then k + 1 else k

/-- Overflow by destination and mode (R98). -/
def Fmt.overflow (f : Fmt) (r : Round) (neg : Bool) : Nat × Events :=
  if f.fp8 then (if r.ovn then (f.canon, ⟨1, 0, 1⟩) else (f.largest neg, .oneSat))
  else if r.sat then (f.largest neg, .oneSat)
  else
    let big := match r.m with
      | .rne => true
      | .rtz => false
      | .rdn => neg
      | .rup => !neg
    (if big then f.infinity neg else f.largest neg, .oneSat)

/-- `round_to` (R97, R98): the pattern of an exact value in a format, and the events recorded. With `sticky` the value
lies strictly between m × 2^e and (m + 1) × 2^e. -/
def Fmt.round (f : Fmt) (r : Round) (x : Num) (sticky : Bool := false) : Nat × Events :=
  match x with
  | .nan => (f.canon, .oneNan)
  | .inf neg =>
    if f.small then (if r.ovn then (f.canon, ⟨1, 0, 1⟩) else (f.largest neg, .oneSat)) else (f.infinity neg, .none)
  | .fin neg 0 _ => (f.signBit neg, .none)
  | .fin neg n e =>
    let qe := max ((log2 n : Int) + e) f.emin - (f.p - 1)
    let k := roundShift r.m neg n (qe - e) sticky
    let (k, qe) := if k = 2 ^ f.p then (2 ^ (f.p - 1), qe + 1) else (k, qe)
    if f.maxE < qe ∨ (qe = f.maxE ∧ f.maxM < k) then f.overflow r neg
    else if k = 0 then (f.signBit neg, .oneFlush)
    else if r.ftz ∧ k < 2 ^ (f.p - 1) then (f.signBit neg, .oneFlush)
    else (f.pack neg k qe, .none)

/-! ### Exact arithmetic on values (R99, R107) -/

/-- The integer of a finite value at exponent e, which is at most its own. -/
def signedAt (neg : Bool) (m : Nat) (e0 e : Int) : Int := (if neg then -1 else 1) * (m * 2 ^ (e0 - e).toNat : Nat)

/-- Exact sum; an exact zero of opposite signs is +0, or −0 under rdn (R99). -/
def Num.add (mode : Rnd) (a b : Num) : Num :=
  match a, b with
  | .nan, _ | _, .nan => .nan
  | .inf x, .inf y => if x = y then .inf x else .nan
  | .inf x, _ => .inf x
  | _, .inf y => .inf y
  | .fin x 0 _, .fin y 0 _ => .fin (if x = y then x else mode = .rdn) 0 0
  | .fin _ 0 _, .fin y n f => .fin y n f
  | .fin x m e, .fin _ 0 _ => .fin x m e
  | .fin x m e, .fin y n f =>
    let g := min e f
    let v := signedAt x m e g + signedAt y n f g
    if v = 0 then .fin (mode = .rdn) 0 0 else .fin (v < 0) v.natAbs g

/-- The value with its sign inverted. -/
def Num.neg : Num → Num
  | .nan => .nan
  | .inf x => .inf (!x)
  | .fin x m e => .fin (!x) m e

/-- Exact product (R99). -/
def Num.mul (a b : Num) : Num :=
  match a, b with
  | .nan, _ | _, .nan => .nan
  | .inf x, .inf y => .inf (x != y)
  | .inf x, .fin y n _ => if n = 0 then .nan else .inf (x != y)
  | .fin x m _, .inf y => if m = 0 then .nan else .inf (x != y)
  | .fin x m e, .fin y n f => .fin (x != y) (m * n) (e + f)

/-- A value times 2^n (R113). -/
def Num.scale (a : Num) (n : Int) : Num :=
  match a with
  | .fin x m e => .fin x m (e + n)
  | a => a

/-- Order of two values that are not NaN, −0 equal to +0 (R110). -/
def Num.cmp (a b : Num) : Ordering :=
  match Num.add .rne a b.neg with
  | .fin neg m _ => if m = 0 then .eq else if neg then .lt else .gt
  | .inf neg => if neg then .lt else .gt
  | .nan => .eq

/-- An exact integer as a value. -/
def Num.ofInt (x : Int) : Num := .fin (x < 0) x.natAbs 0

/-- A finite value rounded to an integer under a mode (R112, R118). -/
def roundInt (mode : Rnd) (neg : Bool) (m : Nat) (e : Int) : Int :=
  (if neg then -1 else 1) * (roundShift mode neg m (-e) false : Nat)

/-! ### Operations on patterns -/

/-- fadd on patterns (R107). -/
def Fmt.addP (f : Fmt) (r : Round) (a b : Nat) : Nat × Events :=
  let (a, x) := f.operand r.ftz a
  let (b, y) := f.operand r.ftz b
  let (v, z) := f.round r (Num.add r.m (f.value a) (f.value b))
  (v, (x.plus y).plus z)

/-- fsub on patterns: fadd with the sign of b inverted (R107). -/
def Fmt.subP (f : Fmt) (r : Round) (a b : Nat) : Nat × Events :=
  let (a, x) := f.operand r.ftz a
  let (b, y) := f.operand r.ftz b
  let (v, z) := f.round r (Num.add r.m (f.value a) (f.value b).neg)
  (v, (x.plus y).plus z)

/-- fmul on patterns (R107). -/
def Fmt.mulP (f : Fmt) (r : Round) (a b : Nat) : Nat × Events :=
  let (a, x) := f.operand r.ftz a
  let (b, y) := f.operand r.ftz b
  let (v, z) := f.round r (Num.mul (f.value a) (f.value b))
  (v, (x.plus y).plus z)

/-- fma on patterns: one rounding (R107). -/
def Fmt.fmaP (f : Fmt) (r : Round) (a b c : Nat) : Nat × Events :=
  let (a, x) := f.operand r.ftz a
  let (b, y) := f.operand r.ftz b
  let (c, w) := f.operand r.ftz c
  let (v, z) := f.round r (Num.add r.m (Num.mul (f.value a) (f.value b)) (f.value c))
  (v, ((x.plus y).plus w).plus z)

/-- −0 counts as less than +0 in a choice of fmin or fmax (R109). -/
def lessP (f : Fmt) (a b : Nat) : Bool :=
  match Num.cmp (f.value a) (f.value b) with
  | .lt => true
  | .gt => false
  | .eq => bit a (f.width - 1) && !(bit b (f.width - 1))

/-- fmin (`hi` false) and fmax on patterns (R109). -/
def Fmt.pickP (f : Fmt) (ftz hi : Bool) (a b : Nat) : Nat × Events :=
  let (a, x) := f.operand ftz a
  let (b, y) := f.operand ftz b
  let ev := x.plus y
  match f.value a, f.value b with
  | .nan, .nan => (f.canon, ev.plus .oneNan)
  | .nan, _ => (b, ev)
  | _, .nan => (a, ev)
  | _, _ => (if lessP f a b != hi then a else b, ev)

/-- A binary32 pattern converted to a format, with no event counted: a floating-point IMM22 immediate (R27). -/
def Fmt.ofImm (f : Fmt) (m : Rnd) (imm : Nat) : Nat := (f.round { m := m } ((fmtOf .f32).value (imm * 2 ^ 10))).1

end Sys2Proof.Machine
end

