-- ==== Sys2Proof/Machine/Values.lean ====
section
/-! DEFINITION. Values of integer types (R81) and of the exponent window (R96). -/

namespace Sys2Proof.Machine

/-- A 32- or 64-bit operand read as a value of an integer or pattern type (R81). -/
def intVal (t : Ty) (v : Nat) : Int := if t.isSigned then toInt v t.width else (v % 2 ^ t.width : Nat)

/-- The pattern written for a result of a type: sign-extended to 32 bits for a short s type (R81). -/
def intOut (t : Ty) (x : Int) : Nat :=
  if t.isSigned && t.width < 32 then sx (wrap x t.width) t.width 32 else wrap x t.width

/-- The least value of an integer type. -/
def intMin (t : Ty) : Int := if t.isSigned then -(2 ^ (t.width - 1)) else 0
/-- The greatest value of an integer type. -/
def intMax (t : Ty) : Int := if t.isSigned then 2 ^ (t.width - 1) - 1 else 2 ^ t.width - 1

/-- `clamp` (R37). -/
def clampInt (x : Int) (t : Ty) : Int := if x < intMin t then intMin t else if intMax t < x then intMax t else x

/-- M of a W64 pattern (R96). -/
def w64M (v : Nat) : Int := toInt (field v 0 64) 64
/-- E of a W64 pattern (R96). -/
def w64E (v : Nat) : Int := toInt (field v 64 16) 16
/-- The W64 pattern of M and E, zero above (R96). -/
def w64Pack (m e : Int) : Nat := wrap m 64 + wrap e 16 * 2 ^ 64
/-- The window NaN (R96). -/
def windowNaN : Int := -(2 ^ 63)

end Sys2Proof.Machine
end

