-- ==== Sys2Proof/Machine/Reduce.lean ====
section
/-! DEFINITION. The combining operations of atom, red, lred and the collectives on patterns (R219 to R221). -/

namespace Sys2Proof.Machine

/-- The W64 sum of a value in memory and a contribution (R221). -/
def w64Add (old b : Nat) : Nat × Events :=
  let em := w64E old
  if w64M old = windowNaN ∨ w64M b = windowNaN then (w64Pack windowNaN em, .oneNan)
  else if w64M b = 0 then (w64Pack (w64M old) em, .none)
  else if w64M old = 0 then (w64Pack (w64M b) (w64E b), .none)
  else if em ≠ w64E b then (w64Pack windowNaN em, .oneNan)
  else
    let s := w64M old + w64M b
    if 2 ^ 63 - 1 < s.natAbs then (w64Pack windowNaN em, .oneNan) else (w64Pack s em, .none)

/-- The new contents of memory, or of a partial, and the events (R219). Float adds keep subnormals and round to
nearest even. -/
def redCombine (op : RedOp) (ty : Ty) (old b : Nat) : Nat × Events :=
  match op with
  | .add =>
    if ty = .w64 then w64Add old b
    else if ty.isFloat then (fmtOf ty).addP {} old b
    else (wrap (intVal ty old + intVal ty b) ty.width, .none)
  | .min => (if intVal ty b < intVal ty old then b else old, .none)
  | .max => (if intVal ty old < intVal ty b then b else old, .none)
  | .and => (Nat.land old b, .none)
  | .or => (Nat.lor old b, .none)
  | .xor => (Nat.xor old b, .none)

/-- The new contents of memory under atom; `none` when nothing is written (R219). -/
def atomCombine (op : AtomOp) (ty : Ty) (old b c : Nat) : Option Nat × Events :=
  match op with
  | .red op => (some (redCombine op ty old b).1, (redCombine op ty old b).2)
  | .exch => (some b, .none)
  | .cas => (if old = c then some b else none, .none)

/-- Bytes that an operation of a type reads and writes in memory. -/
def tyBytes (t : Ty) : Nat := if t = .w64 then 16 else t.width / 8

end Sys2Proof.Machine
end

