-- ==== Sys2Proof/Machine/Memory.lean ====
section
/-! DEFINITION. Device memory, host memory and their bytes; page tables, walks and permissions (R199 to R206); the
ordered write-back queues (R289, R290); and what every read and write of a granule does first: stash lines are recalled
(R161), partial sums merged (R326), writes to a chunk under capture held (R299). -/

namespace Sys2Proof.Machine

/-- The byte at an address of a memory; a byte that nothing has written reads as 0 (log 4). -/
def byteAt (m : List Host.Cell) (a : Nat) : Byte := Map.lookD m a 0

/-- n bytes from an address. -/
def bytesAt (m : List Host.Cell) : Nat → Nat → List Byte
  | _, 0 => []
  | a, n + 1 => byteAt m a :: bytesAt m (a + 1) n

/-- The little-endian value of n bytes from an address (R7). -/
def valueAt (m : List Host.Cell) (a n : Nat) : Nat := ofBytes (bytesAt m a n)

/-- Put one byte, keeping the canonical form. -/
def putByte (m : List Host.Cell) (a : Nat) (b : Byte) : List Host.Cell := Map.put 0 m a b

/-- Put bytes from an address upward. -/
def putBytes (m : List Host.Cell) (a : Nat) : List Byte → List Host.Cell
  | [] => m
  | b :: bs => putBytes (putByte m a b) (a + 1) bs

/-- The canonical form of a memory: addresses strictly rising, no byte equal to what an unlisted one reads as. -/
abbrev Memory.wf (m : List Host.Cell) : Prop := Map.wf (0 : Byte) m

/-- A physical address in HBM (R200). -/
def isHbm (pa : Nat) : Bool := pa < 0x8000000000
/-- A physical address in the storage-class tier (R200, R287). -/
def isScm (pa : Nat) : Bool := 0x100000000000 ≤ pa && pa < 0x140000000000

/-! ### Page tables -/

/-- SCOPE (R202). -/
def Leaf.scope (l : Leaf) : Nat := field l.entry 61 3
/-- TIER: 0 HBM, 1 SCM, 2 PEER, 3 HOST (R202). -/
def Leaf.tier (l : Leaf) : Nat := field l.entry 59 2
/-- PDOM (R202). -/
def Leaf.pdom (l : Leaf) : Nat := field l.entry 57 2
/-- PUB (R202). -/
def Leaf.pub (l : Leaf) : Bool := bit l.entry 55
/-- PSET (R202). -/
def Leaf.pset (l : Leaf) : Nat := field l.entry 49 6
/-- FRAME as an address (R202). -/
def Leaf.frame (l : Leaf) : Nat := field l.entry 16 32 * 65536
/-- PKG (R202). -/
def Leaf.peer (l : Leaf) : Nat := field l.entry 6 10
/-- WR (R202). -/
def Leaf.wr (l : Leaf) : Bool := bit l.entry 5
/-- EX (R202). -/
def Leaf.ex (l : Leaf) : Bool := bit l.entry 4
/-- The frame address of a virtual address in a given half of a publishable page (R203, R253). -/
def Leaf.pa (l : Leaf) (va half : Nat) : Nat := l.frame + half * l.size + (va - l.base)

/-- log2 of the range an entry of each level covers (R201). -/
def levelShift : Nat → Nat
  | 0 => 39
  | 1 => 30
  | 2 => 21
  | _ => 16

/-- Index bits of each level (R201). -/
def levelBits (level : Nat) : Nat := if level = 0 then 13 else if level = 3 then 5 else 9

/-- How a walk ends (R203): a leaf, or the reason with level, entry and range of the entry that ended it. -/
inductive WalkEnd
  | leaf (l : Leaf)
  | fault (reason level entry base size : Nat)
  deriving DecidableEq, Repr

/-- A leaf entry is malformed (R203, reason 0x04). -/
def Leaf.malformed (l : Leaf) : Bool :=
  let span := if l.pub then 2 * l.size else l.size
  let last := l.frame + span - 1
  l.level = 0 || 5 ≤ l.scope || l.pdom = 3 || bit l.entry 48 || field l.entry 2 2 ≠ 0 ||
  l.frame % span ≠ 0 ||
  (l.tier = 0 && !(isHbm last)) ||
  (l.tier = 1 && !(isScm l.frame && isScm last)) ||
  (l.tier = 2 && !(isHbm last || (isScm l.frame && isScm last))) ||
  (l.pdom ≠ 0 && l.tier ≠ 1) || (l.peer ≠ 0 && l.tier ≠ 2) || (l.pset ≠ 0 && !l.pub) ||
  (l.tier = 2 && l.scope < 3) || (l.tier = 3 && l.scope < 4)

/-- A non-leaf entry is malformed: a RES0 bit, or a table address not aligned to the table's size (R201 to R203). -/
def nonLeafMalformed (level entry : Nat) : Bool :=
  level = 3 || field entry 48 16 ≠ 0 || field entry 2 6 ≠ 0 ||
  (field entry 8 40 * 256) % (if level = 2 then 256 else 4096) ≠ 0

/-- The cached non-leaf entry of a level that covers an address (R205). -/
def cachedEntry (cache : List Transl) (asid level va : Nat) : Option Nat :=
  (cache.find? fun t => t.asid = asid && t.level = level && t.base ≤ va && va < t.base + t.size).map Transl.entry

/-- The 32-byte words that n bytes from an address touch. -/
def granulesOf (pa n : Nat) : List Nat := span (pa / 32) ((pa % 32 + n + 31) / 32)

/-- The walk of an address (R201 to R203) through the tables in memory and the walker's cache of non-leaf entries,
with the non-leaf entries it used. A table word that no code corrects ends it with reason 0x05 (R203, R372). -/
def walkFrom (m : List Host.Cell) (poison : Map Nat) (cache : List Transl) (asid va : Nat) :
    List Nat → Nat → List Transl → WalkEnd × List Transl
  | [], _, used => (.fault 0x04 3 0 va 65536, used)
  | level :: rest, table, used =>
    let size := 2 ^ levelShift level
    let base := va / size * size
    let ofEntry := table + 8 * field va (levelShift level) (levelBits level)
    let cached := cachedEntry cache asid level va
    let entry := cached.getD (valueAt m ofEntry 8)
    if cached.isNone && (poison.look (ofEntry / 32)).isSome then (.fault 0x05 level 0 base size, used)
    else if !(bit entry 0) then (.fault 0x01 level entry base size, used)
    else if bit entry 1 then
      let l : Leaf := ⟨base, size, level, entry⟩
      if l.malformed then (.fault 0x04 level entry base size, used) else (.leaf l, used)
    else if nonLeafMalformed level entry then (.fault 0x04 level entry base size, used)
    else walkFrom m poison cache asid va rest (field entry 8 40 * 256) (used ++ [⟨asid, level, base, size, entry⟩])

namespace State

/-- The walker cache of a compute die, or of the hub die as 4 (R205). -/
def walkCache (s : State) (die : Nat) : List Transl := s.walkCaches.lookD die []

/-- The walk of an address in a context by the walker of a die (R203). An address beyond 52 bits, which no check has turned
away, has no translation (R199). -/
def walkEnd (s : State) (die asid va : Nat) : WalkEnd :=
  match s.ctx? asid, decide (va < 2 ^ 52) with
  | none, _ => .fault 0x01 0 0 (va / 2 ^ 39 * 2 ^ 39) (2 ^ 39)
  | _, false => .fault 0x01 0 0 (va / 2 ^ 39 * 2 ^ 39) (2 ^ 39)
  | some c, true => (walkFrom s.memory s.poison (s.walkCache die) asid va [0, 1, 2, 3] c.root []).1

/-- The same walk, keeping in the walker's cache the non-leaf entries it used (R205). -/
def walkFill (s : State) (die asid va : Nat) : State :=
  match s.ctx? asid with
  | none => s
  | some c =>
    let used := (walkFrom s.memory s.poison (s.walkCache die) asid va [0, 1, 2, 3] c.root []).2
    let old := s.walkCache die
    { s with walkCaches := s.walkCaches.ins die (old ++ used.filter fun t => !(old.contains t)) }

/-- The package answers: it is this one, or a member of the domain that has not been named failed (R314). -/
def peerUp (s : State) (pkg : Nat) : Bool :=
  pkg = s.pkg || (s.domain.contains pkg && !(s.failed.contains pkg))

end State

/-- Kinds of access, as the translation-fault record codes them (R212). -/
inductive Access
  | load | store | atomic | fetch | engineRead | engineWrite | stash
  deriving DecidableEq, Repr

/-- KIND of the translation-fault record (R212). -/
def Access.kind : Access → Nat
  | .load => 0 | .store => 1 | .atomic => 2 | .fetch => 3 | .engineRead => 4 | .engineWrite => 4 | .stash => 5

/-- The access writes (R203, reason 0x02). -/
def Access.writes : Access → Bool
  | .store | .atomic | .engineWrite => true
  | _ => false

/-- The reason a mapped page refuses an access (R203, R314; R380: in the reduced stage stores to the storage-class
tier take reason 0x02). -/
def permFault (s : State) (l : Leaf) (a : Access) : Option Nat :=
  if l.tier = 2 && !(s.peerUp l.peer) then some 0x07
  else if a.writes && (!l.wr || (l.tier = 1 && s.regs.bootstage.toNat % 16 = 2)) then some 0x02
  else if a = .fetch && !l.ex then some 0x03
  else if a = .atomic && l.tier = 3 then some 0x06
  else none

/-- The end of a walk for a given access (R203). -/
def State.walkFor (s : State) (die asid va : Nat) (a : Access) : WalkEnd :=
  match s.walkEnd die asid va with
  | .leaf l =>
    match permFault s l a with
    | some r => .fault r l.level l.entry l.base l.size
    | none => .leaf l
  | f => f

/-- The TLB entry of a core that covers an address (R205). -/
def State.tlbLook (s : State) (core asid va : Nat) : Option Leaf :=
  ((s.core core).tlb.find? fun t => t.asid = asid && t.base ≤ va && va < t.base + t.size).map
    fun t => ⟨t.base, t.size, t.level, t.entry⟩

/-- Put a leaf into a core's TLB of 1,024 entries; a full TLB loses its oldest entry (R205, log 8). -/
def State.tlbFill (s : State) (core asid : Nat) (l : Leaf) : State :=
  s.updCore core fun c =>
    let keep := if 1024 ≤ c.tlb.length then c.tlb.drop 1 else c.tlb
    { c with tlb := keep ++ [⟨asid, l.level, l.base, l.size, l.entry⟩] }

/-- Memory of a context through its tables, as an engine of the hub die or the dispatcher reads and writes it: the
physical address of a virtual one (R206, R335). -/
def State.hubLeaf (s : State) (asid va : Nat) : Option Leaf :=
  match s.walkEnd 4 asid va with
  | .leaf l => some l
  | .fault .. => none

/-- The entry of publish set `set` of a context (R253): its physical address. -/
def State.psetAddr (s : State) (asid set : Nat) : Option Nat :=
  match s.ctx? asid with
  | none => none
  | some c => (s.hubLeaf asid (c.psbase + 16 * set)).map fun l => l.pa (c.psbase + 16 * set) 0

/-- CUR of a publish set (R253). -/
def State.curHalf (s : State) (asid set : Nat) : Nat :=
  match s.psetAddr asid set with
  | some a => valueAt s.memory a 8 % 2
  | none => 0

/-- The half a thread sees of a page (R203). -/
def State.leafHalf (s : State) (asid : Nat) (l : Leaf) : Nat := if l.pub then s.curHalf asid l.pset else 0

/-! ### Persistence -/

/-- Entries a queue may hold: QCAP KiB of 32-byte granules (R289, R291, log 20). -/
def State.queueCap (s : State) : Nat := field s.regs.pstat.toNat 32 16 * 32

/-- ARMED (R291). -/
def State.armed (s : State) : Bool := bit s.regs.pstat.toNat 63

/-- The write-back queue of a die. -/
def State.wbq (s : State) (die : Nat) : List WbEntry := (s.wbqs[die]?).getD []

/-- Some byte of a range lies in a word whose data no code corrects (R372). -/
def State.bad (s : State) (pa n : Nat) : Bool := (granulesOf pa n).any fun g => (s.poison.look g).isSome

/-- Perform a write of device memory: the bytes take their place in the granule order (R226), and a word that is
rewritten can be read again (R372). -/
def State.performed (s : State) (pa : Nat) (bs : List Byte) : State :=
  { s with memory := putBytes s.memory pa bs
           poison := if s.poison.isEmpty then [] else (granulesOf pa bs.length).foldl (fun m g => m.del g) s.poison }

/-- The number under which `poison` holds a 64-bit word of the one store of all larders (R370). -/
def larWord (a : Nat) : Nat := 2 ^ 46 + a / 8

/-- The larder words that n bytes from an address of the one store of all larders touch. -/
def larWords (a n : Nat) : List Nat := span (larWord a) ((a % 8 + n + 7) / 8)

/-- Some byte of a range of a larder lies in a word whose data no code corrects (R372). -/
def State.larBad (s : State) (a n : Nat) : Bool := (larWords a n).any fun g => (s.poison.look g).isSome

/-- A read met an uncorrectable error in some words: it is entered in ARRLOG with CLASS 2 (R372). -/
def State.logWords (s : State) (l : List Nat) : State :=
  l.foldl (fun s g =>
    match s.poison.look g with
    | some loc => s.logArray (if 2 ^ 47 ≤ g then 4 else if 2 ^ 46 ≤ g then 1 else if isScm (32 * g) then 6 else 0) 2 loc
    | none => s) s

/-- The same for bytes of device memory. -/
def State.logBad (s : State) (pa n : Nat) : State := s.logWords (granulesOf pa n)

/-- The bytes of a write, granule by granule, each with its address (R207, R289). -/
def cutGranules (pa : Nat) (bs : List Byte) : List (Nat × List Byte) :=
  (granulesOf pa bs.length).map fun g =>
    let lo := max pa (32 * g)
    (lo, (bs.drop (lo - pa)).take (32 * g + 32 - lo))

/-- Perform a persist write and enter it into a die's queue, one entry for each granule (R289). -/
def State.enqueueWb (s : State) (die pa : Nat) (bs : List Byte) : State :=
  let l := (span s.serial (granulesOf pa bs.length).length).zip (cutGranules pa bs)
  { s.performed pa bs with
      serial := s.serial + l.length
      wbqs := setAt s.wbqs die (s.wbq die ++ l.map fun p => WbEntry.mk p.1 p.2.1 p.2.2 s.epoch) }

/-- A persist write of a party enters a queue only after an unfinished pfence of the same thread that it was issued
after, when it lies within the reach of that pfence: of a pfence.die, the PDOM 1 pages of its die (R294, R295). -/
def State.fenced (s : State) (who : Party) (no die pdom : Nat) : Bool :=
  s.pfences.any fun p => p.who = who && p.serial < no && (p.pkg || (pdom = 1 && p.die = die))

/-- The queue that a write of the hub die, the host or a peer enters (R289). -/
def hubDie (pa : Nat) : Nat := field pa 14 2

/-- The die whose queue a write of a core enters, or of a party that is no core (R289). -/
def queueDie (core pa : Nat) : Nat := if core < 192 then dieOf core else hubDie pa

/-! ### Captures (R299) -/

/-- The virtual base and size of tagged region r of a context, as its table entry gives them (R296). -/
def State.regionAt (s : State) (asid r : Nat) : Option (Nat × Nat) :=
  match s.ctx? asid with
  | none => none
  | some c =>
    (s.hubLeaf asid (c.trbase + 64 * r)).map fun l =>
      let e := valueAt s.memory (l.pa (c.trbase + 64 * r) 0) 64
      (field e 320 64, field e 256 64)

/-- The half of a publishable page among the current halves of a context's sets, one bit for each (R253). -/
def halfOf (halves : Nat) (l : Leaf) : Nat := if l.pub then halves / 2 ^ l.pset % 2 else 0

/-- The chunk of a capture's region that holds a physical address, in the halves that were current when the capture started
(R253, R296). -/
def State.chunkOf (s : State) (c : Capture) (pa : Nat) : Option Nat :=
  match s.regionAt c.asid c.region with
  | none => none
  | some (base, size) =>
    ((span 0 (size / 65536)).find? fun i =>
      match s.hubLeaf c.asid (base + 65536 * i) with
      | some l => (l.tier = 0 || l.tier = 1) && l.pa (base + 65536 * i) (halfOf c.halves l) / 65536 = pa / 65536
      | none => false).map fun i => i / 16

/-- A write that waits for a chunk under capture makes the engine capture it (R299). -/
def State.noteWrite (s : State) (pa : Nat) : State :=
  { s with captures := s.captures.map fun c =>
      match s.chunkOf c pa with
      | some k => if (c.captured.any fun p => p.1 = k) || c.onWrite.contains k then c else { c with onWrite := c.onWrite ++ [k] }
      | none => c }

/-- A running capture has not captured the chunk that holds a physical address: a write to it waits (R299). -/
def State.underCapture (s : State) (pa : Nat) : Bool :=
  s.captures.any fun c =>
    match s.chunkOf c pa with
    | some k => !(c.captured.any fun p => p.1 = k)
    | none => false

/-- Accesses to the stack of an HBM address are held: it is in forced self-refresh, or its lane split is about to change (R375,
R377). -/
def State.stackHeld (s : State) (pa : Nat) : Bool :=
  isHbm pa && (!s.selfRefresh.isEmpty || s.regs.hbmcfgNext.isSome) &&
  let stack := Config.stackOf pa % 8
  s.selfRefresh.contains stack || s.regs.hbmcfgNext.any fun v => field v.toNat (2 * stack) 2 ≠ field s.regs.hbmcfg.toNat (2 * stack) 2

/-- Perform a write of device memory now, if nothing delays it: a stack whose accesses are held, a chunk under capture (R299); with a
persist domain, an
unfinished pfence (R295), a queue without room (R290), or while ARMED is 0 entries that the stacks do not hold yet (R291). -/
def State.tryWrite (s : State) (who : Party) (no die pa : Nat) (bs : List Byte) (pdom : Nat) : Option State :=
  if s.stackHeld pa || s.underCapture pa then none
  else if pdom = 0 then some (s.performed pa bs)
  else if s.fenced who no die pdom then none
  else if s.armed then
    if (s.wbq die).length + (granulesOf pa bs.length).length ≤ s.queueCap then some (s.enqueueWb die pa bs) else none
  else if s.wbqs.all List.isEmpty then some { s.performed pa bs with scm := putBytes s.scm pa bs }
  else none

/-! ### Stash lines seen from outside (R160, R161) -/

/-- The larder byte address of a physical line of a core, in the one store of all larders. -/
def larAddr (core line : Nat) : Nat := core * 2 ^ 21 + line * 128

/-- The number of a line in the one store of all larders. -/
def lineNo (core line : Nat) : Nat := core * 16384 + line

/-- State of a line. -/
def State.line (s : State) (n : Nat) : Line := s.lines.lookD n Line.reset

/-- Put the state of a line. -/
def State.setLine (s : State) (n : Nat) (l : Line) : State := { s with lines := s.lines.ins n l }

/-- The physical space a leaf maps to: this package's 0, the host's 1, that of package p as 2 + p. -/
def State.spaceOf (s : State) (l : Leaf) : Nat :=
  if l.tier = 3 then 1 else if l.tier = 2 && l.peer ≠ s.pkg then 2 + l.peer else 0

/-- A present stash line: its number, its block, address space, the virtual address and the leaf it is mapped through, and its
physical address. -/
structure StashLine where
  no : Nat
  bid : Nat
  asid : Nat
  va : Nat
  leaf : Leaf
  pa : Nat
  deriving DecidableEq, Repr

/-- The lines of physical units: index in the allocation with physical line. -/
def unitLines (phys : List Nat) : List (Nat × Nat) :=
  (span 0 (32 * phys.length)).map fun i => (i, ((phys[i / 32]?).getD 0) * 32 + i % 32)

/-- The lines of one allocation: index in the allocation with physical line. -/
def Alloc.linesOf (a : Alloc) : List (Nat × Nat) := unitLines a.phys

/-- Every line of the package that is bound to a global address, of an allocation or of units that an ended one has left
(R160, R162): number, block, address space, virtual address. -/
def State.stashBound (s : State) : List (Nat × Nat × Nat × Nat) :=
  (s.blocks.flatMap fun p => p.2.allocs.flatMap fun a =>
    match a.stash with
    | none => []
    | some g => a.linesOf.map fun q => (lineNo p.2.core q.2, p.1, p.2.asid, g + 128 * q.1)) ++
  (s.freed.flatMap fun f =>
    match f.stash with
    | none => []
    | some g => (unitLines f.phys).map fun q => (lineNo f.core q.2, f.bid, f.asid, g + 128 * q.1))

/-- The stash line at a number, while it is present and its page is mapped. -/
def State.stashLine (s : State) (no bid asid va : Nat) : Option StashLine :=
  if (s.line no).present then
    (s.hubLeaf asid va).map fun l => ⟨no, bid, asid, va, l, l.pa va (s.leafHalf asid l)⟩
  else none

/-- The present stash lines of the package that map the 128-byte line of a physical address in a space. -/
def State.stashAt (s : State) (space pa : Nat) : List StashLine :=
  (s.stashBound.filterMap fun p => s.stashLine p.1 p.2.1 p.2.2.1 p.2.2.2).filter fun l =>
    s.spaceOf l.leaf = space && l.pa / 128 = pa / 128

/-- Send a write to a peer package and await its response (R314). -/
def State.askPeer (s : State) (asid bid n : Nat) (l : Leaf) (use : PeerUse) (pa : Nat) (req : MemReq) : State :=
  let (tag, s) := s.fresh
  ({ s with peers := s.peers ++ [PeerAccess.mk tag l.peer asid bid pa n l use none s.ns] }).send (.memory l.peer tag req)

/-- Write bytes that lie on one page to where its leaf maps them, if nothing delays the write: host memory, a peer's, or the
package's own (R206, R314). -/
def State.tryLeafWrite (s : State) (who : Party) (no die asid bid pa : Nat) (l : Leaf) (bs : List Byte) (use : PeerUse) :
    Option State :=
  match s.spaceOf l with
  | 0 => s.tryWrite who no die pa bs l.pdom
  | 1 => some { s with hostMemory := putBytes s.hostMemory pa bs }
  | _ => some (s.askPeer asid bid bs.length l use pa (.write pa bs l.pdom))

/-- Write back the bytes of a dirty line to where it is mapped and leave it clean, if nothing delays that write (R161,
R162). -/
def State.tryWriteBack (s : State) (l : StashLine) : Option State :=
  if (s.line l.no).dirty then
    (s.tryLeafWrite .hub 0 (dieOf (l.no / 16384)) l.asid l.bid l.pa l.leaf (bytesAt s.larder (l.no * 128) 128)
      (.writeBack l.no)).map fun s => s.setLine l.no { s.line l.no with dirty := false }
  else some s

/-- A line becomes not present, and empty (R158, R160). A fetch of it that is on its way goes on. -/
def State.dropLine (s : State) (n : Nat) : State :=
  s.setLine n { s.line n with present := false, full := false, dirty := false }

/-! ### Commutative-update lines (R325, R326) -/

/-- The partial of a core or a die (192 + die) for a line. -/
def State.partialAt (s : State) (home line : Nat) : Option Partial :=
  s.partials.find? fun p => p.home = home && p.line = line

/-- Combine a partial's value at an address into a map of values. -/
def foldValue (op : RedOp) (ty : Ty) (m : Map Nat) (v : Nat × Nat) : Map Nat × Events :=
  match m.look v.1 with
  | none => (m.ins v.1 v.2, .none)
  | some old => (m.ins v.1 (redCombine op ty old v.2).1, (redCombine op ty old v.2).2)

/-- Merge a core's partial into its die's (R325, R326). -/
def State.partialToDie (s : State) (p : Partial) : State :=
  let home := 192 + dieOf p.home
  let s := { s with partials := s.partials.filter fun q => q ≠ p }
  match s.partialAt home p.line with
  | none => { s with partials := s.partials ++ [{ p with home := home }] }
  | some d =>
    let r := p.values.foldl (fun (acc : Map Nat × Events) v =>
      let x := foldValue p.op p.ty acc.1 v
      (x.1, acc.2.plus x.2)) (d.values, Events.none)
    ({ s with partials := s.partials.map fun q => if q = d then { d with values := r.1 } else q }).countFor
      p.core p.launch p.tid r.2

/-- Merge a die's partial into the line, where no capture holds it (R299, R325, R326): each value is one write of its
granule. Only pages with no persist domain have partials. -/
def State.partialToLine (s : State) (p : Partial) : State :=
  let s := { s with partials := s.partials.filter fun q => q ≠ p }
  p.values.foldl (fun s v =>
    let n := tyBytes p.ty
    let r := redCombine p.op p.ty (valueAt s.memory v.1 n) v.2
    (s.performed v.1 (toBytes n r.1)).countFor p.core p.launch p.tid r.2) s

/-- Merge every partial of a line before an access of it: core partials in ascending core number, then die partials in
ascending die number (R233, R326). `none` while the line waits for a capture (R299) or its stack (R377). -/
def State.tryMerge (s : State) (pa : Nat) : Option State :=
  let line := pa / 128
  if s.partials.any fun p => p.line = line then
    if s.underCapture (128 * line) || s.stackHeld pa then none
    else
      let s := (span 0 192).foldl (fun s c =>
        match s.partialAt c line with
        | some p => s.partialToDie p
        | none => s) s
      some ((span 192 4).foldl (fun s h =>
        match s.partialAt h line with
        | some p => s.partialToLine p
        | none => s) s)
  else some s

/-! ### What an access of a line does first -/

/-- Do a step for each entry of a list, as long as every one can be done now. -/
def tryAll {α : Type} (f : α → State → Option State) : List α → State → Option State
  | [], s => some s
  | x :: l, s => (f x s).bind (tryAll f l)

/-- A write-back of a line to a peer has not been answered: no one reads the line there yet (R161, R314). -/
def State.backOnWay (s : State) (space pa : Nat) : Bool :=
  s.peers.any fun p =>
    match p.use with
    | .writeBack _ => 2 + p.pkg = space && p.pa / 128 = pa / 128
    | _ => false

/-- What a read of a physical line does first: partial sums are merged (R233), and dirty bytes of the stash lines that
map it are recalled; they stay present and become clean (R161). `none` while one of these, or the stack, has to wait. -/
def State.tryRecallRead (s : State) (space pa : Nat) : Option State :=
  if space = 0 && s.stackHeld pa then none
  else
    ((if space = 0 then s.tryMerge pa else some s).bind fun s =>
      tryAll (fun l s => s.tryWriteBack l) (s.stashAt space pa) s).bind fun s =>
        if s.backOnWay space pa then none else some s

/-- What a write of a physical line does first: partial sums are merged, dirty bytes recalled, and the stash lines that
map it, but for one, become not present (R161, R233). -/
def State.tryRecallWrite (s : State) (space pa : Nat) (but : Option Nat) : Option State :=
  ((if space = 0 then s.tryMerge pa else some s).bind fun s =>
    tryAll (fun l s => (s.tryWriteBack l).map fun s => s.dropLine l.no)
      ((s.stashAt space pa).filter fun l => some l.no ≠ but) s).bind fun s =>
        if s.backOnWay space pa then none else some s

/-- The 128-byte lines that n bytes from an address touch, by an address in each. -/
def linesFrom (pa n : Nat) : List Nat := (span (pa / 128) ((pa % 128 + n + 127) / 128)).map (128 * ·)

/-- A write of device memory by any party, if nothing delays it: partial sums merged, stash lines recalled, then the write
itself (R161, R226, R233). -/
def State.tryStore (s : State) (who : Party) (no die asid bid pa : Nat) (l : Leaf) (bs : List Byte) (use : PeerUse) :
    Option State :=
  (tryAll (fun x s => s.tryRecallWrite (s.spaceOf l) x none) (linesFrom pa bs.length) s).bind fun s =>
    s.tryLeafWrite who no die asid bid pa l bs use

/-- The state with nothing that could delay a write, in which a coherent reader sees what a recall would bring (R161). -/
def State.undelayed (s : State) : State :=
  { s with captures := [], pfences := [], wbqs := List.replicate 4 [], peers := [], selfRefresh := []
           regs := { s.regs with pstat := 0, hbmcfgNext := none } }

/-- n bytes of the package's memory as a coherent read returns them: partial sums merged, dirty stash lines recalled (R161,
R233). -/
def State.coherent (s : State) (space pa n : Nat) : List Byte :=
  let s := (tryAll (fun x s => s.tryRecallRead space x) (linesFrom pa n) s.undelayed).getD s
  bytesAt (if space = 1 then s.hostMemory else s.memory) pa n

end Sys2Proof.Machine
end

