-- ==== Sys2Proof/Machine/Report.lean ====
section
/-! DEFINITION. The device's own reads and writes of a context's memory (R206, R335), and the fault queue: reports, the
hub die's holding store, and the records (R361, R362). -/

namespace Sys2Proof.Machine

namespace State

/-- One byte of a physical space under the plain writes of some accesses not yet performed, in their order (R228). -/
def overlayByte (s : State) (l : List Pending) (space pa : Nat) (b : Byte) : Byte :=
  l.foldl (fun b x => x.pieces.foldl (fun b p =>
    if x.acc.op = .store && s.spaceOf p.leaf = space && p.pa ≤ pa && pa < p.pa + p.n then
      BitVec.ofNat 8 (x.acc.b / 2 ^ (8 * (p.ofs + (pa - p.pa))))
    else b) b) b

/-- n bytes from a physical address as a reader sees them that has issued some writes not yet performed (R228). -/
def overlaid (s : State) (l : List Pending) (space pa n : Nat) : List Byte :=
  let bs := s.coherent space pa n
  if l.isEmpty then bs else ((span pa n).zip bs).map fun p => s.overlayByte l space p.1 p.2

/-- The accesses of a party not yet performed. -/
def opsOf (s : State) (who : Party) : List Pending := s.ops.filter fun x => x.who = who

/-- Bytes that the dispatcher or a hub-die unit reads at a virtual address of a context, its own writes among them (R228).
A structure on an unmapped page, or on one of a peer, reads as zeros (log 22). -/
def ctxBytes (s : State) (asid va n : Nat) : List Byte :=
  match s.hubLeaf asid va with
  | none => List.replicate n 0
  | some l =>
    if 2 ≤ s.spaceOf l then List.replicate n 0
    else s.overlaid (s.opsOf .hub) (s.spaceOf l) (l.pa va (s.leafHalf asid l)) n

/-- The same bytes as a value (R7). -/
def ctxVal (s : State) (asid va n : Nat) : Nat := ofBytes (s.ctxBytes asid va n)

/-- Two accesses touch a granule in common (R229). -/
def sameGranule (s : State) (x y : Pending) : Bool :=
  x.pieces.any fun p => y.pieces.any fun q => s.spaceOf p.leaf = s.spaceOf q.leaf && p.pa / 32 = q.pa / 32

/-- A write of a hub-die unit: performed, or held until nothing delays it, behind the writes that the units made before it
(R229, R290). Bytes that cross a granule are one write for each (R207). -/
def hubStore (s : State) (asid va pa : Nat) (l : Leaf) (bs : List Byte) : State :=
  (cutGranules pa bs).foldl (fun s g =>
    let (no, s) := s.fresh
    let x : Pending :=
      { no := no, who := .hub, core := 192, asid := asid, launch := 0, wid := 0, reply := none, cycle := 0
        acc := ⟨.store, va + (g.1 - pa), g.2.length, ofBytes g.2, 0, false, true, 0⟩
        pieces := [⟨va + (g.1 - pa), 0, g.2.length, l, g.1⟩] }
    match if (s.opsOf .hub).isEmpty then s.tryStore .hub no (hubDie g.1) asid 0 g.1 l g.2 (.written 0 va) else none with
    | some s' => s'
    | none => { s with ops := s.ops ++ [x] }) s

/-- A write of a hub-die unit at a physical address of device memory (R335). -/
def hubPut (s : State) (asid pa n v : Nat) : State := s.hubStore asid 0 pa ⟨0, 0, 0, 0⟩ (toBytes n v)

/-- Write bytes at a virtual address of a context, as the dispatcher or a hub-die unit does; a write to an unmapped page
is lost (log 22). -/
def ctxStore (s : State) (asid va : Nat) (bs : List Byte) : State :=
  match s.hubLeaf asid va with
  | none => s
  | some l => s.hubStore asid va (l.pa va (s.leafHalf asid l)) l bs

/-- Write a value of n bytes at a virtual address of a context. -/
def ctxPut (s : State) (asid va n v : Nat) : State := s.ctxStore asid va (toBytes n v)

/-- Write a long image in 64-byte units, each of which lies on one page. -/
def ctxStoreUnits (s : State) (asid va : Nat) (units : List (List Byte)) : State :=
  ((span 0 units.length).zip units).foldl (fun s p => s.ctxStore asid (va + 64 * p.1) p.2) s

end State

/-- Cut bytes into units of 64, the last padded with zeros. -/
def units64 (bs : List Byte) : List (List Byte) :=
  (span 0 ((bs.length + 63) / 64)).map fun i =>
    let u := (bs.drop (64 * i)).take 64
    u ++ List.replicate (64 - u.length) 0

/-! ### The fault queue (R361) -/

/-- A 32-byte record from (byte offset, size, value) fields; bytes not listed are zero (R362). -/
def recordOf (l : List (Nat × Nat × Nat)) : Nat :=
  (l.map fun f => (f.2.2 % 2 ^ (8 * f.2.1)) * 2 ^ (8 * f.1)).sum

/-- The physical address of the descriptor of a context (R335). -/
def State.ctxDescriptor (s : State) (asid : Nat) : Nat := s.regs.ctxbase.toNat + 256 * asid

/-- FQRIDX of a context (R335, R361). -/
def State.fqRidx (s : State) (asid : Nat) : Nat := valueAt s.memory (s.ctxDescriptor asid + 0x48) 8

/-- The sequence value of an index (R249). -/
def seqOf (w : Nat) : Nat := 0x80000000 + w % 2 ^ 31

/-- The ring of a context's fault queue has a free entry (R361). -/
def State.fqRoom (s : State) (asid : Nat) (c : Context) : Bool :=
  c.fqwidx - s.fqRidx asid < 2 ^ c.fqlog2n

/-- Write an entry into the ring: the entry with its SEQ, FQWIDX, and the vector when the queue was empty (R361). -/
def State.putReport (s : State) (asid : Nat) (c : Context) (entry : Nat) : State :=
  let w := c.fqwidx
  let s' := s.ctxStore asid (c.fqbase + 64 * (w % 2 ^ c.fqlog2n)) (toBytes 64 (entry + seqOf w * 2 ^ 480))
  let s' := s'.hubPut asid (s.ctxDescriptor asid + 0x50) 8 (w + 1)
  let s' := s'.updCtx asid fun c => { c with fqwidx := w + 1 }
  if w = s.fqRidx asid then s'.send (.msix c.fqvec) else s'

/-- The 512 bits of a report, without SEQ (R361). -/
def State.reportEntry (s : State) (asid cause detail record : Nat) : Nat :=
  cause * 2 ^ 472 + detail * 2 ^ 464 + asid * 2 ^ 455 + s.pkg * 2 ^ 445 + s.timebase.toNat * 2 ^ 320 + record % 2 ^ 256

/-- A report can be written or held at once (R361). -/
def State.canReport (s : State) (asid : Nat) : Bool :=
  match s.ctx? asid with
  | none => true
  | some c => (s.fqRoom asid c && !(s.heldReports.any fun h => h.asid = asid)) || s.heldReports.length < 1024

/-- Engines of a context work while they can report (R361). -/
def State.engineRuns (s : State) (asid : Nat) : Bool := s.canReport asid

/-- Write a report, or hold it at the hub die while the ring is full (R361). A context that is not live has no queue. -/
def State.fileReport (s : State) (asid entry : Nat) : State :=
  match s.ctx? asid with
  | none => s
  | some c =>
    if s.fqRoom asid c && !(s.heldReports.any fun h => h.asid = asid) then s.putReport asid c entry
    else { s with heldReports := s.heldReports ++ [⟨asid, entry⟩] }

/-- Report a fault of a party that is not a thread, or of a thread that has room to report (R361). -/
def State.report (s : State) (asid cause detail record : Nat) : State :=
  s.fileReport asid (s.reportEntry asid cause detail record)

end Sys2Proof.Machine
end

