-- ==== Sys2Proof/Machine/Fetch.lean ====
section
/-! DEFINITION. Fetching and decoding the instruction at a thread's issue point (R12 to R14, R62, R64). -/

namespace Sys2Proof.Machine

/-- A fetch of one instruction: its words, or the fault of the first word that cannot be translated (R13), or the first word
that a peer package has still to return (R314). -/
inductive Fetch
  | words (ws : List Nat)
  | fault (reason level entry base size va : Nat)
  | ask (pa : Nat) (leaf : Leaf)
  deriving DecidableEq, Repr

/-- The leaf a core uses for an access: its TLB's, else what a walk of its die gives, under the access's permissions
(R203, R205). -/
def State.coreWalk (s : State) (core asid va : Nat) (a : Access) : WalkEnd :=
  match s.tlbLook core asid va with
  | some l =>
    match permFault s l a with
    | some r => .fault r l.level l.entry l.base l.size
    | none => .leaf l
  | none => s.walkFor (dieOf core) asid va a

/-- The 32-bit word at a virtual address, as instruction fetch of a launch reads it: of the values that a word modified during
the launch may give, the one in memory now; of a peer's word, the one the launch fetched first (R14, log 47). -/
def State.fetchWord (s : State) (core asid launch va : Nat) : Fetch :=
  match s.coreWalk core asid va .fetch with
  | .fault r l e b z => .fault r l e b z va
  | .leaf l =>
    let pa := l.pa va (s.leafHalf asid l)
    if 2 ≤ s.spaceOf l then
      match s.code.find? fun w => w.launch = launch && w.pkg = l.peer && w.pa = pa with
      | some w => .words [w.word]
      | none => .ask pa l
    else if l.tier ≤ 2 && s.bad pa 4 then .fault 0x08 l.level l.entry l.base l.size va
    else .words [valueAt (if l.tier = 3 then s.hostMemory else s.memory) pa 4]

/-- A word of code has been asked for. -/
def State.codeAsked (s : State) (launch pa : Nat) (l : Leaf) : Bool :=
  s.peers.any fun p => p.use = .code launch && p.pkg = l.peer && p.pa = pa

/-- Ask a peer for a word of code, once for a launch (R314). -/
def State.askCode (s : State) (asid launch pa : Nat) (l : Leaf) : State :=
  if s.codeAsked launch pa l then s
  else s.askPeer asid 0 4 l (.code launch) pa (.read pa 4)

/-- n consecutive words from a virtual address. -/
def State.fetchWords (s : State) (core asid launch : Nat) : Nat → Nat → Fetch
  | _, 0 => .words []
  | va, n + 1 =>
    match s.fetchWord core asid launch va with
    | .fault r l e b z v => .fault r l e b z v
    | .ask pa l => .ask pa l
    | .words w =>
      match s.fetchWords core asid launch (va + 4) n with
      | .words ws => .words (w ++ ws)
      | f => f

/-- The words of the instruction at an address (R12, R13). -/
def State.fetchInstr (s : State) (core asid launch va : Nat) : Fetch :=
  match s.fetchWord core asid launch va with
  | .words [w] => s.fetchWords core asid launch va (wordCount w)
  | f => f

/-- The word index of a thread's pc in the body it runs (R62, R64). -/
def Repeat.index (r : Repeat) (pc : Nat) : Nat := (pc - (r.addr + r.len)) / 4

/-- The words of the body that a thread runs: captured, or fetched again after a relaunch or a return, as they stand in memory
then (R64, log 47). -/
def State.bodyWords (s : State) (k : Nat) (r : Repeat) : Fetch :=
  if r.fetched then .words r.body
  else s.fetchWords (coreOf k) (s.asidOf k) (s.launchOf k) (r.addr + r.len) r.body.length

/-- A REPEAT state whose body has been fetched, where it can be (R64). -/
def State.capture (s : State) (k : Nat) (r : Repeat) : Repeat :=
  match s.bodyWords k r with
  | .words ws => { r with body := ws, fetched := true }
  | .fault .. | .ask .. => r

/-- The words at a thread's issue point: of the REPEAT body it runs, or of memory (R64). -/
def State.fetchAt (s : State) (k : Nat) (t : Thread) : Fetch :=
  match t.rep with
  | some r =>
    match s.bodyWords k r with
    | .words ws => .words (ws.drop (r.index t.pc.toNat))
    | f => f
  | none => s.fetchInstr (coreOf k) (s.asidOf k) (s.launchOf k) t.pc.toNat

/-- One increment entry applied in pass k to the fields of the instruction at a word index of the body (R62). -/
def applyInc (r : Raw) (entry idx pass : Nat) : Raw :=
  if field entry 11 5 = idx then r.step (field entry 8 3) (pass * toInt (field entry 0 8) 8) else r

/-- The fields of an instruction under a REPEAT state (R62). -/
def Repeat.apply (rep : Repeat) (pc : Nat) (r : Raw) : Raw :=
  (span 0 4).foldl (fun r i => applyInc r (field rep.incs (16 * i) 16) (rep.index pc) rep.pass) r

/-- The fields of the instruction that a thread's fetched words hold. -/
def rawAt (t : Thread) (ws : List Nat) : Option Raw :=
  (rawOf ws).map fun r =>
    match t.rep with
    | none => r
    | some rep => rep.apply t.pc.toNat r

/-- The instruction at a thread's issue point, where it can be fetched and is legal. -/
def State.instrAt (s : State) (k : Nat) (t : Thread) : Option Instr :=
  match s.fetchAt k t with
  | .fault .. | .ask .. => none
  | .words ws =>
    match (rawAt t ws).map Raw.instr with
    | some (.ok i) => some i
    | _ => none

end Sys2Proof.Machine
end

