-- ==== Sys2Proof/Machine/Crock.lean ====
section
/-! DEFINITION. Continuation records as byte images, drawer slots and overflow area (R130 to R134), readiness (R135) and
the crock: bins, insertion units, head compositions, launches and the pass queue (R137 to R141). -/

namespace Sys2Proof.Machine

/-- The event key of a kind and payload (R136). -/
def eventKey (kind payload : Nat) : Nat := kind * 2 ^ 60 + payload

/-- The size in bytes of a record (R130). -/
def recordSize (keep : Nat) (rep : Bool) (mode : Nat) : Nat :=
  let base := 32 + 4 * keep
  if !rep && mode = 0 then base
  else (base + 15) / 16 * 16 + (if rep then 16 else 0) + (if mode = 0 then 0 else 64)

/-- The size of a record. -/
def Record.size (r : Record) : Nat := recordSize r.keep r.rep.isSome r.mode

/-- A slot still awaits its data (R131). -/
def Record.awaits (r : Record) (i : Incoming) : Bool := !(r.landed.contains i.wid)

/-- Incoming slots as (index, slot). -/
def Record.slots (r : Record) : List (Nat × Incoming) := (span 0 r.incoming.length).zip r.incoming

/-- The width code of INW (R131). -/
def widthCode (w : Nat) : Nat := if w ≤ 32 then 0 else if w = 64 then 1 else 2

/-- The 256-bit header of a record (R131). -/
def Record.header (r : Record) : Nat :=
  r.event * 2 ^ 192 + r.handle * 2 ^ 160 + r.keep * 2 ^ 120 + r.lane * 2 ^ 115 + r.mode * 2 ^ 113 +
  b2n r.rep.isSome * 2 ^ 112 + r.resume +
  (r.slots.map fun p => p.2.reg * 2 ^ (128 + 8 * p.1) + b2n (r.awaits p.2) * 2 ^ (108 + p.1) +
    widthCode p.2.width * 2 ^ (100 + 2 * p.1)).sum

/-- The REPEAT extension (R132). -/
def Repeat.bytes (r : Repeat) : List Byte := toBytes 8 r.addr ++ toBytes 2 r.pass ++ toBytes 2 r.count ++ toBytes 4 0

/-- The parked-instruction extension (R132). -/
def OpLog.bytes (l : OpLog) : List Byte :=
  (l.words.take 3).flatMap (toBytes 4) ++ toBytes 4 0 ++ toBytes 8 l.ea ++ toBytes 8 0 ++ toBytes 16 l.b ++ toBytes 16 l.c

/-- The byte image of a record (R130). -/
def Record.bytes (r : Record) : List Byte :=
  let body := toBytes 32 r.header ++ (span 1 r.keep).flatMap fun n => toBytes 4 (Map.lookD r.regs n 0).toNat
  let ext := (r.rep.map Repeat.bytes).getD [] ++ (r.log.map OpLog.bytes).getD []
  if r.rep.isSome || r.log.isSome then body ++ List.replicate ((16 - body.length % 16) % 16) 0 ++ ext else body

namespace State

/-- Drawer slots taken on a core (R133), or withdrawn (R383). -/
def drawerTaken (s : State) (core : Nat) : List Nat :=
  (s.defects 4 core).map (· % 2 ^ 14) ++
  s.records.flatMap fun p =>
    match p.2.place with
    | .drawer l => if p.2.core = core then l else []
    | _ => []

/-- The first n free slots of a core's drawer, counted from the lowest; the placement is not visible (R133). -/
def drawerFree (taken : List Nat) : Nat → Nat → List Nat → Option (List Nat)
  | _, 0, acc => some acc
  | from_, n + 1, acc =>
    match lowestFree (16384 - from_) from_ (fun i => !(taken.contains i)) with
    | none => none
    | some i => drawerFree taken (i + 1) n (acc ++ [i])

/-- The overflow area that records of a context take, as (offset, size) (R134). -/
def overflowTaken (s : State) (asid : Nat) : List (Nat × Nat) :=
  s.records.filterMap fun p =>
    match p.2.place with
    | .overflow o n => if p.2.asid = asid then some (o, n) else none
    | _ => none

/-- The lowest place in the overflow area with n adjacent free bytes, a multiple of 64 (R134). -/
def overflowFree (taken : List (Nat × Nat)) (size n : Nat) : Option Nat :=
  ((0 :: taken.map fun t => t.1 + t.2).filter fun o =>
      o + n ≤ size && taken.all fun t => o + n ≤ t.1 || t.1 + t.2 ≤ o).min?

/-- Where a record of `size` bytes goes: drawer slots, else the overflow area, else nowhere (R133, R134). -/
def placeFor (s : State) (core asid size : Nat) : Option Place :=
  let n := (size + 63) / 64
  match drawerFree (s.drawerTaken core) 0 n [] with
  | some l => some (.drawer l)
  | none =>
    match s.ctx? asid with
    | none => none
    | some c =>
      if c.ovFault then none
      else (overflowFree (s.overflowTaken asid) c.ovsize (64 * n)).map fun o => .overflow o (64 * n)

/-- Write a record in the overflow area as its image (R134). -/
def syncRecord (s : State) (rid : Nat) : State :=
  match s.records.look rid with
  | none => s
  | some r =>
    match r.place, s.ctx? r.asid with
    | .overflow o _, some c => s.ctxStoreUnits r.asid (c.ovbase + o) (units64 r.bytes)
    | _, _ => s

/-! ### Bins -/

/-- The bin key of a record (R137). -/
def inBin (r : Record) (b : Bin) : Bool :=
  b.asid = r.asid && b.hdr.addr = r.hdr.addr && b.resume = r.resume && b.handle = (if r.hdr.paired then r.handle else 0)

/-- Lane indices of the records of a unit. -/
def unitLanes (s : State) (u : List Nat) : List Nat := u.filterMap fun r => (s.records.look r).map Record.lane

/-- The head composition of units in insertion order, and the units left (R139). -/
def compose (lanes : List Nat → List Nat) : List Nat → List (List Nat) → List (List Nat) × List (List Nat)
  | _, [] => ([], [])
  | taken, u :: us =>
    if (lanes u).any taken.contains then ([], u :: us)
    else
      let (h, r) := compose lanes (taken ++ lanes u) us
      (u :: h, r)

/-- The bin of an index on a core. -/
def bin? (s : State) (core i : Nat) : Option Bin := ((s.core core).bins.find? fun p => p.1 = i).map Prod.snd

/-- The core clock in MHz at a clock step (R381). -/
def clockMhz (step : Nat) : Nat := 3300 - 100 * field step 0 8

/-- Thousandths of core-clock cycles since reset, at the steps that CLKSTEP has had (R381). -/
def coreClock (s : State) : Nat :=
  s.regs.clkTicks + (s.timebase.toNat - s.regs.clkSince) * clockMhz s.regs.clkstep.toNat

/-- Launch the head composition of a bin (R139, R141): its records wait for admission, and an empty bin is freed. -/
def launchBin (s : State) (core i : Nat) : State :=
  match s.bin? core i with
  | none => s
  | some b =>
    let (h, rest) := compose s.unitLanes [] b.units
    s.updCore core fun c =>
      { c with launching := c.launching ++ [⟨b.asid, b.hdr, h.flatten⟩]
               bins := if rest.isEmpty then c.bins.filter fun p => p.1 ≠ i
                       else c.bins.map fun p => if p.1 = i then (i, { b with units := rest, since := s.coreClock }) else p }

/-- The timer of a bin has run for its period in core-clock cycles, the context's crock timer, 512 where that is 0 (R139). -/
def binExpired (s : State) (b : Bin) : Bool :=
  let n := ((s.ctx? b.asid).map Context.crtime).getD 0
  b.since + 1000 * (if n = 0 then 512 else n) ≤ s.coreClock

/-- Launch head compositions of a bin while one is full or cannot grow (R139). -/
def runBin (core i : Nat) : Nat → State → State
  | 0, s => s
  | n + 1, s =>
    match s.bin? core i with
    | none => s
    | some b =>
      let (h, rest) := compose s.unitLanes [] b.units
      if (!rest.isEmpty) || (s.unitLanes h.flatten).length = 32 then runBin core i n (s.launchBin core i) else s

/-- Put a unit into a bin of its key, or open a bin for it if one of the 64 is free (R137). -/
def joinBin (s : State) (core : Nat) (u : List Nat) : Option State :=
  match (u.head?).bind s.records.look with
  | none => some s
  | some r =>
    match (s.core core).bins.find? fun p => inBin r p.2 with
    | some (i, b) =>
      some (runBin core i (b.units.length + 1)
        (s.updCore core fun c =>
          { c with bins := c.bins.map fun p => if p.1 = i then (i, { b with units := b.units ++ [u] }) else p }))
    | none =>
      match lowestFree 64 0 (fun i => !((s.core core).bins.any fun p => p.1 = i)) with
      | none => none
      | some i =>
        some (runBin core i 1
          (s.updCore core fun c =>
            { c with bins := c.bins ++
                       [(i, ⟨r.asid, r.hdr, r.resume, if r.hdr.paired then r.handle else 0, [u], s.coreClock⟩)] }))

/-- Units of the pass queue, in order, join a bin of their key or a freed bin; the rest stay (R140). -/
def feedPass (core : Nat) : List (List Nat) → State → State
  | [], s => s
  | u :: us, s =>
    match s.joinBin core u with
    | some s' => feedPass core us (s'.updCore core fun c => { c with passQueue := c.passQueue.erase u })
    | none => feedPass core us s

/-- The bin that holds the oldest record, the one written first (R140, log 24). -/
def oldestBin (s : State) (core : Nat) : Option Nat :=
  match ((s.core core).bins.flatMap fun p => p.2.units.flatten).min? with
  | none => none
  | some r => ((s.core core).bins.find? fun p => p.2.units.any fun u => u.contains r).map Prod.fst

/-- While the pass queue is not empty and no bin is free, the bin of the oldest record launches (R140). -/
def pressBins (core : Nat) : Nat → State → State
  | 0, s => s
  | n + 1, s =>
    if (s.core core).passQueue.isEmpty then s
    else if (s.core core).bins.length < 64 then pressBins core n (feedPass core (s.core core).passQueue s)
    else
      match s.oldestBin core with
      | none => s
      | some i => pressBins core n (s.launchBin core i)

/-- A unit enters the crock (R137 to R140). -/
def enterUnit (s : State) (core : Nat) (u : List Nat) : State :=
  let s := match s.joinBin core u with
    | some s' => s'
    | none => s.updCore core fun c => { c with passQueue := c.passQueue ++ [u] }
  pressBins core (4 * s.records.length + 4) s

end State

/-- The record is ready: its event is satisfied and INV is zero (R135). -/
def Record.ready (r : Record) : Bool := r.satisfied && r.incoming.all fun i => !(r.awaits i)

namespace State

/-- Record numbers of an insertion unit, oldest first (R138). -/
def unitRecords (s : State) (u : Nat) : List Nat :=
  (s.records.filter fun p => p.2.unit = u && p.2.place ≠ .image).map Prod.fst

/-- A unit whose members have all become ready enters the crock as one, once (R135, R138). -/
def settleUnit (s : State) (u : Nat) : State :=
  let rids := s.unitRecords u
  let rs := rids.filterMap s.records.look
  match rs with
  | [] => s
  | r :: _ =>
    if rs.all Record.ready && !(rs.any Record.entered) then
      (rids.foldl (fun s i => s.updRecord i fun r => { r with entered := true }) s).enterUnit r.core rids
    else s

/-- The event of every record that passes a test is satisfied; units enter in the order in which their records were
written (R135, R138). -/
def satisfyRecords (s : State) (f : Record → Bool) : State :=
  let hit := (s.records.filter fun p => !p.2.satisfied && f p.2).map Prod.fst
  let units := (hit.filterMap fun i => (s.records.look i).map Record.unit).eraseDups
  let s := hit.foldl (fun s i => s.updRecord i fun r => { r with satisfied := true }) s
  units.foldl settleUnit s

/-- Events occur: records that wait for one become ready, and a privileged thread that waits for one in its slot completes
its instruction or its replay (R135, R358); a record still to be written will be ready when it is (R135). The test sees
event key and block. -/
def wake (s : State) (f : Nat → Nat → Bool) : State :=
  let s := s.satisfyRecords fun r => f r.event r.bid
  { s with threads := s.threads.map fun p =>
      match p.2.hold with
      | .event key log => if f key p.2.bid then (p.1, { p.2 with hold := .resume (if log.len = 0 then 2 else 1) log }) else p
      | .overflow c (some q) =>
        if f q.event p.2.bid then (p.1, { p.2 with hold := .overflow c (some { q with satisfied := true }) }) else p
      | .report e (.holds c (some q)) =>
        if f q.event p.2.bid then (p.1, { p.2 with hold := .report e (.holds c (some { q with satisfied := true })) }) else p
      | _ => p }

/-- What waits for some events waits for another from now on: records, and threads that wait in their slots for an event or for
room for their record. -/
def reaim (s : State) (f : Nat → Nat → Bool) (event : Nat) : State :=
  let hit := (s.records.filter fun p => !p.2.satisfied && f p.2.event p.2.bid).map Prod.fst
  let aim (b : Nat) (q : ParkReq) : ParkReq := if f q.event b && !q.satisfied then { q with event := event } else q
  let s := { s with threads := s.threads.map fun p =>
      match p.2.hold with
      | .event key log => if f key p.2.bid then (p.1, { p.2 with hold := .event event log }) else p
      | .overflow c (some q) => (p.1, { p.2 with hold := .overflow c (some (aim p.2.bid q)) })
      | .report e (.holds c (some q)) => (p.1, { p.2 with hold := .report e (.holds c (some (aim p.2.bid q))) })
      | _ => p }
  hit.foldl (fun s i => (s.updRecord i fun r => { r with event := event }).syncRecord i) s

end State
end Sys2Proof.Machine
end

