-- ==== Sys2Proof/Machine/Ops.lean ====
section
/-! DEFINITION. Operations that many instructions share: taking a trap and returning from one (R357 to R359, R364),
ending a thread (R60), parking it (R126 to R134, R79), and running an instruction in every thread that issues it
(R25, R28, R29, R77). -/

namespace Sys2Proof.Machine

/-- A thread leaves its lane position; the group ceases with its last thread (R39, R60, R126). -/
def State.leaveSlot (s : State) (k : Nat) : State :=
  let s := { s with threads := s.threads.del k }
  if s.threads.any fun p => groupOf p.1 = groupOf k then s else { s with groups := s.groups.del (groupOf k) }

/-- Free the miss-status entries that serve a result or an access (R209). -/
def State.freeMiss (s : State) (key : Nat) : State :=
  { s with misses := (s.misses.map fun e => { e with wids := e.wids.filter fun w => w ≠ key }).filter fun e =>
      !e.wids.isEmpty }

/-- A thread ceases to exist (R60): loads in flight have nowhere to go, their miss-status entries are free, and the block has
one thread fewer. Stores it has issued are performed all the same. -/
def State.endThread (s : State) (k : Nat) : State :=
  match s.thread? k with
  | none => s
  | some t =>
    let s := t.incoming.foldl (fun s i => s.freeMiss i.wid) s
    (s.leaveSlot k).updBlock t.bid fun b => { b with alive := b.alive - 1 }

/-! ### Traps -/

/-- The unhandled-trap record (R362): TEPC, TCAUSE, HANDLE, TINFO, first word, lane, and whether privileged. -/
def unhandledRecord (tepc tcause handle tinfo word lane : Nat) (priv : Bool) : Nat :=
  recordOf [(0, 8, tepc), (8, 4, tcause), (12, 4, handle), (16, 8, tinfo), (24, 4, word), (28, 1, lane), (29, 1, b2n priv)]

/-- An unhandled trap (R359): the block has failed, the fault is reported, and the thread ends as by exit. With nowhere
to put the report the thread waits in its slot until there is room, and ends then (R361). -/
def State.unhandled (s : State) (k tcause tinfo word : Nat) : State :=
  match s.thread? k with
  | none => s
  | some t =>
    let handle := ((s.blockOf k).map Block.handle).getD 0
    let asid := s.asidOf k
    let entry := s.reportEntry asid 0x20 (field tcause 8 8)
      (unhandledRecord t.pc.toNat tcause handle tinfo word (laneOf k) t.priv)
    let s := s.updBlock t.bid fun b => { b with failed := true }
    if s.canReport asid then (s.fileReport asid entry).endThread k
    else s.setThread k { t with hold := .report entry .ends }

/-- TCAUSE (R366). -/
def tcauseOf (logged : Bool) (cause detail : Nat) : Nat := b2n logged * 2 ^ 31 + cause * 2 ^ 8 + detail

/-- What a thread holds once it has taken a trap that its handler takes (R357). -/
def Thread.trapped (t : Thread) (handler cause detail info : Nat) (words : List Nat) (log : Option OpLog) : Thread :=
  { t with tepc := t.pc
           tcause := BitVec.ofNat 32 (tcauseOf log.isSome cause detail)
           tinfo := BitVec.ofNat 64 info
           tinsta := BitVec.ofNat 64 ((words[0]?).getD 0 + 2 ^ 32 * (words[1]?).getD 0)
           tinstb := BitVec.ofNat 64 ((words[2]?).getD 0)
           savedRep := t.rep, rep := none, window := [], priv := true, pc := BitVec.ofNat 64 handler
           keptLog := log, hold := .none }

/-- Deliver a trap to the thread that raised it (R357): to its handler, or as an unhandled trap where there is none or
the thread is in privileged mode. `log` is the operand log of the replay that raised it, if one did. -/
def State.trapWith (s : State) (k cause detail info : Nat) (words : List Nat) (log : Option OpLog) : State :=
  match s.thread? k with
  | none => s
  | some t =>
    let handler := ((s.headerOf k).map Header.handler).getD 0
    if handler = 0 || t.priv then s.unhandled k (tcauseOf log.isSome cause detail) info ((words[0]?).getD 0)
    else s.setThread k (t.trapped handler cause detail info words log)

/-- The trap of an instruction that is issuing: TINST is the words fetched (R357). -/
def State.trap (s : State) (k cause detail info : Nat) : State :=
  s.trapWith k cause detail info ((s.issuing.map Issue.words).getD []) none

/-- A REPEAT state whose body an address lies in (R364). -/
def inBody (r : Repeat) (pc : Nat) : Bool :=
  r.addr + r.len ≤ pc && pc < r.addr + r.len + 4 * r.body.length

/-- What eret leaves in the thread (R364): user mode, the pc at TEPC, the saved REPEAT state if TEPC lies within its
body, and an empty window. -/
def Thread.returned (t : Thread) : Thread :=
  { t with priv := false, pc := t.tepc, window := [], keptLog := none, savedRep := none
           rep := match t.savedRep with
             | some r => if inBody r t.tepc.toNat then some { r with fetched := false } else none
             | none => none }

/-! ### Parking -/

/-- The operand log of a record: a logged access leaves the thread's incoming writes and keeps the registers it still
writes (R72, R78). -/
def keepLive (t : Thread) (p : ParkReq) : Option OpLog :=
  p.log.map fun l =>
    match t.incoming.find? fun i => i.wid = p.wid with
    | some i => { l with live := i.live.filter fun r => r ≤ p.keep }
    | none => l

/-- The record that a parking thread writes (R127 to R132, R138). -/
def parkRecord (k : Nat) (t : Thread) (b : Block) (hdr : Header) (p : ParkReq) (unit : Nat) (place : Place) : Record :=
  { core := coreOf k, group := groupOf k, asid := b.asid, bid := t.bid, handle := b.handle, hdr := hdr
    lane := laneOf k, lin := t.lin, keep := p.keep, mode := p.mode, rep := t.rep, resume := p.resume, event := p.event
    regs := t.regs.filter fun r => r.1 ≤ p.keep
    incoming := t.incoming.filter fun i => i.reg ≤ p.keep && i.wid ≠ p.wid
    landed := [], log := keepLive t p, unit := unit, cycle := p.cycle, satisfied := p.satisfied, entered := false
    place := place }

/-- A REPEAT state as part of an issue point (R45). -/
def repPoint (r : Option Repeat) : Option (Nat × Nat × Nat) := r.map fun r => (r.addr, r.pass, r.count)

/-- The record written is a sibling of one written in the same cycle, at the same issue point (R45, R138). Of what MODE 1
records log, B and C count as logged sources, and the effective address does not (log 50). -/
def sibling (r q : Record) : Bool :=
  r.cycle = q.cycle && r.group = q.group && r.event = q.event && r.resume = q.resume && r.mode = q.mode &&
  repPoint r.rep = repPoint q.rep &&
  (r.mode ≠ 1 || (r.log.map fun l => (l.b, l.c)) = (q.log.map fun l => (l.b, l.c)))

/-- The continuation-overflow record (R362). -/
def overflowRecord (used slots handle core lane : Nat) : Nat :=
  recordOf [(0, 8, used), (8, 4, slots), (12, 4, handle), (16, 1, core), (17, 1, lane)]

/-- Bytes of overflow area in use by a context (R134). -/
def State.overflowUsed (s : State) (asid : Nat) : Nat := ((s.overflowTaken asid).map Prod.snd).sum

/-- A thread finds no room for a record of `size` bytes: the fault is reported once for its context, and the thread is
held (R134). -/
def State.holdOverflow (s : State) (k size cycle : Nat) (p : Option ParkReq) : State :=
  let asid := s.asidOf k
  let handle := ((s.blockOf k).map Block.handle).getD 0
  let held := s.updThread k fun t => { t with hold := .overflow cycle p }
  match s.ctx? asid with
  | none => held
  | some c =>
    if c.ovFault then held
    else
      let entry := s.reportEntry asid 0x22 0
        (overflowRecord (s.overflowUsed asid) ((size + 63) / 64) handle (coreOf k) (laneOf k))
      if s.canReport asid then (held.updCtx asid fun c => { c with ovFault := true }).fileReport asid entry
      else s.updThread k fun t => { t with hold := .report entry (.holds cycle p) }

/-- The record of a thread that parks is written at a place, in the sibling set that it belongs to (R126, R138). -/
def State.writeRecord (s : State) (k : Nat) (t : Thread) (b : Block) (hdr : Header) (p : ParkReq) (place : Place) : State :=
  let (rid, s) := s.fresh
  let r := parkRecord k t b hdr p rid place
  let unit := ((s.records.find? fun q => sibling r q.2).map fun q => q.2.unit).getD rid
  (({ s with records := s.records.ins rid { r with unit := unit } }).leaveSlot k).syncRecord rid

/-- A thread parks (R126): it writes a record, its lane position becomes empty and its window is lost; with no room for
the record it is held in its slot (R134). -/
def State.parkThread (s : State) (k : Nat) (p : ParkReq) : State :=
  match s.thread? k, s.blockOf k, s.headerOf k with
  | some t, some b, some hdr =>
    let size := recordSize p.keep t.rep.isSome p.mode
    match s.placeFor (coreOf k) b.asid size with
    | none => s.holdOverflow k size p.cycle (some p)
    | some place =>
      s.writeRecord k t b hdr p place
  | _, _, _ => s

/-- A thread issues its instruction again later. -/
def State.holdReplay (s : State) (k : Nat) : State := s.updThread k fun t => { t with hold := .replay }

/-- A thread waits for a translation ticket and issues its instruction afresh then (MODE 0); in privileged mode it waits in its
slot (R13, R146, R358). -/
def State.parkAfresh (s : State) (k n : Nat) : State :=
  match s.thread? k with
  | none => s
  | some t =>
    if t.priv then s.setThread k { t with hold := .ticket n none }
    else
      s.parkThread k
        { mode := 0, event := eventKey 0xA n, keep := s.regCount k - 1, resume := t.pc.toNat, log := none, wid := 0
          satisfied := false, cycle := (s.issuing.map Issue.cycle).getD 0 }

/-- Units written in a cycle enter the crock if they are ready already (R135, R138). -/
def State.settleCycle (s : State) (cycle : Nat) : State :=
  (((s.records.filter fun p => p.2.cycle = cycle).map fun p => p.2.unit).eraseDups).foldl State.settleUnit s

/-- K of a KEEP field (R128). -/
def keepCount (n keep : Nat) : Nat := if keep = 0 then n - 1 else keep

/-- `park_on` of an event that is not satisfied, in the course of an instruction (R126, R358): a thread in user mode
parks with MODE 1, a thread in privileged mode waits in its slot. -/
def State.parkOn (s : State) (k : Nat) (event keep : Nat) (log : OpLog) : State :=
  match s.thread? k with
  | none => s
  | some t =>
    if t.priv then s.setThread k { t with hold := .event event log }
    else
      s.parkThread k
        { mode := 1, event := event, keep := keepCount (s.regCount k) keep, resume := t.pc.toNat, log := some log, wid := 0
          satisfied := false, cycle := (s.issuing.map Issue.cycle).getD 0 }

/-- The thread may issue no instruction that names a latch any more, or has reached a point at which an asynchronous
park takes effect (R79, R211). -/
def State.parksHere (s : State) (k : Nat) (t : Thread) (a : AsyncPark) : Bool :=
  match s.instrAt k t with
  | none => true
  | some i =>
    a.left = 0 || (latchesNamed i).isEmpty || (a.mode = 2 && heldByWalk i) || i.sources.any t.pending.contains

/-- A walk for an access is given up, since the access has been logged (R214). -/
def State.dropWalk (s : State) (w : Walk) : State :=
  { s.freeMiss (if w.x.wid = 0 then w.x.no else w.x.wid) with walks := s.walks.filter fun x => x.x.no ≠ w.x.no }

/-- The thread stands before the instruction at its pc and has done nothing of it. -/
def Hold.before : Hold → Bool
  | .none | .replay | .checkPoint | .overflow _ Option.none => true
  | _ => false

/-- Park a thread for which an asynchronous park is due, at its latch-safe point (R79). A thread in privileged mode
parks after its eret (R357). An access that awaits translation goes into the record, to be replayed (R214). -/
def State.settleAsync (s : State) (k cycle : Nat) : State :=
  match s.thread? k with
  | none => s
  | some t =>
    match t.park with
    | none => s
    | some a =>
      if t.priv || t.passed || !(t.hold.before) || !(s.parksHere k t a) then s
      else
        let req : ParkReq :=
          { mode := a.mode, event := a.event, keep := s.regCount k - 1, resume := t.pc.toNat, log := a.log, wid := a.wid
            satisfied := a.event / 2 ^ 60 = 0, cycle := cycle }
        match t.walk.bind fun n => s.walks.find? fun w => w.x.no = n with
        | some w =>
          ((s.dropWalk w).setThread k { t with walk := none }).parkThread k { req with mode := 2, log := some w.log, wid := w.x.wid }
        | none => s.parkThread k req

/-- The thread issues in the turn that is running (R45). -/
def State.inTurn (s : State) (k : Nat) : Bool :=
  match s.issuing, s.groups.look (groupOf k), s.thread? k with
  | some g, some x, some t => g.group = groupOf k && t.lastTurn = x.turn
  | _, _, _ => false

/-- Ask a thread to park asynchronously (R79). It may issue up to 63 more instructions that name latches; the one that it is
issuing is none of them. A thread that is held for a record already waits for its own. -/
def State.askPark (s : State) (k mode event wid : Nat) (log : Option OpLog) : State :=
  let left := if s.inTurn k then 64 else 63
  s.updThread k fun t => { t with park := some ⟨left, mode, event, wid, log⟩ }

/-! ### Issuing an instruction -/

/-- What becomes of an instruction in one thread before its own effect. -/
inductive Gate
  | trap (cause detail info : Nat)
  | off
  | on
  deriving DecidableEq, Repr

/-- The checks common to every instruction, in their order: declared registers (R28), privilege (R29, R373), the latch
of P (R77), the predicate (R25), the latches of the sources (R77). -/
def State.gate (s : State) (i : Instr) (k : Nat) (t : Thread) (h : Head) : Gate :=
  if i.overRegs (s.regCount k) then .trap 0x01 0x0B 0
  else if isPrivileged i && !t.priv then .trap 0x02 0x01 0
  else if opOf i = 0x0E && !(((s.ctx? (s.asidOf k)).map Context.sys).getD false) then .trap 0x02 0x02 0
  else
    match t.firstLatchBad (match h.pred.map Pred.src with | some (.latch n) => [n] | _ => []) with
    | some (d, n) => .trap 0x04 d n
    | none =>
      if !(t.enabled h) then .off
      else
        match t.firstLatchBad i.latches with
        | some (d, n) => .trap 0x04 d n
        | none => .on

/-- Instructions at which a thread of a paired block waits for the other copy (R368): releases, with arrivals (R182) and
steptag (R302) among them, fence, pfence, atoms, engine kicks and exit. -/
def isCheckPoint (i : Instr) : Bool :=
  match i with
  | .exit .. | .exitWithSuccessors .. | .atom .. | .fence .. | .pfenceDie .. | .pfencePkg .. | .copy .. | .enq ..
  | .publish .. | .collRun .. | .collLoad .. | .repart .. | .digest .. | .mma .. | .mmscl .. | .mmstBank .. | .mmstAcc ..
  | .mmclrAcc .. | .barr .. | .barrw .. | .bbytes _ _ false | .harr .. | .hsig .. | .steptag .. | .csrw .. | .setfull .. => true
  | .stg _ m | .red _ m _ => m.ord = .release || m.ord = .acqRel
  | .stl _ m mode => m.ord = .release || mode = .fill
  | _ => false

/-- The pairing of a thread's block (R368). -/
def State.pairingOf (s : State) (k : Nat) : Option Pairing := (s.blockOf k).bind Block.pairing

/-- One thread issues an instruction: it traps, passes it disabled, waits at a check point, or runs its body. -/
def issueLane (i : Instr) (h : Head) (body : Head → Nat → Thread → State → State) (s : State) (k : Nat) : State :=
  match s.thread? k with
  | none => s
  | some t =>
    match s.gate i k t h with
    | .trap c d v => s.trap k c d v
    | .off => s.setThread k (t.disabled i)
    | .on =>
      if (s.pairingOf k).isSome && isCheckPoint i && !t.passed then s.setThread k { t with hold := .checkPoint }
      else if t.passed then body h k { t with passed := false } (s.setThread k { t with passed := false })
      else body h k t s

/-- The threads that issue together run an instruction in ascending lane order (R45, R225). -/
def perLane (i : Instr) (body : Head → Nat → Thread → State → State) (s : State) :
    Host.Outcome State Fault Refusal :=
  match s.issuing, i.head with
  | some g, some h => .next (g.threads.foldl (issueLane i h body) s)
  | _, _ => .next s

/-- The same for an instruction that can park: units that are ready at once enter the crock afterwards (R138). -/
def perLanePark (i : Instr) (body : Head → Nat → Thread → State → State) (s : State) :
    Host.Outcome State Fault Refusal :=
  match s.issuing, i.head with
  | some g, some h => .next ((g.threads.foldl (issueLane i h body) s).settleCycle g.cycle)
  | _, _ => .next s

/-- An instruction whose results depend on nothing but its thread and are written within the simmer window (R71). -/
def alu (i : Instr) (tid : Nat) (f : Head → Thread → Res) (s : State) : Host.Outcome State Fault Refusal :=
  perLane i (fun h k t s => (s.setThread k (t.finish i h (f h t))).count k tid (f h t).ev) s

/-- The participants of a lane instruction: the issuing threads in which it is enabled and takes no trap (R66). -/
def participants (i : Instr) (h : Head) (s : State) : List Nat :=
  ((s.issuing.map Issue.threads).getD []).filter fun k =>
    match s.thread? k with
    | some t => s.gate i k t h = .on
    | none => false

end Sys2Proof.Machine
end

