-- ==== Sys2Proof/Machine/Ticket.lean ====
section
/-! DEFINITION. Translation tickets and their reports (R211, R212). -/

namespace Sys2Proof.Machine

/-- A ticket for a fault, shared with threads of the core that fault with the same reason in the same range (R211). -/
def State.ticketFor (s : State) (core asid reason base size : Nat) (self : Bool) : Nat × Bool × State :=
  match s.tickets.find? fun t => t.asid = asid && t.reason = reason && t.base = base && t.size = size &&
      !t.engine && t.core = core && t.self = self with
  | some t => (t.number, false, s)
  | none =>
    let n := s.nextTicket
    (n, true, { s with nextTicket := (n + 1) % 2 ^ 32
                       tickets := s.tickets ++ [⟨n, asid, reason, base, size, core, false, self⟩] })

/-- The translation-fault record (R212). -/
def translationRecord (va ticket core asid waiters reason kind level entry handle ofs : Nat) : Nat :=
  va * 2 ^ 192 + ticket * 2 ^ 160 + core * 2 ^ 152 + asid * 2 ^ 143 + min 63 waiters * 2 ^ 137 + reason * 2 ^ 133 +
  kind * 2 ^ 130 + level * 2 ^ 128 + entry * 2 ^ 64 + handle * 2 ^ 32 + ofs % 2 ^ 32

/-- Take a ticket for a thread's fault and report it if it is the first on that ticket (R211, R212). -/
def State.faultTicket (s : State) (k va reason level entry base size : Nat) (a : Access) (waiters : Nat) :
    Nat × State :=
  let asid := s.asidOf k
  let (n, first, s) := s.ticketFor (coreOf k) asid reason base size false
  let l : Leaf := ⟨base, size, level, entry⟩
  let s := if reason = 0x08 && entry ≠ 0 then s.logBad (l.pa va (s.leafHalf asid l)) 1 else s
  if first then
    (n, s.report asid 0x23 reason
      (translationRecord va n (coreOf k) asid waiters reason a.kind level (if reason = 0x05 then 0 else entry)
        (((s.blockOf k).map Block.handle).getD 0) 0))
  else (n, s)

/-- A fetch that faults (R13): each thread parks with MODE 0 at the unfetched instruction, or waits in its slot in
privileged mode (R358). With nowhere to put the report, the thread waits in its slot and fetches again (R361). -/
def State.fetchFault (s : State) (ks : List Nat) (cycle reason level entry base size va : Nat) : State :=
  (ks.foldl (fun s k =>
      match s.thread? k, s.canReport (s.asidOf k) with
      | none, _ => s
      | _, false => s
      | some _, true =>
        let (n, s) := s.faultTicket k va reason level entry base size .fetch ks.length
        s.parkAfresh k n) s).settleCycle cycle

end Sys2Proof.Machine
end

