-- ==== Sys2Proof/Machine/Stash.lean ====
section
/-! DEFINITION. Write-backs of stash-mapped larder lines (R161, R162). -/

namespace Sys2Proof.Machine

/-- The dirty stash lines that some bound lines hold. A line whose page is no longer mapped is not among them. -/
def State.dirtyAmong (s : State) (l : List (Nat × Nat × Nat × Nat)) : List StashLine :=
  (l.filter fun p => (s.line p.1).dirty).filterMap fun p => s.stashLine p.1 p.2.1 p.2.2.1 p.2.2.2

/-- The dirty stash lines of a block (R162). -/
def State.dirtyOf (s : State) (bid : Nat) : List StashLine := s.dirtyAmong (s.stashBound.filter fun p => p.2.1 = bid)

/-- Write back those of some lines that nothing delays (R162). -/
def State.flushSome (s : State) (l : List StashLine) : State := l.foldl (fun s x => (s.tryWriteBack x).getD s) s

/-- A release of a scope wider than CORE by a thread of a block writes back the block's dirty stash lines first
(R162). -/
def State.releaseStash (s : State) (bid : Nat) : State := s.flushSome (s.dirtyOf bid)

/-- Write-backs of a block's stash lines are still to come, or await a peer's response (R162). -/
def State.stashHeld (s : State) (bid : Nat) : Bool :=
  !(s.dirtyOf bid).isEmpty ||
  s.peers.any fun p =>
    match p.use with
    | .writeBack _ => p.bid = bid
    | _ => false

/-- A release of a scope wider than CORE that an instruction carries: it takes effect once the write-backs are complete, and
the thread issues it again until then (R162). -/
def State.releasing (s : State) (k bid : Nat) (f : State → State) : State :=
  let s := s.releaseStash bid
  if s.stashHeld bid then s.holdReplay k else f s

/-- Lines of an allocation bound to their global addresses: number, block, address space, virtual address. -/
def boundLines (bid : Nat) (b : Block) (a : Alloc) : List (Nat × Nat × Nat × Nat) :=
  match a.stash with
  | none => []
  | some g => a.linesOf.map fun p => (lineNo b.core p.2, bid, b.asid, g + 128 * p.1)

end Sys2Proof.Machine
end

