-- ==== Sys2Proof/Machine/Global.lean ====
section
/-! DEFINITION. Row 0x9: global memory (R199, R206 to R225): pieces, miss-status entries, translation and its faults,
loads, stores, atomics, reductions, and the pieces carried to peers (R314). -/

namespace Sys2Proof.Machine

/-- Acquire of an ordering attribute (R216, R231). -/
def ordAcquires (o : MemOrd) : Bool := o = .acquire || o = .acqRel
/-- Release of an ordering attribute (R216, R231). -/
def ordReleases (o : MemOrd) : Bool := o = .release || o = .acqRel

/-- The access of a row-0x9 instruction with its effective address and operand values. -/
def gAccessOf (i : Instr) (va b c : Nat) : Option GAccess :=
  match i with
  | .ldg h m => some ⟨.load h.ty, va, tyBytes h.ty, 0, 0, ordAcquires m.ord, false, m.tid⟩
  | .ldc h m => some ⟨.load h.ty, va, tyBytes h.ty, 0, 0, false, false, m.tid⟩
  | .stg h m => some ⟨.store, va, tyBytes h.ty, b, 0, false, ordReleases m.ord, m.tid⟩
  | .atom h m op => some ⟨.atom op h.ty, va, tyBytes h.ty, b, c, ordAcquires m.ord, ordReleases m.ord, m.tid⟩
  | .red h m op => some ⟨.red op h.ty, va, tyBytes h.ty, b, 0, false, ordReleases m.ord, m.tid⟩
  | _ => none

/-- The kind of an access for its permissions and its fault record. -/
def GAccess.kind (g : GAccess) : Access :=
  match g.op with
  | .load _ => .load
  | .store => .store
  | _ => .atomic

/-- Pieces of an access by granule (R208): address, offset in the access, bytes. -/
def piecesOf (va n : Nat) : List (Nat × Nat × Nat) :=
  let first := 32 - va % 32
  if n ≤ first then [(va, 0, n)] else [(va, 0, first), (va + first, first, n - first)]

/-- How the translation of an access's pieces ends: all of them, or the fault of the first that faults, in ascending
address order (R206, R208). -/
inductive Pieces
  | all (l : List Piece)
  | fault (va reason level entry base size : Nat)
  deriving DecidableEq, Repr

/-- Translate pieces in ascending order through a core's TLB, or by walks. A read of data that no code corrects takes the
same path with reason 0x08 (R372). -/
def State.translate (s : State) (core asid : Nat) (a : Access) : List (Nat × Nat × Nat) → Pieces
  | [] => .all []
  | (va, ofs, n) :: rest =>
    match s.coreWalk core asid va a with
    | .fault r l e b z => .fault va r l e b z
    | .leaf l =>
      if !(a.writes && a ≠ .atomic) && (l.tier ≤ 1 || l.tier = 2 && l.peer = s.pkg) &&
          s.bad (l.pa va (s.leafHalf asid l)) n then .fault va 0x08 l.level l.entry l.base l.size
      else
        match s.translate core asid a rest with
        | .all ps => .all (⟨va, ofs, n, l, l.pa va (s.leafHalf asid l)⟩ :: ps)
        | f => f

/-- Every piece of an access has a TLB entry on its core. -/
def State.tlbHas (s : State) (core asid : Nat) (ps : List (Nat × Nat × Nat)) : Bool :=
  ps.all fun p => (s.tlbLook core asid p.1).isSome

/-- Walks put what they find into the core's TLB and the walker's cache (R205). -/
def State.fillPieces (s : State) (core asid : Nat) (ps : List Piece) : State :=
  ps.foldl (fun s p =>
    if (s.tlbLook core asid p.va).isSome then s
    else (s.walkFill (dieOf core) asid p.va).tlbFill core asid p.leaf) s

/-- The pieces lie on pages of two tiers (R206). -/
def straddles (ps : List Piece) : Bool :=
  match ps with
  | p :: q :: _ => p.leaf.tier ≠ q.leaf.tier
  | _ => false

/-! ### The order of accesses (R226 to R231) -/

/-- The block and the linear identifier of a party that is a thread; 0 of another. -/
def Party.bid : Party → Nat
  | .thread b _ => b
  | _ => 0
/-- The linear identifier of a party that is a thread. -/
def Party.lin : Party → Nat
  | .thread _ l => l
  | _ => 0

/-- The access only reads. -/
def GAccess.isRead (g : GAccess) : Bool :=
  match g.op with
  | .load _ => true
  | _ => false

/-- The access has a page of a scope wider than CORE (R204). -/
def Pending.wide (x : Pending) : Bool := x.pieces.any fun p => 0 < p.leaf.scope

/-- The access writes a page with a persist domain in this package's memory (R289). -/
def State.persists (s : State) (x : Pending) : Bool :=
  !x.acc.isRead && x.pieces.any fun p => s.spaceOf p.leaf = 0 && p.leaf.pdom ≠ 0

/-- Accesses that peers have not answered yet (R314). -/
def State.atPeers (s : State) : List Pending :=
  s.peers.filterMap fun p =>
    match p.use with
    | .piece x _ => some x
    | _ => none

/-- Some bytes of two accesses are the same, by virtual address: of accesses of one instruction (R225). -/
def overlaps (x y : Pending) : Bool :=
  x.asid = y.asid && x.acc.va < y.acc.va + y.acc.n && y.acc.va < x.acc.va + x.acc.n

/-- An access comes after an earlier one of its party: both touch one granule, it releases, the earlier one acquires, or one
of the two is a fence; host accesses keep their order (R227, R229, R231). -/
def State.ordered (s : State) (y x : Pending) : Bool :=
  x.who = y.who &&
  (x.who = .host || x.acc.release || y.acc.acquire || x.acc.op = .fence || y.acc.op = .fence || s.sameGranule x y)

/-- A read of this package's or the host's memory takes the bytes of its own party's write to the granule, whether that is
performed or not (R228). -/
def State.forwards (s : State) (x y : Pending) : Bool :=
  x.who ≠ .host && x.acc.isRead && y.acc.op = .store && x.pieces.all fun p => s.spaceOf p.leaf < 2

/-- Accesses of one instruction whose bytes overlap take effect in ascending lane order, reads apart (R225). -/
def laneOrdered (y x : Pending) : Bool :=
  x.cycle ≠ 0 && x.cycle = y.cycle && overlaps x y && !(x.acc.isRead && y.acc.isRead)

/-- An access has to wait for an earlier one that is not performed: one that is held here, at a peer, or awaits its
translation. -/
def State.blocked (s : State) (x : Pending) : Bool :=
  (s.ops.any fun y => y.no < x.no && (laneOrdered y x || (s.ordered y x && !(s.forwards x y)))) ||
  (s.atPeers.any fun y => y.no < x.no && (laneOrdered y x || s.ordered y x)) ||
  (s.walks.any fun w => w.x.no < x.no && laneOrdered w.x x)

/-- A thread's accesses that are not performed yet. -/
def State.outstanding (s : State) (who : Party) : List Pending :=
  if s.ops.isEmpty && s.peers.isEmpty then [] else s.opsOf who ++ s.atPeers.filter fun x => x.who = who

/-- Instructions that a thread issues only once all its earlier accesses are performed: arrivals and signals (R182, R191,
R196), releases and fills of larder lines (R159), engine kicks (R236), publish (R237), spawn (R148), steptag (R302), cntflush (R104), csrw (R365); and
park.ne, whose read of the watched word comes after them (log 48). -/
def releasesAll (i : Instr) : Bool :=
  match i with
  | .barr .. | .barrw .. | .bbytes _ _ false | .harr .. | .hsig .. | .setfull .. | .spawn .. | .copy .. | .enq .. | .publish ..
  | .collRun .. | .collLoad .. | .repart .. | .digest .. | .mma .. | .mmscl .. | .mmstBank .. | .mmstAcc .. | .mmclrAcc ..
  | .steptag .. | .cntflush .. | .parkNe .. | .csrw .. => true
  | .stl _ m mode => m.ord = .release || mode = .fill
  | _ => false

/-- Larder accesses, which wait for an earlier acquire or fence (R231): rows 0x7 and 0x8. -/
def larderRow (i : Instr) : Bool := 0x70 ≤ opOf i && opOf i < 0x90

/-- A thread has to wait with an instruction that performs its accesses as it issues, for earlier accesses ordered before
them (R231, log 48). -/
def State.orderHeld (s : State) (t : Thread) (i : Instr) : Bool :=
  let l := s.outstanding (.thread t.bid t.lin)
  !l.isEmpty && (releasesAll i || (larderRow i && l.any fun x => x.acc.acquire || x.acc.op = .fence))

/-! ### Performing -/

/-- Put the data of an incoming write where it waits: in its thread, or in the record the thread has become; what the decrement of a
successor's counter found goes to the dispatcher (R345). -/
def State.setIncoming (s : State) (wid v : Nat) : State :=
  let f (i : Incoming) : Incoming := if i.wid = wid then { i with data := some v } else i
  if wid = 0 then s
  else { s with threads := s.threads.map fun p => (p.1, { p.2 with incoming := p.2.incoming.map f })
                records := s.records.map fun p => (p.1, { p.2 with incoming := p.2.incoming.map f })
                successors := s.successors.map fun x => if x.wid = wid then { x with old := some v } else x }

/-- The 32-bit or wider value a load gives its register (R217). -/
def loadValue (ty : Ty) (v : Nat) : Nat := if ty = .s8 ∨ ty = .s16 then sx v ty.width 32 else v

/-- The pairing of a party that is a thread (R368). -/
def State.pairingWho (s : State) (who : Party) : Option Pairing := (s.blocks.look who.bid).bind Block.pairing

/-- The plain writes that a party has issued before an access and that are not performed, those of a paired copy's held
ones among them (R228, R368). -/
def State.ownWrites (s : State) (x : Pending) : List Pending :=
  (s.opsOf x.who).filter (fun y => y.no < x.no) ++
  match s.pairingWho x.who with
  | some p => p.held.filter fun y => y.who = x.who
  | none => []

/-- The bytes of a piece of this package's memory or the host's as an access reads them, recalls done (R208, R228). A byte of a
word that no code corrects is a free value: for a thread, one struck after its access was translated (R372, log 46). -/
def State.pieceBytes (s : State) (x : Pending) (p : Piece) : List Byte :=
  let bs := if p.leaf.tier = 3 then bytesAt s.hostMemory p.pa p.n
    else (span p.pa p.n).map fun a => if s.bad a 1 then Config.freeByte x.no a else byteAt s.memory a
  let own := s.ownWrites x
  if own.isEmpty then bs else ((span p.pa p.n).zip bs).map fun q => s.overlayByte own (s.spaceOf p.leaf) q.1 q.2

/-- The value of an access in memory, recalls done. -/
def State.piecesValue (s : State) (x : Pending) : Nat := ofBytes (x.pieces.flatMap fun p => s.pieceBytes x p)

/-- Words of its pieces that no code corrects are entered in ARRLOG when an access reads them (R372). -/
def State.logPieces (s : State) (x : Pending) : State :=
  x.pieces.foldl (fun s p => if s.spaceOf p.leaf = 0 then s.logBad p.pa p.n else s) s

/-- What the reads of an access do first (R161, R233). -/
def State.tryTouch (s : State) (ps : List Piece) : Option State :=
  tryAll (fun p s => s.tryRecallRead (s.spaceOf p.leaf) p.pa) ps s

/-- Write the bytes of a value to the pieces of an access, if nothing delays one of them (R208, R290). -/
def State.tryPieces (s : State) (x : Pending) (v : Nat) : Option State :=
  tryAll (fun p s =>
    s.tryStore x.who x.no (queueDie x.core p.pa) x.asid x.who.bid p.pa p.leaf (toBytes p.n (v / 2 ^ (8 * p.ofs)))
      (.piece x p.ofs)) x.pieces s

/-- The request that carries a piece of an access to a peer (R314). -/
def peerRequest (x : Pending) (p : Piece) : MemReq :=
  match x.acc.op with
  | .load _ | .fence => .read p.pa p.n
  | .store => .write p.pa (toBytes p.n (x.acc.b / 2 ^ (8 * p.ofs))) p.leaf.pdom
  | .atom op ty => .atom op ty p.pa x.acc.b x.acc.c p.leaf.pdom
  | .red op ty => .red op ty p.pa x.acc.b p.leaf.pdom

/-- The access is a read. -/
def Pending.isRead (x : Pending) : Bool := x.acc.isRead

/-- Carry the pieces of an access to the peer packages that hold their frames (R314). A piece of this package's own memory is
performed here and counts as answered. -/
def State.trySend (s : State) (x : Pending) : Option State :=
  tryAll (fun p s =>
    if 2 ≤ s.spaceOf p.leaf then some (s.askPeer x.asid x.who.bid p.n p.leaf (.piece x p.ofs) p.pa (peerRequest x p))
    else if x.isRead then
      (s.tryTouch [p]).map fun s =>
        let (tag, s) := s.fresh
        { s with peers := s.peers ++ [⟨tag, s.pkg, x.asid, x.who.bid, p.pa, p.n, p.leaf, .piece x p.ofs, some (s.pieceBytes x p), s.ns⟩] }
    else s.tryPieces { x with pieces := [p] } x.acc.b) x.pieces s

/-- A reduction of a line of scope PKG goes into its core's partial (R325): a line in the state for another operation is
merged first, and so is one whose partial belongs to another launch or slot (log 49); a 65th line displaces the core's oldest
partial, a 4,097th of a die the die's oldest. -/
def State.tryRedPartial (s : State) (x : Pending) (op : RedOp) (ty : Ty) (pa : Nat) : Option State :=
  let core := x.core
  let line := pa / 128
  let other := s.partials.any fun p =>
    p.line = line && (p.op ≠ op || p.ty ≠ ty || p.launch ≠ x.launch || p.tid ≠ x.acc.tid)
  let recalled := if s.underCapture pa then none
    else tryAll (fun l s => (s.tryWriteBack l).map fun s => s.dropLine l.no) (s.stashAt 0 pa) s
  (recalled.bind fun s => if other then s.tryMerge pa else some s).bind fun s =>
    match s.partialAt core line with
    | some p =>
      let r := foldValue op ty p.values (pa, x.acc.b)
      some (({ s with partials := s.partials.map fun q => if q = p then { p with values := r.1 } else q }).countFor
        core x.launch x.acc.tid r.2)
    | none =>
      let mine := s.partials.filter fun p => p.home = core
      let s := match mine with
        | p :: _ => if 64 ≤ mine.length then s.partialToDie p else s
        | [] => s
      let die := 192 + dieOf core
      let theirs := s.partials.filter fun p => p.home = die
      let made := match theirs with
        | p :: _ => if 4096 < theirs.length then s.tryMerge (128 * p.line) else some s
        | [] => some s
      made.map fun s =>
        { s with partials := s.partials ++ [⟨core, line, op, ty, core, x.launch, x.acc.tid, [(pa, x.acc.b)]⟩] }

/-- One 44-byte record of a store signature (R368): granule address, byte mask, and the granule's bytes. -/
def signatureRecord (va n v : Nat) : List Byte :=
  let o := va % 32
  toBytes 8 (va / 32 * 32) ++ toBytes 4 ((2 ^ n - 1) * 2 ^ o) ++ toBytes 32 (v % 2 ^ (8 * n) * 2 ^ (8 * o))

/-- The store signature of a copy carried on over a global write (R368). -/
def signWrite (sig : Nat) (g : GAccess) : Nat :=
  (piecesOf g.va g.n).foldl (fun r q => crc64 r (signatureRecord q.1 q.2.2 (g.b / 2 ^ (8 * q.2.1)))) sig

/-- A paired copy holds a global write or reduction and carries its store signature on (R368). A release has just passed
its check point: it is signed and not held. -/
def State.holdWrite (s : State) (p : Pairing) (x : Pending) : State :=
  let q : Pairing :=
    { p with signature := signWrite p.signature x.acc, held := if x.acc.release then p.held else p.held ++ [x] }
  s.updBlock x.who.bid fun b => { b with pairing := some q }

/-- The old value of a paired atom goes to the other copy's thread, which completes with it (R368). -/
def State.giveOld (s : State) (who : Party) (old : Nat) : State :=
  match s.pairingWho who with
  | some p =>
    { s with threads := s.threads.map fun q =>
        if q.2.bid = p.other && q.2.lin = who.lin then
          (q.1, { q.2 with given := some old, hold := .none, passed := true })
        else q }
  | none => s

/-- An access is performed and, if it answers another party's request, the answer goes out: to a peer package (R314), or to
the host (R396). An access without a register result frees its miss-status entries (R209). -/
def State.acknowledge (s : State) (x : Pending) (data : List Byte) : State :=
  let s := if x.wid = 0 then s.freeMiss x.no else s
  match x.who, x.reply with
  | .peer pkg, some tag => s.send (.memoryReply pkg tag data)
  | .host, some _ => s.send (.hostReply (some data))
  | _, _ => s

/-- Perform an access now, all its pieces, in the granule order, if no earlier access and nothing in memory delays it
(R207, R208, R217, R219, R220, R229, R290, R299). The read and the write of an atom or a reduction are one step. -/
def State.tryPerform (s : State) (x : Pending) : Option State :=
  let g := x.acc
  if s.blocked x || (g.release && x.wide && s.stashHeld x.who.bid) then none
  else if x.pieces.any fun p => 2 ≤ s.spaceOf p.leaf then s.trySend x
  else
    match g.op with
    | .fence => some s
    | .load ty =>
      (s.tryTouch x.pieces).map fun s =>
        let v := s.piecesValue x
        ((s.logPieces x).setIncoming x.wid (loadValue ty v)).acknowledge x (toBytes g.n v)
    | .store => (s.tryPieces x g.b).map fun s => s.acknowledge x []
    | .atom op ty =>
      (s.tryTouch x.pieces).bind fun s =>
        let old := s.piecesValue x
        let r := atomCombine op ty old g.b g.c
        ((match r.1 with
         | some v => s.tryPieces x v
         | none => some s) : Option State).map fun s =>
          (((s.setIncoming x.wid old).countFor x.core x.launch g.tid r.2).giveOld x.who old).acknowledge x (toBytes g.n old)
    | .red op ty =>
      match x.pieces with
      | p :: _ =>
        if p.leaf.scope = 2 && p.leaf.tier ≤ 1 && p.leaf.pdom = 0 && x.core < 192 then
          (s.tryRedPartial x op ty p.pa).map fun s => s.acknowledge x []
        else
          (s.tryTouch x.pieces).bind fun s =>
            let old := s.piecesValue x
            let r := redCombine op ty old g.b
            (s.tryPieces x r.1).map fun s =>
              (s.countFor x.core x.launch g.tid r.2).acknowledge x (toBytes g.n old)
      | [] => some s

/-- Stash lines that the release of an access writes back first (R162). -/
def State.releaseOf (s : State) (x : Pending) : State :=
  if x.acc.release && x.wide then s.releaseStash x.who.bid else s

/-- Issue an access whose pieces are translated: it is performed, or stands among the accesses that wait (R226, R290). -/
def State.accept (s : State) (x : Pending) : State :=
  let s := s.releaseOf x
  match s.tryPerform x with
  | some s' => s'
  | none => { s with ops := s.ops ++ [x] }

/-- Perform one of the accesses that wait, if nothing delays it any more. -/
def State.tryOp (s : State) (x : Pending) : Option State :=
  let s := s.releaseOf x
  ({ s with ops := s.ops.filter fun y => y.no ≠ x.no } : State).tryPerform x

/-- The same; one that is delayed still has its stash lines written back as far as may be. -/
def State.retryOp (s : State) (x : Pending) : State := (s.tryOp x).getD (s.releaseOf x)

/-- Perform, in issue order, the accesses that wait for nothing any more, writes under a persist domain apart: those follow
with WBQ_ROOM_WRITE (R290). -/
def State.settleOps (s : State) : State :=
  if s.ops.isEmpty then s else (s.ops.filter fun x => !(s.persists x)).foldl State.retryOp s

/-- A step of the device; the accesses that it lets go on follow it. -/
def event (f : State → State) (s : State) : Host.Outcome State Fault Refusal := .next (f s).settleOps

/-- A step of the device that a message starts, which the fabric has delivered in order: what it says stands in the operands of the
step (R309, log 19). -/
def arrival (cls pkg : Nat) (f : State → State) (s : State) : Host.Outcome State Fault Refusal :=
  event (fun s => ((s.takeMessage cls pkg).map f).getD s) s

/-- The same where the step does not name the sender. -/
def arrivalAny (cls : Nat) (f : State → State) (s : State) : Host.Outcome State Fault Refusal :=
  event (fun s => ((s.takeAny cls).map f).getD s) s

/-- Issue an access of a thread of a paired block (R368): writes and reductions are held, a release is performed by the
first copy, and an atom that the other copy has performed only gives its old value. -/
def State.admitPaired (s : State) (k : Nat) (x : Pending) : State :=
  match s.pairingWho x.who with
  | none => s.accept x
  | some p =>
    let held : State :=
      let s' := s.holdWrite p x
      if x.acc.release && p.first then s'.accept x else s'.acknowledge x []
    match x.acc.op, (s.thread? k).bind Thread.given with
    | .store, _ => held
    | .red .., _ => held
    | .atom .., some old => (s.setIncoming x.wid old).updThread k fun t => { t with given := none }
    | _, _ => s.accept x

/-! ### Faults and replays -/

/-- The byte address an access checks against 2^52 (R199), and its alignment (R219): the trap's detail. -/
def gTrap (g : GAccess) : Option Nat :=
  if 2 ^ 52 < g.va + g.n then some 0x01
  else
    match g.op with
    | .atom .. | .red .. => if g.va % g.n = 0 then none else some 0x02
    | _ => none

/-- The fault of an access is logged (R211): a ticket, and a park at the thread's next safe point; a thread in
privileged mode waits in its slot with the access logged (R358). -/
def State.logFault (s : State) (k wid : Nat) (kind : Access) (log : OpLog)
    (va reason level entry base size waiters : Nat) : State :=
  let (n, s) := s.faultTicket k va reason level entry base size kind waiters
  let s := s.freeMiss wid
  match s.thread? k with
  | none => s
  | some t =>
    if t.priv then
      let live := ((t.incoming.find? fun i => i.wid = wid).map Incoming.live).getD []
      s.setThread k { t with hold := .ticket n (some { log with live := live }), walk := none
                             incoming := t.incoming.filter fun i => i.wid ≠ wid || wid = 0 }
    else (s.setThread k { t with walk := none }).askPark k 2 (eventKey 0xA n) wid (some log)

/-- The instruction an operand log holds (R132). -/
def instrOfLog (l : OpLog) : Option Instr :=
  match l.words with
  | w :: v :: m :: _ =>
    let r := rawExt .ext w v m 0
    r.attr.bind r.build
  | _ => none

/-- An access of a thread as it issues, its pieces not yet translated (R226). -/
def State.accessOf (s : State) (k wid no : Nat) (g : GAccess) : Pending :=
  let t := s.thread? k
  { no := no, who := .thread ((t.map Thread.bid).getD 0) ((t.map Thread.lin).getD 0), core := coreOf k, asid := s.asidOf k
    launch := s.launchOf k, wid := wid, acc := g, pieces := [], reply := none
    cycle := (s.issuing.map Issue.cycle).getD 0 }

/-- Replay a logged access, from the log alone (R78): perform it, trap at a tier straddle as a replay does (R206, R357),
or fault again with a new ticket (R211). -/
def State.replayAccess (s : State) (k : Nat) (i : Instr) (log : OpLog) : State :=
  match s.thread? k, gAccessOf i log.ea log.b log.c, i.head with
  | some t, some g, some h =>
    let asid := s.asidOf k
    let core := coreOf k
    let (wid, s) := if log.live.isEmpty then (0, s) else s.fresh
    let t := { t with hold := .none
                      incoming := if wid = 0 then t.incoming
                        else t.incoming ++ [⟨wid, h.d, destWidth i, log.live, none⟩] }
    match s.translate core asid g.kind (piecesOf g.va g.n) with
    | .fault va r l e b z =>
      if s.canReport asid then (s.setThread k t).logFault k wid g.kind log va r l e b z 1 else s
    | .all ps =>
      let s := (s.setThread k t).fillPieces core asid ps
      if straddles ps then
        let s := s.updThread k fun t => { t with incoming := t.incoming.filter fun i => i.wid ≠ wid || wid = 0 }
        s.trapWith k 0x09 0x01 g.va log.words (some log)
      else
        let (no, s) := s.fresh
        s.admitPaired k { s.accessOf k wid no g with pieces := ps }
  | _, _, _ => s

/-! ### Issuing -/

/-- Effective address in class M (R215): the pair A plus the offset, modulo 2^64. -/
def eaOf (h : Head) (m : ModM) (t : Thread) : Nat := wrap (t.rd h.a 64 + m.ofs) 64

/-- An instruction of rows 0x7 to 0xB moves on: its result, when it has a destination, is an incoming write of serial
`wid` (0 when D is v0 or absent), and takes a window position that cannot be read (R72, R74, R75, R129). -/
def Thread.sendLen (t : Thread) (i : Instr) (h : Head) (wid len : Nat) : Thread :=
  let w := destWidth i
  let regs := span h.d (regWords w)
  let t := if wid = 0 then t
    else { t.younger regs with incoming := (t.younger regs).incoming ++ [⟨wid, h.d, w, regs, none⟩] }
  (if w = 0 then t else t.push 0 w false).next len

/-- The same at issue, past the whole instruction. -/
def Thread.sendOff (t : Thread) (i : Instr) (h : Head) (wid : Nat) : Thread := t.sendLen i h wid (lenOf i)

/-- The serial of the incoming write of an instruction's D, 0 when nothing is to be written. -/
def State.newWid (s : State) (i : Instr) (h : Head) : Nat × State :=
  if destWidth i = 0 || h.d = 0 then (0, s) else s.fresh

/-- The operand log of an instruction that is issuing (R132). -/
def State.logOf (s : State) (i : Instr) (ea b c aux : Nat) : OpLog :=
  ⟨(s.issuing.map Issue.words).getD [], ea, b, c, lenOf i, aux, [], false⟩

/-- The sectors that an access takes miss-status entries for, by 64-byte unit of its address space (R209). -/
def sectorsOf (asid : Nat) (g : GAccess) : List Nat :=
  ((piecesOf g.va g.n).map fun p => asid * 2 ^ 46 + p.1 / 64).eraseDups

/-- An entry that an access may merge with (R209): of the same instruction, whose participants' byte ranges the coalescer
merges, or of a read when the access is one. -/
def MissEntry.takes (e : MissEntry) (core sector : Nat) (isRead : Bool) (cycle : Nat) : Bool :=
  e.core = core && e.sector = sector && (e.cycle = cycle || (isRead && e.isRead))

/-- The sectors for which accesses of one instruction need entries beyond those outstanding (R209). -/
def State.missNeed (s : State) (core : Nat) (l : List (Nat × GAccess)) : List (Nat × Bool) :=
  ((l.flatMap fun p => (sectorsOf p.1 p.2).map fun x => (x, p.2.isRead)).eraseDups).filter fun p =>
    !(p.2 && s.misses.any fun e => e.core = core && e.sector = p.1 && e.isRead)

/-- Take the entries of one access under a key: its register result, or its number where it has none. -/
def State.takeMiss (s : State) (core asid cycle key : Nat) (g : GAccess) : State :=
  (sectorsOf asid g).foldl (fun s x =>
    if s.misses.any fun e => e.takes core x g.isRead cycle then
      { s with misses := s.misses.map fun e =>
          if e.takes core x g.isRead cycle then { e with wids := e.wids ++ [key] } else e }
    else { s with misses := s.misses ++ [⟨core, x, g.isRead, cycle, [key]⟩] }) s

/-- One thread issues its global access: traps, translation, and the access itself, or a walk for it (R199, R206, R210,
R211). An access that crosses a 1 GiB boundary is translated as it issues. -/
def issueGlobal (i : Instr) (g : GAccess) (h : Head) (k : Nat) (t : Thread) (s : State) : State :=
  let asid := s.asidOf k
  let core := coreOf k
  match gTrap g with
  | some d => s.trap k 0x08 d g.va
  | none =>
    let ps := piecesOf g.va g.n
    let log := s.logOf i g.va g.b g.c 0
    let (wid, s) := s.newWid i h
    let (no, s) := s.fresh
    let x := s.accessOf k wid no g
    let sent := (s.setThread k (t.sendOff i h wid)).takeMiss core asid x.cycle (if wid = 0 then no else wid) g
    if s.tlbHas core asid ps || g.va / 2 ^ 30 ≠ (g.va + g.n - 1) / 2 ^ 30 then
      match s.translate core asid g.kind ps with
      | .fault va r l e b z =>
        if s.canReport asid then (sent.freeMiss no).logFault k wid g.kind log va r l e b z 1 else s
      | .all l =>
        if straddles l then s.trap k 0x09 0x01 g.va
        else (sent.fillPieces core asid l).admitPaired k { x with pieces := l }
    else
      { sent.updThread k fun t => { t with walk := some no } with walks := sent.walks ++ [⟨k, x, log, 0⟩] }

/-- A row-0x9 access in every issuing thread (R209, R225): with too few miss-status entries free its participants
replay, otherwise they perform their accesses in ascending lane order. -/
def globalAccess (i : Instr) (acc : Head → Thread → Option GAccess) (s : State) :
    Host.Outcome State Fault Refusal :=
  match i.head with
  | none => .next s
  | some h =>
    let parts := participants i h s
    let need := parts.filterMap fun k =>
      match s.thread? k with
      | some t => (acc h t).map fun g => (s.asidOf k, g)
      | none => none
    let core := coreOf ((parts.head?).getD 0)
    let used := (s.misses.filter fun e => e.core = core).length
    if 256 < used + (s.missNeed core need).length && 0 < used then
      perLane i (fun _ k t s => s.setThread k { t with hold := .replay }) s
    else
      perLane i (fun h k t s =>
        match acc h t with
        | some g => issueGlobal i g h k t s
        | none => s) s

/-! ### Meanings -/

/-- ldg (R217). -/
def execLdg (h : Head) (m : ModM) (s : State) : Host.Outcome State Fault Refusal :=
  globalAccess (.ldg h m) (fun h t => gAccessOf (.ldg h m) (eaOf h m t) 0 0) s

/-- stg: the value is the one B holds at issue (R70, R217). -/
def execStg (h : Head) (m : ModM) (s : State) : Host.Outcome State Fault Refusal :=
  globalAccess (.stg h m) (fun h t => gAccessOf (.stg h m) (eaOf h m t) (t.rdB h.b h.ty.regWidth) 0) s

/-- ldc: of the values it may return, the one the granule holds now (R218, log 26). -/
def execLdc (h : Head) (m : ModM) (s : State) : Host.Outcome State Fault Refusal :=
  globalAccess (.ldc h m) (fun h t => gAccessOf (.ldc h m) (eaOf h m t) 0 0) s

/-- atom (R219). -/
def execAtom (h : Head) (m : ModM) (op : AtomOp) (s : State) : Host.Outcome State Fault Refusal :=
  globalAccess (.atom h m op)
    (fun h t => gAccessOf (.atom h m op) (eaOf h m t) (t.rdB h.b h.ty.regWidth) (t.rd h.c h.ty.regWidth)) s

/-- red (R220, R221). -/
def execRed (h : Head) (m : ModM) (op : RedOp) (s : State) : Host.Outcome State Fault Refusal :=
  globalAccess (.red h m op) (fun h t => gAccessOf (.red h m op) (eaOf h m t) (t.rdB h.b h.ty.regWidth) 0) s

/-- fence in one thread: it moves on, and stands among the thread's accesses while an earlier one is not performed (R223). -/
def fenceBody (i : Instr) (k : Nat) (t : Thread) (s : State) : State :=
  let (no, s) := (s.setThread k (t.next (lenOf i))).fresh
  s.accept (s.accessOf k 0 no ⟨.fence, 0, 0, 0, 0, false, false, 0⟩)

/-- fence (R223). -/
def execFence (h : Head) (s : State) : Host.Outcome State Fault Refusal :=
  perLane (.fence h) (fun _ => fenceBody (.fence h)) s

/-- pref: no visible effect, never a trap or fault (R224). -/
def execPref (h : Head) (m : ModM) (hbm : Bool) (s : State) : Host.Outcome State Fault Refusal :=
  perLane (.pref h m hbm) (fun _ k t s => s.setThread k (t.next (lenOf (.pref h m hbm)))) s

end Sys2Proof.Machine
end

