-- ==== Sys2Proof/Machine/Request.lean ====
section
/-! DEFINITION. The fields of a copy request (R239), and what a request or an array operation writes of its block's window (R165). -/

namespace Sys2Proof.Machine

/-- EXT0, EXT1, EXT2. -/
def reqExt (r i : Nat) : Nat := field r (320 + 16 * i) 16
/-- SORG0, SORG1. -/
def reqOrg (r i : Nat) : Int := toInt (field r (368 + 16 * i) 16) 16
/-- SLIM0, SLIM1. -/
def reqLim (r i : Nat) : Nat := field r (400 + 16 * i) 16
/-- SSTR1, SSTR2. -/
def reqSstr (r i : Nat) : Int := toInt (field r (192 + 32 * (i - 1)) 32) 32
/-- DSTR1, DSTR2. -/
def reqDstr (r i : Nat) : Int := toInt (field r (256 + 32 * (i - 1)) 32) 32
/-- SRC. -/
def reqSrc (r : Nat) : Nat := field r 0 64
/-- DST. -/
def reqDst (r : Nat) : Nat := field r 64 64
/-- CPL. -/
def reqCpl (r : Nat) : Nat := field r 128 64
/-- Destination element size in bytes. -/
def reqEsz (r : Nat) : Nat := 2 ^ field r 432 3
/-- XFORM. -/
def reqXform (r : Nat) : Nat := field r 435 3
/-- OOR. -/
def reqOor (r : Nat) : Nat := field r 438 2
/-- SFMT. -/
def reqSfmt (r : Nat) : Ty := (Ty.ofCode (field r 440 5)).getD .dflt
/-- DFMT. -/
def reqDfmt (r : Nat) : Ty := (Ty.ofCode (field r 448 5)).getD .dflt
/-- RND. -/
def reqRnd (r : Nat) : Rnd :=
  match field r 453 2 with
  | 0 => .rne
  | 1 => .rtz
  | 2 => .rdn
  | _ => .rup
/-- PUBR. -/
def reqPubr (r : Nat) : Bool := bit r 455
/-- PSET. -/
def reqPset (r : Nat) : Nat := field r 456 6
/-- TID. -/
def reqTid (r : Nat) : Nat := field r 462 6
/-- SL. -/
def reqSl (r : Nat) : Bool := bit r 468
/-- DL. -/
def reqDl (r : Nat) : Bool := bit r 469
/-- CPLEN. -/
def reqCplen (r : Nat) : Bool := bit r 470
/-- TYPE of a packet (R247). -/
def packetType (r : Nat) : Nat := field r 472 8

/-- Source element size in bytes (R241). -/
def reqSsz (r : Nat) : Nat := if reqXform r = 3 then tyBytes (reqSfmt r) else reqEsz r

/-- The extents of the destination element space (R241). -/
def reqSpace (r : Nat) : Nat × Nat × Nat :=
  if reqXform r = 2 then ((reqExt r 0 * reqEsz r + 191) / 192 * 192 / reqEsz r, 128, 1)
  else (reqExt r 0, reqExt r 1, reqExt r 2)

/-- Elements of the destination element space. -/
def reqCount (r : Nat) : Nat := (reqSpace r).1 * (reqSpace r).2.1 * (reqSpace r).2.2

/-- The size of a request (R242). -/
def reqSize (r : Nat) : Nat := reqEsz r * reqCount r

/-- Least and greatest of a stride times a coordinate of a range. -/
def spread (stride lo hi : Int) : Int × Int := (min (stride * lo) (stride * hi), max (stride * lo) (stride * hi))

/-- The request writes bytes of a range of its block's larder window (R165): by the least and the greatest address that it
writes, those of a window that it runs round counting as all. -/
def reqWrites (r base size : Nat) : Bool :=
  let b := spread (reqDstr r 1) 0 (reqExt r 1 - 1)
  let c := spread (reqDstr r 2) 0 (reqExt r 2 - 1)
  let lo : Int := if reqXform r = 2 then reqDst r else reqDst r + b.1 + c.1
  let hi : Int := if reqXform r = 2 then reqDst r + reqSize r - 1 else reqDst r + b.2 + c.2 + reqEsz r * reqExt r 0 - 1
  reqDl r && (lo < 0 || 2 ^ 21 ≤ hi || (lo < base + size && (base : Int) ≤ hi))

/-- NROWS or NCOLS, 0 standing for 128. -/
def rowsOf (n : Nat) : Nat := if n = 0 then 128 else n

/-- The bytes of its block's window that an array operation writes, as first byte and length (R285, R286). -/
def MatOp.writes (o : MatOp) : Nat × Nat :=
  if o.op = 0xB4 then
    (field o.blk 128 32, (rowsOf (field o.blk 8 8) - 1) * field o.blk 96 32 + 4 * rowsOf (field o.blk 16 8))
  else if o.op = 0xB5 && o.x = 1 then (o.addr, 1024 * rowsOf (field o.blk 16 8))
  else (0, 0)

end Sys2Proof.Machine
end

