-- ==== Sys2Proof/Machine/Larder.lean ====
section
/-! DEFINITION. Row 0x7: the larder (R149 to R177): windows, retention, full and empty lines, stash mapping, the
instructions of the row, and the larder's own steps. -/

namespace Sys2Proof.Machine

/-! ### Windows, allocations, lines -/

/-- Bytes of an allocation. -/
def Alloc.size (a : Alloc) : Nat := 4096 * a.phys.length

/-- The allocation holds a window address. -/
def Alloc.holds (a : Alloc) (ea : Nat) : Bool := a.base ≤ ea && ea < a.base + a.size

/-- The allocation of a block that holds a window address (R150). -/
def Block.allocAt (b : Block) (ea : Nat) : Option Alloc := b.allocs.find? fun a => a.holds ea

/-- The allocation of a block whose first byte is at a window address. -/
def Block.allocFrom (b : Block) (ea : Nat) : Option Alloc := b.allocs.find? fun a => a.base = ea

/-- The number of the line that holds a window address of an allocation (R150). -/
def Alloc.lineAt (a : Alloc) (core ea : Nat) : Nat :=
  lineNo core (((a.phys[(ea - a.base) / 4096]?).getD 0) * 32 + ea % 4096 / 128)

/-- Line numbers of an allocation with the window address of each. -/
def Alloc.lines (a : Alloc) (core : Nat) : List (Nat × Nat) :=
  a.linesOf.map fun p => (a.base + 128 * p.1, lineNo core p.2)

/-- The same for the lines of a range that starts on a line. -/
def Alloc.range (a : Alloc) (core ea n : Nat) : List (Nat × Nat) :=
  (a.lines core).filter fun p => ea ≤ p.1 && p.1 < ea + n

/-- The event of the line that holds a window address (R136). -/
def lineEvent (ea : Nat) : Nat := eventKey 0x3 (ea / 128)

/-- The global address that a window address of a stash-mapped allocation stands for (R160). -/
def Alloc.global (a : Alloc) (ea : Nat) : Nat := (a.stash.getD 0) + (ea - a.base)

/-- A use-by tag is live now (R154). -/
def liveTag (now tag : Nat) : Bool :=
  tag = 0 || (let d := (tag + 2 ^ 40 - now % 2 ^ 40) % 2 ^ 40; 1 ≤ d && d < 2 ^ 39)

/-- The later of a live tag and another (R154, R170). -/
def laterTag (now old new : Nat) : Nat :=
  let d (t : Nat) : Nat := (t + 2 ^ 40 - now % 2 ^ 40) % 2 ^ 40
  if old = 0 || new = 0 then 0 else if d new < 2 ^ 39 && d old < d new then new else old

namespace State

/-- GUAR of a core (R152). -/
def guar (s : State) (core : Nat) : Nat := (s.core core).lret.toNat % 2 ^ 16

/-- The age of a line (R153). -/
def ageOf (s : State) (l : Line) : Nat := (s.now + 2 ^ 16 - l.stamp % 2 ^ 16) % 2 ^ 16

/-- A line of an allocation is stale (R153). -/
def isStale (s : State) (core no : Nat) (a : Alloc) : Bool :=
  let l := s.line no
  a.stash.isNone && (l.stale || s.guar core ≤ s.ageOf l)

/-- Physical units of a core that are free (R151, R168, R383). -/
def freePhys (s : State) (core : Nat) : List Nat :=
  let used := (s.blocks.flatMap fun p => if p.2.core = core then p.2.allocs.flatMap Alloc.phys else []) ++
    (s.freed.flatMap fun f => if f.core = core then f.phys else []) ++ (s.defects 3 core).map (· % 512)
  (span 0 512).filter fun u => !(used.contains u)

/-- The words of a larder that have been written whole can be read again (R372). -/
def cleanWords (s : State) (a n : Nat) : State :=
  if s.poison.isEmpty then s
  else { s with poison := (span ((a + 7) / 8) ((a + n) / 8 - (a + 7) / 8)).foldl (fun m w => m.del (2 ^ 46 + w)) s.poison }

/-- Put bytes into the one store of all larders. -/
def putLarder (s : State) (a : Nat) (bs : List Byte) : State :=
  { s.cleanWords a bs.length with larder := putBytes s.larder a bs }

/-- The bytes of a line become zero. -/
def zeroLine (s : State) (no : Nat) : State :=
  { s.cleanWords (no * 128) 128 with larder := s.larder.filter fun c => c.1 / 128 ≠ no }

/-- Physical units taken by an allocation start with zero, their lines full or empty and fresh (R151, R168). -/
def initUnits (s : State) (core : Nat) (phys : List Nat) (full : Bool) : State :=
  let nos := phys.flatMap fun u => (span (32 * u) 32).map fun p => lineNo core p
  let s := { s with larder := s.larder.filter fun c => !(nos.contains (c.1 / 128)) }
  let s := nos.foldl (fun s n => s.cleanWords (n * 128) 128) s
  nos.foldl (fun s n => s.setLine n { Line.reset with stamp := s.now % 2 ^ 16, full := full }) s

/-- Write bytes into a line, by a thread or by an engine: every byte of a stale line that the write does not cover becomes
zero first, the stamp restarts, and the line is stale no longer (R153, R173). -/
def larWrite (s : State) (core : Nat) (a : Alloc) (ea : Nat) (bs : List Byte) : State :=
  let no := a.lineAt core ea
  let s := if s.isStale core no a then s.zeroLine no else s
  (s.putLarder (no * 128 + ea % 128) bs).setLine no
    { s.line no with stamp := s.now % 2 ^ 16, stale := false }

/-- Bytes at a window address that lie in one line. -/
def larBytes (s : State) (core : Nat) (a : Alloc) (ea n : Nat) : List Byte :=
  bytesAt s.larder (a.lineAt core ea * 128 + ea % 128) n

/-- A line becomes full, and the records that are parked on it become ready (R158). -/
def fillLine (s : State) (bid no ea : Nat) : State :=
  (s.setLine no { s.line no with full := true }).wake fun key b => b = bid && key = lineEvent ea

/-- Event keys of the lines and barrier objects of a range of a window. -/
def inRange (base size key : Nat) : Bool :=
  (key / 2 ^ 60 = 0x3 && base ≤ key % 2 ^ 14 * 128 && key % 2 ^ 14 * 128 < base + size) ||
  ((key / 2 ^ 60 = 0x1 || key / 2 ^ 60 = 0x5) && base ≤ field key 32 21 && field key 32 21 < base + size)

/-- The records parked on a larder line or on a barrier object of a range of a block's window become ready, and their
logs say that the allocation has ended (R165). -/
def wakeRange (s : State) (bid base size : Nat) : State :=
  let mark (l : OpLog) : OpLog := { l with ended := true }
  let s : State := { s with
    records := s.records.map fun p =>
      if p.2.bid = bid && !p.2.satisfied && inRange base size p.2.event then (p.1, { p.2 with log := p.2.log.map mark })
      else p
    threads := s.threads.map fun p =>
      match p.2.hold with
      | .event key log =>
        if p.2.bid = bid && inRange base size key then (p.1, { p.2 with hold := .event key (mark log) }) else p
      | _ => p }
  s.wake fun key b => b = bid && inRange base size key

/-! ### Stash lines -/

/-- Write back the dirty lines of some of a block's lines, as far as nothing delays it (R162). -/
def flushLines (s : State) (bid : Nat) (b : Block) (a : Alloc) (ls : List (Nat × Nat)) : State :=
  s.flushSome (s.dirtyAmong (ls.map fun p => (p.2, bid, b.asid, a.global p.1)))

/-- The use-by time of an allocation is reached (R160, R162): a stash allocation's dirty lines are written back, then none
is present. A line whose write-back is delayed stays until that is done. -/
def expireAlloc (s : State) (bid : Nat) (b : Block) (a : Alloc) : State :=
  let done (s : State) : State :=
    s.updBlock bid fun b => { b with allocs := b.allocs.map fun x => if x.base = a.base then { x with expired := true } else x }
  if a.stash.isNone then done s
  else
    let ls := a.lines b.core
    let s := s.flushLines bid b a ls
    let s := ls.foldl (fun s p => if (s.line p.2).dirty then s else s.dropLine p.2) s
    if ls.any fun p => (s.line p.2).dirty then s else done s

/-- A store by a core to a stash line: what another core holds of the same bytes is written back and dropped, and partial
sums are merged (R161, R326). `none` while one of these has to wait. -/
def claimStash (s : State) (b : Block) (va no : Nat) : Option State :=
  match s.hubLeaf b.asid va with
  | none => some s
  | some l => s.tryRecallWrite (s.spaceOf l) (l.pa va (s.leafHalf b.asid l)) (some no)

/-- Engine requests of a block that are writing into a range of its window (R165). -/
def inFlight (s : State) (bid base size : Nat) : List Nat :=
  ((s.copies.filter fun c => c.bid = bid && reqWrites c.req base size).map CopyReq.serial) ++
  (s.queuesMat.flatMap fun p => (p.2.filter fun m =>
    m.bid = bid && !m.finished && m.writes.1 < base + size && base < m.writes.1 + m.writes.2).map MatOp.serial)

/-- An engine request's write at a window address is discarded, because the allocation it wrote into has ended (R165). -/
def discarded (s : State) (serial bid ea : Nat) : Bool :=
  s.freed.any fun f => f.bid = bid && f.waits.contains serial && f.base ≤ ea && ea < f.base + 4096 * f.phys.length

/-- The bound lines of units that an ended allocation has left. -/
def freedLines (f : FreedUnits) : List (Nat × Nat × Nat × Nat) :=
  match f.stash with
  | none => []
  | some g => (unitLines f.phys).map fun q => (lineNo f.core q.2, f.bid, f.asid, g + 128 * q.1)

/-- Units are free: no engine request is writing into them, and their write-backs are complete (R162, R165, R169). -/
def unitsFree (s : State) (f : FreedUnits) : Bool :=
  !(f.waits.any fun n => (s.copies.any fun c => c.serial = n) || s.queuesMat.any fun p => p.2.any fun m => m.serial = n) &&
  (freedLines f).all fun p => !(s.line p.1).dirty && !(s.peers.any fun q => q.use = .writeBack p.1)

/-- An allocation ends (R165, R169): dirty stash lines are written back, its records are woken, and its units are free, or
wait for what is in flight. -/
def endAlloc (s : State) (bid : Nat) (a : Alloc) : State :=
  match s.blocks.look bid with
  | none => s
  | some b =>
    let s := s.flushLines bid b a (a.lines b.core)
    let (n, s) := s.fresh
    let f : FreedUnits := ⟨n, b.core, b.asid, a.phys, bid, b.launch, a.base, a.stash, s.inFlight bid a.base a.size⟩
    let s := s.updBlock bid fun b => { b with allocs := b.allocs.filter fun x => x.base ≠ a.base }
    let t := s.wakeRange bid a.base a.size
    if t.unitsFree f then t else { t with freed := t.freed ++ [f] }

end State

/-! ### ldl and stl -/

/-- One thread's larder access. -/
structure LAccess where
  load : Bool
  ea : Nat
  n : Nat
  v : Nat
  take : Bool
  any : Bool
  fill : Bool
  release : Bool
  deriving DecidableEq, Repr

/-- The larder address of an access (R166). -/
def larEa (h : Head) (ofs : Int) (t : Thread) : Nat := wrap (t.rd h.a 32 + ofs) 32

/-- The access of ldl or stl at an address, with the value of B. -/
def lAccessOf (i : Instr) (ea v : Nat) : Option LAccess :=
  match i with
  | .ldl h m mode => some ⟨true, ea, tyBytes h.ty, 0, mode = .take, mode = .any, false, m.ord = .release⟩
  | .stl h m mode => some ⟨false, ea, tyBytes h.ty, v, false, mode ≠ .plain, mode = .fill, m.ord = .release⟩
  | _ => none

/-- The detail of the larder-address trap of an access of n bytes (R157). -/
def Block.addrTrap (b : Block) (ea n : Nat) : Option Nat :=
  if (b.allocAt ea).isNone || (b.allocAt (ea + n - 1)).isNone then some 0x01
  else if ea % n ≠ 0 then some 0x02
  else none

/-- Where an access stands: it issues; it completes after a park, by its log (MODE 1); it is replayed, by its log
(MODE 2). -/
inductive Stage
  | issue
  | complete (log : OpLog)
  | replay (log : OpLog)
  deriving DecidableEq, Repr

/-- The allocation that a waiting instruction's object or line lay in has ended meanwhile (R165). -/
def Stage.ended : Stage → Bool
  | .issue => false
  | .complete l => l.ended
  | .replay l => l.ended

/-- The operand log of an access at a stage. -/
def Stage.log (st : Stage) (s : State) (i : Instr) (ea v : Nat) : OpLog :=
  match st with
  | .issue => s.logOf i ea v 0 0
  | .complete l => l
  | .replay l => l

/-- The thread moves past the instruction, with its result on its way; the serial of the incoming write (R78, R129). -/
def State.advance (s : State) (k : Nat) (st : Stage) (i : Instr) (h : Head) : Nat × State :=
  match st with
  | .issue =>
    let (wid, s) := s.newWid i h
    (wid, s.updThread k fun t => t.sendOff i h wid)
  | .complete l =>
    let (wid, s) := s.newWid i h
    (wid, s.updThread k fun t => ({ t with hold := .none }).sendLen i h wid l.len)
  | .replay l =>
    let (wid, s) := if l.live.isEmpty then (0, s) else s.fresh
    (wid, s.updThread k fun t =>
      { t with hold := .none
               incoming := if wid = 0 then t.incoming
                 else t.incoming ++ [⟨wid, h.d, destWidth i, l.live, none⟩] })

/-- Raise a trap at a stage: a completion's trap is at the instruction in its log, a replay's is that of a logged access
(R357). -/
def State.stageTrap (s : State) (k : Nat) (st : Stage) (cause detail info : Nat) : State :=
  match st with
  | .issue => s.trap k cause detail info
  | .complete l => (s.updThread k fun t => { t with hold := .none }).trapWith k cause detail info l.words none
  | .replay l => (s.updThread k fun t => { t with hold := .none }).trapWith k cause detail info l.words (some l)

/-- Wait for a line at a stage: a replay that waits is replayed again (R78, R127). -/
def State.stageWait (s : State) (k : Nat) (st : Stage) (event : Nat) (log : OpLog) : State :=
  match st with
  | .replay l =>
    match s.thread? k with
    | none => s
    | some t =>
      if t.priv then s.setThread k { t with hold := .event event { l with len := 0 } }
      else
        (s.setThread k { t with hold := .none }).parkThread k
          { mode := 2, event := event, keep := s.regCount k - 1, resume := t.pc.toNat, log := some l, wid := 0
            satisfied := false, cycle := (s.issuing.map Issue.cycle).getD 0 }
  | _ => s.parkOn k event 0 log

/-- The scope of the page behind a stash line; 0 for none. -/
def State.stashScope (s : State) (b : Block) (va : Nat) : Nat := ((s.hubLeaf b.asid va).map Leaf.scope).getD 0

/-- The bytes of an access are read, or written and their line's bits set (R172, R173). A store to a present stash line is
performed whatever WR of its page says, since the fetch read the page and the write-back is the device's (log 51). -/
def State.larPerform (s : State) (k wid : Nat) (b : Block) (a : Alloc) (x : LAccess) : State :=
  let bid := ((s.thread? k).map Thread.bid).getD 0
  let no := a.lineAt b.core x.ea
  if x.load then
    let v := ofBytes (s.larBytes b.core a x.ea x.n)
    let s := if x.take then s.setLine no { s.line no with full := false } else s
    s.setIncoming wid v
  else
    let s := s.larWrite b.core a x.ea (toBytes x.n x.v)
    let s := if a.stash.isSome then s.setLine no { s.line no with dirty := true } else s
    let s := if a.stash.isSome && !(liveTag s.now a.tag) then
        s.flushLines bid b a [(x.ea / 128 * 128, no)]
      else s
    if x.fill then s.fillLine bid no x.ea else s

/-- The thread tries the instruction again at the same stage. -/
def State.retryStage (s : State) (k : Nat) (st : Stage) : State :=
  s.updThread k fun t =>
    { t with hold := match st with
        | .issue => .replay
        | .complete l => .resume 1 l
        | .replay l => .resume 2 l }

/-- What a store to a stash line does first: a release wider than CORE writes back the block's dirty lines (R162), and what
others hold of the line is recalled (R161). With it, whether the store can go on. -/
def State.beforeStash (s : State) (bid : Nat) (b : Block) (a : Alloc) (x : LAccess) : State × Bool :=
  if x.load || a.stash.isNone then (s, true)
  else
    let wide := x.release && 0 < s.stashScope b (a.global x.ea)
    let s := if wide then s.releaseStash bid else s
    if wide && s.stashHeld bid then (s, false)
    else
      match s.claimStash b (a.global x.ea) (a.lineAt b.core x.ea) with
      | some s => (s, true)
      | none => (s, false)

/-- ldl or stl in one thread at a stage (R157, R160, R172, R173). A completion tests the bit again only for ldl.take, which
another sibling may have emptied, and for a stash line that has left the core meanwhile (log 28). A load of a word that no code
corrects takes the translation-fault path with reason 0x08, no leaf and the window address of its line (R372, log 58). -/
def State.larAccess (s : State) (k : Nat) (st : Stage) (i : Instr) (h : Head) (x : LAccess) : State :=
  match s.blockOf k with
  | none => s
  | some b =>
    match (if st.ended then some 0x01 else b.addrTrap x.ea x.n), b.allocAt x.ea with
    | some d, _ => s.stageTrap k st 0x05 d x.ea
    | none, none => s
    | none, some a =>
      let no := a.lineAt b.core x.ea
      let l := s.line no
      let log := st.log s i x.ea x.v
      let waits : Bool := match st with
        | .complete _ => x.take && !l.full
        | _ => !x.any && !l.full
      if a.stash.isSome && !l.present then
        if l.fetching then s.stageWait k st (lineEvent x.ea) log
        else
          let va := a.global x.ea / 128 * 128
          match s.coreWalk b.core b.asid va .stash with
          | .leaf leaf =>
            let s := (s.fillPieces b.core b.asid [⟨va, 0, 128, leaf, leaf.pa va (s.leafHalf b.asid leaf)⟩]).setLine no { l with fetching := true }
            s.stageWait k st (lineEvent x.ea) log
          | .fault r lv e base size =>
            if s.canReport b.asid then
              let (wid, s) := s.advance k st i h
              s.logFault k wid .stash log va r lv e base size 1
            else s
      else if waits then s.stageWait k st (lineEvent x.ea) log
      else if x.load && s.isStale b.core no a then s.stageTrap k st 0x06 0x01 x.ea
      else if x.load && s.larBad (no * 128 + x.ea % 128) x.n then
        if s.canReport b.asid then
          let (wid, s) := (s.logWords (larWords (no * 128 + x.ea % 128) x.n)).advance k st i h
          s.logFault k wid .load log x.ea 0x08 0 0 (x.ea / 128 * 128) 128 1
        else s
      else
        match s.beforeStash (((s.thread? k).map Thread.bid).getD 0) b a x with
        | (s, false) => s.retryStage k st
        | (s, true) =>
          let (wid, s) := s.advance k st i h
          s.larPerform k wid b a x

/-- Replay a logged access, of global memory or of a stash line (R78). -/
def State.replay (s : State) (k : Nat) (i : Instr) (log : OpLog) : State :=
  match lAccessOf i log.ea log.b, i.head with
  | some x, some h => s.larAccess k (.replay log) i h x
  | _, _ => s.replayAccess k i log

/-- ldl (R172). -/
def execLdl (h : Head) (m : ModM) (mode : LdlMode) (s : State) : Host.Outcome State Fault Refusal :=
  let i := Instr.ldl h m mode
  perLanePark i (fun h k t s =>
    match lAccessOf i (larEa h m.ofs t) 0 with
    | some x => s.larAccess k .issue i h x
    | none => s) s

/-- stl (R173). -/
def execStl (h : Head) (m : ModM) (mode : StlMode) (s : State) : Host.Outcome State Fault Refusal :=
  let i := Instr.stl h m mode
  perLanePark i (fun h k t s =>
    match lAccessOf i (larEa h m.ofs t) (t.rdB h.b h.ty.regWidth) with
    | some x => s.larAccess k .issue i h x
    | none => s) s

/-! ### The other instructions -/

/-- An instruction of rows 0x7 to 0xB gives its result: the data of its incoming write has returned (R129, R166). -/
def State.answer (s : State) (k : Nat) (t : Thread) (i : Instr) (h : Head) (v : Nat) : State :=
  let (wid, s) := s.newWid i h
  (s.setThread k (t.sendOff i h wid)).setIncoming wid v

/-- The lowest run of u unmapped window units of a block (R168). -/
def Block.freeWindow (b : Block) (u : Nat) : Option Nat :=
  lowestFree (513 - u) 0 fun w => !(b.allocs.any fun a => a.base < 4096 * (w + u) && 4096 * w < a.base + a.size)

/-- Give a block an allocation at window unit w (R151, R168). -/
def State.giveAlloc (s : State) (bid w u tag : Nat) (full : Bool) : State :=
  match s.blocks.look bid with
  | none => s
  | some b =>
    let phys := (s.freePhys b.core).take u
    (s.initUnits b.core phys full).updBlock bid fun b => { b with allocs := b.allocs ++ [⟨4096 * w, tag, !(liveTag s.now tag), none, phys⟩] }

/-- lalloc in one thread (R168). -/
def lallocBody (i : Instr) (empty : Bool) (h : Head) (k : Nat) (t : Thread) (s : State) : State :=
  let tag := t.rd h.a 64 % 2 ^ 40
  let u := t.rdB h.b 32
  match s.blockOf k with
  | none => s
  | some b =>
    if u < 1 || 512 < u || (s.freePhys b.core).length < u then s.answer k t i h 0xFFFFFFFF
    else
      match b.freeWindow u with
      | none => s.answer k t i h 0xFFFFFFFF
      | some w => (s.giveAlloc t.bid w u tag (!empty)).answer k t i h (4096 * w)

/-- lalloc (R168). -/
def execLalloc (h : Head) (m : ModM) (empty : Bool) (s : State) : Host.Outcome State Fault Refusal :=
  perLane (.lalloc h m empty) (lallocBody (.lalloc h m empty) empty) s

/-- The allocation whose first byte an instruction names, or the trap's detail (R157). -/
def Block.named (b : Block) (ea : Nat) : Nat ⊕ Alloc :=
  match b.allocAt ea with
  | none => .inl 0x01
  | some a => if a.base = ea then .inr a else .inl 0x04

/-- An instruction on a named allocation of its thread's block. -/
def onAlloc (f : Head → Nat → Thread → Block → Alloc → State → State) (h : Head) (k : Nat) (t : Thread) (s : State) :
    State :=
  match s.blockOf k with
  | none => s
  | some b =>
    match b.named (t.rd h.a 32) with
    | .inl d => s.trap k 0x05 d (t.rd h.a 32)
    | .inr a => f h k t b a s

/-- lfree (R165, R169). -/
def execLfree (h : Head) (m : ModM) (s : State) : Host.Outcome State Fault Refusal :=
  let i := Instr.lfree h m
  perLane i (onAlloc fun h k t _ a s => (s.endAlloc t.bid a).updThread k fun t => t.sendOff i h 0) s

/-- Change an allocation of a block. -/
def State.updAlloc (s : State) (bid base : Nat) (f : Alloc → Alloc) : State :=
  s.updBlock bid fun b => { b with allocs := b.allocs.map fun a => if a.base = base then f a else a }

/-- luseby on a named allocation (R170). -/
def lusebyBody (i : Instr) (ext : Bool) (h : Head) (k : Nat) (t : Thread) (b : Block) (a : Alloc) (s : State) : State :=
  if !(liveTag s.now a.tag) then s.answer k t i h 0
  else
    let n := t.rdB h.b 64 % 2 ^ 40
    let n := if ext then laterTag s.now a.tag n else n
    let s := s.updAlloc t.bid a.base fun a => { a with tag := n }
    let s := if liveTag s.now n then s else s.expireAlloc t.bid b a
    s.answer k t i h 1

/-- luseby (R170). -/
def execLuseby (h : Head) (m : ModM) (ext : Bool) (s : State) : Host.Outcome State Fault Refusal :=
  perLane (.luseby h m ext) (onAlloc (lusebyBody (.luseby h m ext) ext)) s

/-- The allocation a range operand lies in, or the trap's detail; no allocation for a range of no bytes (R157, R167). -/
def Block.rangeOf (b : Block) (ea n : Nat) : Nat ⊕ Option Alloc :=
  if n = 0 then if ea % 128 ≠ 0 then .inl 0x02 else .inr none
  else
    match b.allocAt ea with
    | none => .inl 0x01
    | some a =>
      if a.base + a.size < ea + n then .inl 0x01
      else if ea % 128 ≠ 0 || n % 128 ≠ 0 then .inl 0x02
      else .inr (some a)

/-- An instruction on a range of lines of one allocation; `none` stands for an empty range. -/
def onRange (ofs : Int) (f : Head → Nat → Thread → Block → Option (Alloc × List (Nat × Nat)) → State → State) (h : Head)
    (k : Nat) (t : Thread) (s : State) : State :=
  let ea := larEa h ofs t
  match s.blockOf k with
  | none => s
  | some b =>
    match b.rangeOf ea (t.rdB h.b 32) with
    | .inl d => s.trap k 0x05 d ea
    | .inr none => f h k t b none s
    | .inr (some a) => f h k t b (some (a, a.range b.core ea (t.rdB h.b 32))) s

/-- lrenew over lines: the stamps of those that are neither stale nor of a stash restart; how many were stale (R171). -/
def State.renewLines (s : State) (core : Nat) (a : Alloc) (ls : List (Nat × Nat)) : Nat × State :=
  let old := ls.filter fun p => s.isStale core p.2 a
  (old.length,
   if a.stash.isSome then s
   else (ls.filter fun p => !(s.isStale core p.2 a)).foldl
     (fun s p => s.setLine p.2 { s.line p.2 with stamp := s.now % 2 ^ 16 }) s)

/-- lrenew in one thread: D is written when the renewals are done (R166, R171). -/
def lrenewBody (i : Instr) (h : Head) (k : Nat) (t : Thread) (b : Block) (r : Option (Alloc × List (Nat × Nat)))
    (s : State) : State :=
  let (wid, s) := s.newWid i h
  let s := s.setThread k (t.sendOff i h wid)
  let (n, s) := match r with
    | some (a, ls) => s.renewLines b.core a ls
    | none => (0, s)
  let (q, s) := s.fresh
  { s with lrenews := s.lrenews ++ [⟨q, t.bid, wid, n, b.asid, [], []⟩] }

/-- lrenew (R171). -/
def execLrenew (h : Head) (m : ModM) (s : State) : Host.Outcome State Fault Refusal :=
  perLane (.lrenew h m) (onRange m.ofs (lrenewBody (.lrenew h m))) s

/-- setempty and setfull in one thread (R174). -/
def setBody (i : Instr) (full : Bool) (h : Head) (k : Nat) (t : Thread) (_ : Block)
    (r : Option (Alloc × List (Nat × Nat))) (s : State) : State :=
  match r with
  | none => s.setThread k (t.sendOff i h 0)
  | some (a, ls) =>
    if a.stash.isSome then s.trap k 0x05 0x03 (((ls.head?).map Prod.fst).getD 0)
    else
      let s := s.setThread k (t.sendOff i h 0)
      ls.foldl (fun s p =>
        if full then s.fillLine t.bid p.2 p.1 else s.setLine p.2 { s.line p.2 with full := false }) s

/-- setempty (R174). -/
def execSetempty (h : Head) (m : ModM) (s : State) : Host.Outcome State Fault Refusal :=
  perLane (.setempty h m) (onRange m.ofs (setBody (.setempty h m) false)) s

/-- setfull (R174). -/
def execSetfull (h : Head) (m : ModM) (s : State) : Host.Outcome State Fault Refusal :=
  perLane (.setfull h m) (onRange m.ofs (setBody (.setfull h m) true)) s

/-- The line word (R175). -/
def State.lineWord (s : State) (core no : Nat) (a : Alloc) : Nat :=
  let l := s.line no
  let stash := a.stash.isSome
  let stale := s.isStale core no a
  let age := if stale then 0xFFFF else if stash && !l.present then 0 else s.ageOf l
  age * 2 ^ 16 + 16 * b2n l.dirty + 8 * b2n (!stash || l.present) + 4 * b2n stash + 2 * b2n stale + b2n l.full

/-- lstate on an address (R175). -/
def lstateBody (i : Instr) (m : ModM) (f : State → Block → Alloc → Nat → Nat) (h : Head) (k : Nat) (t : Thread)
    (s : State) : State :=
  let ea := larEa h m.ofs t
  match s.blockOf k with
  | none => s
  | some b =>
    match b.allocAt ea with
    | none => s.trap k 0x05 0x01 ea
    | some a => s.answer k t i h (f s b a ea)

/-- lstate.line (R175). -/
def execLstateLine (h : Head) (m : ModM) (s : State) : Host.Outcome State Fault Refusal :=
  perLane (.lstateLine h m)
    (lstateBody (.lstateLine h m) m fun s b a ea => s.lineWord b.core (a.lineAt b.core ea) a) s

/-- lstate.alloc (R175). -/
def execLstateAlloc (h : Head) (m : ModM) (s : State) : Host.Outcome State Fault Refusal :=
  perLane (.lstateAlloc h m)
    (lstateBody (.lstateAlloc h m) m fun _ _ a _ =>
      a.tag + a.phys.length * 2 ^ 40 + b2n a.stash.isSome * 2 ^ 50) s

/-- lstate.ret (R152, R175). -/
def execLstateRet (h : Head) (m : ModM) (s : State) : Host.Outcome State Fault Refusal :=
  perLane (.lstateRet h m) (fun h k t s => s.answer k t (.lstateRet h m) h (s.core (coreOf k)).lret.toNat) s

/-- lstate.free (R175). -/
def execLstateFree (h : Head) (m : ModM) (s : State) : Host.Outcome State Fault Refusal :=
  perLane (.lstateFree h m) (fun h k t s => s.answer k t (.lstateFree h m) h (s.freePhys (coreOf k)).length) s

/-- Some record or held thread of a block waits for a line. -/
def State.awaited (s : State) (bid ea : Nat) : Bool :=
  (s.records.any fun p => p.2.bid = bid && p.2.event = lineEvent ea && !p.2.satisfied) ||
  s.threads.any fun p =>
    match p.2.hold with
    | .event key _ => p.2.bid = bid && key = lineEvent ea
    | _ => false

/-- smap on a named allocation (R157, R176). -/
def smapBody (i : Instr) (h : Head) (k : Nat) (t : Thread) (b : Block) (a : Alloc) (s : State) : State :=
  let g := t.rdB h.b 64
  if a.stash.isSome then s.trap k 0x05 0x03 a.base
  else if g % 128 ≠ 0 || 2 ^ 52 ≤ g || g / 2 ^ 30 ≠ (g + a.size - 1) / 2 ^ 30 then s.trap k 0x05 0x05 a.base
  else
    let s := (s.setThread k (t.sendOff i h 0)).updAlloc t.bid a.base fun a => { a with stash := some g }
    (a.lines b.core).foldl (fun s p =>
      s.setLine p.2 { s.line p.2 with
        present := false, full := false, dirty := false, stale := false, fetching := s.awaited t.bid p.1 }) s

/-- smap (R176). -/
def execSmap (h : Head) (m : ModM) (s : State) : Host.Outcome State Fault Refusal :=
  perLane (.smap h m) (onAlloc (smapBody (.smap h m))) s

/-- sunmap on a named allocation (R157, R176): it takes effect once its lines are written back (R162). -/
def sunmapBody (i : Instr) (h : Head) (k : Nat) (t : Thread) (b : Block) (a : Alloc) (s : State) : State :=
  if a.stash.isNone then s.trap k 0x05 0x03 a.base
  else
    let s := s.flushLines t.bid b a (a.lines b.core)
    if (a.lines b.core).any fun p => (s.line p.2).dirty then s.setThread k { t with hold := .replay }
    else
      let s := s.setThread k (t.sendOff i h 0)
      let s := s.updAlloc t.bid a.base fun a => { a with stash := none }
      (a.lines b.core).foldl (fun s p =>
        let l := s.line p.2
        if l.present then s.setLine p.2 { l with present := false, fetching := false }
        else
          ((s.zeroLine p.2).setLine p.2 { Line.reset with stamp := s.now % 2 ^ 16 }).fillLine t.bid p.2 p.1) s

/-- sunmap (R176). -/
def execSunmap (h : Head) (m : ModM) (s : State) : Host.Outcome State Fault Refusal :=
  perLane (.sunmap h m) (onAlloc (sunmapBody (.sunmap h m))) s

/-- sflush in one thread: D is written when the write-backs are done (R166, R177). -/
def sflushBody (i : Instr) (inv : Bool) (h : Head) (k : Nat) (t : Thread) (b : Block)
    (r : Option (Alloc × List (Nat × Nat))) (s : State) : State :=
  let (wid, s) := s.newWid i h
  let (q, s) := (s.setThread k (t.sendOff i h wid)).fresh
  match r with
  | some (a, ls) =>
    if a.stash.isNone then { s with sflushes := s.sflushes ++ [⟨q, t.bid, wid, 0, b.asid, [], []⟩] }
    else
      let dirty := (ls.filter fun p => (s.line p.2).dirty).map fun p => (p.2, a.global p.1)
      let s := s.flushLines t.bid b a ls
      { s with sflushes := s.sflushes ++ [⟨q, t.bid, wid, dirty.length, b.asid, dirty, if inv then ls.map Prod.snd else []⟩] }
  | none => { s with sflushes := s.sflushes ++ [⟨q, t.bid, wid, 0, b.asid, [], []⟩] }

/-- sflush (R177). -/
def execSflush (h : Head) (m : ModM) (inv : Bool) (s : State) : Host.Outcome State Fault Refusal :=
  perLane (.sflush h m inv) (onRange m.ofs (sflushBody (.sflush h m inv) inv)) s

/-! ### The larder's own steps -/

/-- A result that an engine of the core writes later is there (R171, R177). -/
def resultReady (l : List PendingResult) (serial : Nat) (s : State) : State :=
  match l.find? fun p => p.serial = serial with
  | some p => s.setIncoming p.wid p.value
  | none => s

/-- LRENEW_COMPLETE (R171). -/
def execLrenewComplete (serial : Nat) (s : State) : Host.Outcome State Fault Refusal :=
  event (fun s =>
    { resultReady s.lrenews serial s with lrenews := s.lrenews.filter fun p => p.serial ≠ serial }) s

/-- SFLUSH_COMPLETE (R177): once every write-back has been performed, or has been answered by a peer, D is there, and with
`.inv` the lines are not present. -/
def execSflushComplete (serial : Nat) (s : State) : Host.Outcome State Fault Refusal :=
  event (fun s =>
    match s.sflushes.find? fun p => p.serial = serial with
    | none => s
    | some p =>
      let s := s.flushSome (s.dirtyAmong (p.lines.map fun q => (q.1, p.bid, p.asid, q.2)))
      if p.lines.any fun q => (s.line q.1).dirty || s.peers.any fun x => x.use = .writeBack q.1 then s
      else
        let s := p.drop.foldl State.dropLine s
        { resultReady s.sflushes serial s with sflushes := s.sflushes.filter fun p => p.serial ≠ serial }) s

/-- LFREE_UNITS_RELEASE: units are free once no engine request that was writing into them is left and their write-backs are
complete (R162, R165, R169). -/
def execLfreeUnitsRelease (serial : Nat) (s : State) : Host.Outcome State Fault Refusal :=
  event (fun s =>
    match s.freed.find? fun f => f.serial = serial with
    | none => s
    | some f =>
      let s := s.flushSome (s.dirtyAmong (State.freedLines f))
      if s.unitsFree f then { s with freed := s.freed.filter fun g => g.serial ≠ serial } else s) s

/-- The renewal engine visits a line of an allocation (R153, R155): a stale line is marked, a line of a live allocation
that is not stale is renewed; stash lines that are not present are passed over. -/
def State.renewVisit (s : State) (core : Nat) (a : Alloc) (no : Nat) : State :=
  let l := s.line no
  if s.isStale core no a then s.setLine no { l with stale := true }
  else if liveTag s.now a.tag && (a.stash.isNone || l.present) then s.setLine no { l with stamp := s.now % 2 ^ 16 }
  else s

/-- LARDER_RENEWAL (R155). -/
def execLarderRenewal (core : Nat) (s : State) : Host.Outcome State Fault Refusal :=
  event (fun s =>
    s.blocks.foldl (fun s p =>
      if p.2.core = core then
        p.2.allocs.foldl (fun s a => (a.lines core).foldl (fun s q => s.renewVisit core a q.2) s) s
      else s) s) s

/-- The age in µs of a line when `dt` µs have passed since device time `old`, while the renewal engine renews what is live
before its age reaches G (R155, R156). The instant of the last renewal is open within G (log 52). -/
def State.agedTo (s : State) (guar old dt tag no : Nat) (l : Line) : Nat :=
  let age := (old + 2 ^ 16 - l.stamp % 2 ^ 16) % 2 ^ 16
  let lag := Config.renewalLag s.tick no % guar
  if liveTag (old + dt) tag then if guar ≤ age + dt then lag else age + dt
  else if liveTag old tag then
    let toEnd := (tag + 2 ^ 40 - old % 2 ^ 40) % 2 ^ 40
    if guar ≤ age + toEnd then dt - toEnd + 1 + lag else age + dt
  else age + dt

/-- A line of an allocation after `dt` µs have passed since device time `old` (R153, R155, R156, R160): renewed while the
allocation is live, stale once its age has reached G; a clean stash line of that age is not present any more. -/
def State.ageLine (s : State) (core : Nat) (a : Alloc) (old dt no : Nat) : State :=
  let l := s.line no
  if l.stale || (a.stash.isSome && !l.present) then s
  else
    let age := s.agedTo (s.guar core) old dt a.tag no l
    if age < s.guar core then s.setLine no { l with stamp := (old + dt + 2 ^ 16 - age % 2 ^ 16) % 2 ^ 16 }
    else if a.stash.isNone then s.setLine no { l with stale := true }
    else if l.dirty then s
    else s.dropLine no

/-- What the larders do while device time goes from `old` to now (R153 to R156, R160): allocations whose use-by time has been
reached end their life, and every line of every allocation ages. -/
def State.ageLarders (s : State) (old : Nat) : State :=
  let dt := s.now - old
  let s := s.blocks.foldl (fun s p => p.2.allocs.foldl (fun s a =>
    if !a.expired && !(liveTag s.now a.tag) then s.expireAlloc p.1 p.2 a else s) s) s
  s.blocks.foldl (fun s p => p.2.allocs.foldl (fun s a =>
    (a.lines p.2.core).foldl (fun s q => s.ageLine p.2.core a old dt q.2) s) s) s

/-- LRET_UPDATE: the device writes TEMP and GUAR, the latter from 500 to 4,000 (R152); lines whose age reaches the new value
are stale, or renewed, at once (R153, R155). -/
def execLretUpdate (core temp guar : Nat) (s : State) : Host.Outcome State Fault Refusal :=
  event (fun s =>
    if 500 ≤ guar && guar ≤ 4000 then
      (s.updCore core fun c => { c with lret := BitVec.ofNat 32 (temp % 256 * 2 ^ 16 + guar) }).ageLarders s.now
    else s) s

/-- ALLOCATION_EXPIRY: the use-by time of an allocation has been reached; what its end still waits for is done, and a line
that a later store has left dirty is written back (R154, R156, R160). -/
def execAllocationExpiry (bid base : Nat) (s : State) : Host.Outcome State Fault Refusal :=
  event (fun s =>
    match s.blocks.look bid with
    | none => s
    | some b =>
      match b.allocFrom base with
      | none => s
      | some a =>
        if liveTag s.now a.tag then s
        else if a.expired then s.flushLines bid b a (a.lines b.core)
        else s.expireAlloc bid b a) s

/-- The block, allocation and window address of a physical line of a core. -/
def State.ownerOf (s : State) (core line : Nat) : Option (Nat × Block × Alloc × Nat) :=
  (s.blocks.flatMap fun p =>
    if p.2.core = core then
      p.2.allocs.filterMap fun a =>
        ((a.lines core).find? fun q => q.2 = lineNo core line).map fun q => (p.1, p.2, a, q.1)
    else []).head?

/-- A fetch that cannot be translated when its data is due: the records that wait for the line wait for a ticket instead,
and touch the line afresh (R160, R211, log 28). -/
def State.fetchLost (s : State) (bid ea va reason level entry base size : Nat) (b : Block) : State :=
  let waiting := s.records.filter fun p => p.2.bid = bid && p.2.event = lineEvent ea && !p.2.satisfied
  let (n, first, s) := s.ticketFor b.core b.asid reason base size false
  let s := if first then
      s.report b.asid 0x23 reason
        (translationRecord va n b.core b.asid waiting.length reason Access.stash.kind level entry b.handle 0)
    else s
  s.reaim (fun key b => b = bid && key = lineEvent ea) (eventKey 0xA n)

/-- The data of a stash fetch is there: the line is present, full and clean, its stamp restarts (R160). -/
def State.landStash (s : State) (bid no ea : Nat) (bs : List Byte) : State :=
  ((s.putLarder (no * 128) bs).setLine no
    { stamp := s.now % 2 ^ 16, stale := false, full := false, present := true, dirty := false
      fetching := false }).fillLine bid no ea

/-- STASH_FETCH_COMPLETE (R158, R160): data that no code corrects takes reason 0x08 (R372); a line of a peer's page is
asked for there (R314). -/
def execStashFetchComplete (core line : Nat) (s : State) : Host.Outcome State Fault Refusal :=
  event (fun s =>
    let no := lineNo core line
    match s.ownerOf core line with
    | none => s
    | some (bid, b, a, ea) =>
      if !(s.line no).fetching || a.stash.isNone then s
      else
        let va := a.global ea
        let cleared := s.setLine no { s.line no with fetching := false }
        match s.translate core b.asid .stash [(va, 0, 128)] with
        | .fault va r lv e z n => if s.canReport b.asid then cleared.fetchLost bid ea va r lv e z n b else s
        | .all ps =>
          match s.tryTouch ps with
          | none => s
          | some t =>
            match ps.find? fun p => 2 ≤ s.spaceOf p.leaf with
            | some p =>
              if s.peers.any fun q => q.use = .fetch no then s
              else t.askPeer b.asid bid 128 p.leaf (.fetch no) p.pa (.read p.pa 128)
            | none =>
              (t.setLine no { t.line no with fetching := false }).landStash bid no ea
                (ps.flatMap fun p => bytesAt (if p.leaf.tier = 3 then t.hostMemory else t.memory) p.pa 128)) s

/-- STASH_LINE_AGE_OUT: a present clean line whose age reaches G is made not present (R160). -/
def execStashLineAgeOut (core line : Nat) (s : State) : Host.Outcome State Fault Refusal :=
  event (fun s =>
    let no := lineNo core line
    let l := s.line no
    if l.present && !l.dirty && s.guar core ≤ s.ageOf l then s.dropLine no else s) s

/-- STASH_REMOTE_READ_RECALL: dirty bytes are written back; the line stays present and clean (R161). -/
def execStashRemoteReadRecall (core line : Nat) (s : State) : Host.Outcome State Fault Refusal :=
  event (fun s =>
    match s.ownerOf core line with
    | none => s
    | some (bid, b, a, ea) =>
      if a.stash.isSome && (s.line (lineNo core line)).present then s.flushLines bid b a [(ea, lineNo core line)] else s) s

/-- STASH_REMOTE_WRITE_RECALL: dirty bytes are written back, then the remote write is applied; the line is empty and not
present (R161). It is nothing while one of these has to wait. -/
def execStashRemoteWriteRecall (core line ofs : Nat) (bytes : List Byte) (s : State) :
    Host.Outcome State Fault Refusal :=
  event (fun s =>
    match s.ownerOf core line with
    | none => s
    | some (bid, b, a, ea) =>
      if a.stash.isSome && (s.line (lineNo core line)).present && ofs + bytes.length ≤ 128 then
        match s.stashLine (lineNo core line) bid b.asid (a.global ea) with
        | none => s
        | some l =>
          (((s.tryWriteBack l).map fun s => s.dropLine l.no).bind fun s =>
            s.tryStore .hub 0 (dieOf core) b.asid 0 (l.pa + ofs) l.leaf bytes (.written 0 l.va)).getD s
      else s) s

end Sys2Proof.Machine
end

