-- ==== Sys2Proof/Machine/Control.lean ====
section
/-! DEFINITION. Row 0x0: branches, exit with and without successors, REPEAT, trap and eret (R56 to R64, R344, R363,
R364). -/

namespace Sys2Proof.Machine

/-! ### Branches -/

/-- The word offset of a branch: its literal's low 32 bits, or OFS24 (R57). -/
def branchOfs (h : Head) (ofs : Int) : Int :=
  match h.b with
  | .lit v => toInt v.toNat 32
  | _ => ofs

/-- The target of a relative branch (R57). -/
def branchTarget (t : Thread) (h : Head) (ofs : Int) : Nat := wrap (t.pc.toNat + 4 * branchOfs h ofs) 64

/-- Continue at an address. -/
def Thread.jumpTo (t : Thread) (a : Nat) : Thread := { t with pc := BitVec.ofNat 64 a }

/-- bra, brz, brnz in one thread (R57): a target beyond 52 bits traps only when taken. -/
def branchBody (i : Instr) (ofs : Int) (taken : Head → Thread → Bool) (h : Head) (k : Nat) (t : Thread) (s : State) :
    State :=
  let a := branchTarget t h ofs
  if !(taken h t) then s.setThread k (t.next (lenOf i))
  else if 2 ^ 52 ≤ a then s.trap k 0x03 0x02 a
  else s.setThread k (t.jumpTo a)

/-- call in one thread (R57): the link is written as the branch is taken. -/
def callBody (i : Instr) (ofs : Int) (h : Head) (k : Nat) (t : Thread) (s : State) : State :=
  let a := branchTarget t h ofs
  if 2 ^ 52 ≤ a then s.trap k 0x03 0x02 a
  else s.setThread k ((t.writeResults i h { d := (nextPc t (lenOf i)).toNat }).jumpTo a)

/-- jmp and ret in one thread (R58): the target is read before the link is written. -/
def jumpBody (i : Instr) (link : Bool) (h : Head) (k : Nat) (t : Thread) (s : State) : State :=
  let a := t.rd h.a 64
  if a % 4 ≠ 0 then s.trap k 0x03 0x01 a
  else if 2 ^ 52 ≤ a then s.trap k 0x03 0x02 a
  else
    let t := if link then t.writeResults i h { d := (nextPc t (lenOf i)).toNat } else t
    s.setThread k (t.jumpTo a)

/-- bra (R57). -/
def execBra (h : Head) (ofs : Int) (s : State) : Host.Outcome State Fault Refusal :=
  perLane (.bra h ofs) (branchBody (.bra h ofs) ofs fun _ _ => true) s

/-- brz (R57). -/
def execBrz (h : Head) (ofs : Int) (s : State) : Host.Outcome State Fault Refusal :=
  perLane (.brz h ofs) (branchBody (.brz h ofs) ofs fun h t => t.rd h.a 32 = 0) s

/-- brnz (R57). -/
def execBrnz (h : Head) (ofs : Int) (s : State) : Host.Outcome State Fault Refusal :=
  perLane (.brnz h ofs) (branchBody (.brnz h ofs) ofs fun h t => t.rd h.a 32 ≠ 0) s

/-- call (R57). -/
def execCall (h : Head) (ofs : Int) (s : State) : Host.Outcome State Fault Refusal :=
  perLane (.call h ofs) (callBody (.call h ofs) ofs) s

/-- jmp (R58). -/
def execJmp (h : Head) (s : State) : Host.Outcome State Fault Refusal :=
  perLane (.jmp h) (jumpBody (.jmp h) true) s

/-- ret (R58). -/
def execRet (h : Head) (s : State) : Host.Outcome State Fault Refusal :=
  perLane (.ret h) (jumpBody (.ret h) false) s

/-- nop (R59). -/
def execNop (h : Head) (s : State) : Host.Outcome State Fault Refusal :=
  perLane (.nop h) (fun _ k t s => s.setThread k (t.next (lenOf (.nop h)))) s

/-- yield: the group stands back at its unit's next turn if another group is ready (R59). -/
def execYield (h : Head) (s : State) : Host.Outcome State Fault Refusal :=
  perLane (.yield h)
    (fun _ k t s =>
      (s.setThread k (t.next (lenOf (.yield h)))).updGroup (groupOf k) fun g => { g with yielded := true }) s

/-! ### exit -/

/-- exit (R60). -/
def execExit (h : Head) (s : State) : Host.Outcome State Fault Refusal :=
  perLane (.exit h) (fun _ k _ s => s.endThread k) s

/-- The successor addresses of exit with X = n, zeros left out (R344). -/
def successorsOf (t : Thread) (h : Head) : Nat → List Nat
  | 0 => []
  | n + 1 =>
    let a := t.rd (match h.a with | .reg r => .reg (r + 2 * n) | l => l) 64
    successorsOf t h n ++ (if a = 0 then [] else [a])

/-- A successor address that is no template address (R344). -/
def badSuccessor (a : Nat) : Bool := a % 64 ≠ 0 || 2 ^ 52 ≤ a

/-- exit with successors in one thread (R344); of too many, the fifth is what TINFO names. -/
def exitSuccBody (n : Nat) (h : Head) (k : Nat) (t : Thread) (s : State) : State :=
  let l := successorsOf t h n
  match l.find? badSuccessor with
  | some a => s.trap k 0x0E 0x02 a
  | none =>
    let old := ((s.blockOf k).map Block.succ).getD []
    let new := l.foldl (fun acc a => if acc.contains a then acc else acc ++ [a]) old
    if 4 < new.length then s.trap k 0x0E 0x01 ((new[4]?).getD 0)
    else (s.updBlock t.bid fun b => { b with succ := new }).endThread k

/-- exit with successors (R344): participants take effect in ascending lane order. -/
def execExitWithSuccessors (h : Head) (n : Nat) (s : State) : Host.Outcome State Fault Refusal :=
  perLane (.exitWithSuccessors h n) (exitSuccBody n) s

/-! ### REPEAT -/

/-- The instructions of a body with their word indices; `none` when the body does not end on an instruction boundary
(R63). -/
def bodyInstrs : Nat → Nat → List Nat → Option (List (Nat × Raw))
  | _, _, [] => some []
  | 0, _, _ => none
  | fuel + 1, idx, w :: ws =>
    let n := wordCount w
    match rawOf (w :: ws) with
    | none => none
    | some r =>
      match bodyInstrs fuel (idx + n) ((w :: ws).drop n) with
      | none => none
      | some l => some ((idx, r) :: l)

/-- An instruction that a body may not hold (R63): row 0x0, park, spawn. -/
def notInBody (r : Raw) : Bool := r.op < 0x10 || r.op = 0x15 || r.op = 0x16

/-- The instruction has the field that an increment selects, holding a register code or an offset (R63). -/
def hasField (r : Raw) (sel : Nat) : Bool :=
  match r.attr with
  | none => false
  | some t =>
    match sel with
    | 1 => t.d ≠ 0 && !(isLatch r.d)
    | 2 => t.a ≠ 0 && !(isLatch r.a)
    | 3 => t.b ≠ 0 && !t.immOnly && !r.form.hasLit && !(r.immb t.cls) && !(t.bi && r.form = .base) && !(isLatch r.b)
    | 4 => t.c ≠ 0 && t.ty2s.isEmpty && !(isLatch r.c)
    | 7 => r.op = 0xB0 || r.op = 0xB4
    | _ => (t.cls = .m && t.ofs) || (t.cls = .g && Nat.land t.gmask ofsMask = ofsMask && 0x80 ≤ r.op)

/-- An increment entry is unused, or names the first word of a body instruction and a field it has (R62, R63). -/
def entryOk (body : List (Nat × Raw)) (e : Nat) : Bool :=
  let sel := field e 8 3
  if sel = 0 then e = 0
  else
    match body.find? fun p => p.1 = field e 11 5 with
    | none => false
    | some p => hasField p.2 sel

/-- What two entries may not share: the instruction and the field, SEL 5 and 6 being one (R63). -/
def entryKey (e : Nat) : Nat × Nat := (field e 11 5, if field e 8 3 = 6 then 5 else field e 8 3)

/-- The entries of a literal (R61). -/
def entriesOf (lit : Nat) : List Nat := (span 0 4).map fun i => field lit (16 * i) 16

/-- A repeat takes detail 0x0C (R63). -/
def repeatBad (body : Nat) (ws : List Nat) (lit : Nat) : Bool :=
  body = 0 || 32 < body ||
  match bodyInstrs 33 0 ws with
  | none => true
  | some l =>
    let used := (entriesOf lit).filter fun e => e ≠ 0
    l.any (fun p => notInBody p.2) || (entriesOf lit).any (fun e => !(entryOk l e)) ||
    (used.map entryKey).eraseDups.length ≠ used.length

/-- repeat in one thread (R61, R64). -/
def repeatBody (i : Instr) (byReg : Bool) (count body : Nat) (ws : List Nat) (h : Head) (k : Nat) (t : Thread)
    (s : State) : State :=
  let n := if byReg then Nat.min (t.rd h.a 32) 65535 else count
  let first := nextPc t (lenOf i)
  if n = 0 then s.setThread k { t with pc := first + BitVec.ofNat 64 (4 * body) }
  else
    s.setThread k { t with pc := first, rep := some ⟨t.pc.toNat, lenOf i, 0, n, ws, h.b.literal, true⟩ }

/-- repeat (R61 to R64): its body is fetched with it; an illegal one traps in every issuing thread, after the check of
the declared registers. -/
def execRepeatLoop (h : Head) (byReg : Bool) (count body : Nat) (s : State) : Host.Outcome State Fault Refusal :=
  let i := Instr.repeatLoop h byReg count body
  match s.issuing with
  | none => .next s
  | some g =>
    match g.threads.filterMap fun k => (s.thread? k).map fun t => (k, t) with
    | [] => .next s
    | (k, t) :: _ =>
      match s.fetchWords (coreOf k) (s.asidOf k) (s.launchOf k) (nextPc t (lenOf i)).toNat (if 32 < body then 0 else body) with
      | .fault r l e b z va => .next (s.fetchFault g.threads g.cycle r l e b z va)
      | .ask pa l => .next (g.threads.foldl State.holdReplay (s.askCode (s.asidOf k) (s.launchOf k) pa l))
      | .words ws =>
        if i.overRegs (s.regCount k) || !(repeatBad body ws h.b.literal) then
          perLane i (repeatBody i byReg count body ws) s
        else .next (g.threads.foldl (fun s k => s.trap k 0x01 0x0C 0) s)

/-! ### trap, eret -/

/-- The code of trap: its literal, or CODE (R363). -/
def trapCode (h : Head) (code : Nat) : Nat :=
  match h.b with
  | .lit v => v.toNat % 2 ^ 16
  | _ => code

/-- trap: the user trap (R363). -/
def execTrap (h : Head) (code : Nat) (s : State) : Host.Outcome State Fault Refusal :=
  perLane (.trap h code) (fun h k _ s => s.trap k 0x0F 0x00 (trapCode h code)) s

/-- eret in one thread (R364): a bad TEPC is an unhandled trap; a kept operand log is replayed first. -/
def eretBody (k : Nat) (t : Thread) (s : State) : State :=
  let a := t.tepc.toNat
  let word := (((s.issuing.map Issue.words).getD []).head?).getD 0
  if a % 4 ≠ 0 then s.unhandled k (tcauseOf false 0x03 0x01) a word
  else if 2 ^ 52 ≤ a then s.unhandled k (tcauseOf false 0x03 0x02) a word
  else
    let s' := s.setThread k t.returned
    match t.keptLog with
    | none => s'
    | some log =>
      match instrOfLog log with
      | none => s'
      | some i => s'.replay k i log

/-- eret (R364). -/
def execEret (h : Head) (s : State) : Host.Outcome State Fault Refusal :=
  perLane (.eret h) (fun _ k t s => eretBody k t s) s

end Sys2Proof.Machine
end

