-- ==== Sys2Proof/Machine/Lane.lean ====
section
/-! DEFINITION. Row 0x1: lane instructions (R66 to R68), park (R145, R146) and spawn (R147, R148). -/

namespace Sys2Proof.Machine

/-! ### Lane instructions -/

/-- A participant: its lane index and its thread as it was when the instruction issued. -/
abbrev Part := Nat × Thread

/-- The participants of an instruction, in ascending lane order. -/
def partsOf (i : Instr) (h : Head) (s : State) : List Part :=
  (participants i h s).filterMap fun k => (s.thread? k).map fun t => (laneOf k, t)

/-- The participants whose test holds, as a lane mask. -/
def laneMask (parts : List Part) (f : Thread → Bool) : Nat :=
  ((parts.filter fun p => f p.2).map fun p => 2 ^ p.1).sum

/-- shfl (R68): the lane named, or the thread's own value where no participant has it. -/
def shflRes (mode : ShflMode) (parts : List Part) (h : Head) (k : Nat) (t : Thread) : Res :=
  let w := h.ty.regWidth
  let x := t.rdB h.b 32
  let lane := laneOf k
  let j : Int := match mode with
    | .idx => (x % 32 : Nat)
    | .up => (lane : Int) - x
    | .down => (lane : Int) + x
    | .xor => Nat.xor lane (x % 32)
  match parts.find? fun p => (p.1 : Int) = j with
  | some q => { d := q.2.rd h.a w, e := some 1 }
  | none => { d := t.rd h.a w, e := some 0 }

/-- vote (R68). -/
def voteRes (mode : VoteMode) (parts : List Part) (h : Head) : Res :=
  let mask := laneMask parts fun _ => true
  let bits := laneMask parts fun t => bit (t.rd h.a 32) 0
  { d := match mode with
      | .all => b2n (bits = mask)
      | .any => b2n (bits ≠ 0)
      | .ballot => bits
      | .count => popcount 32 bits }

/-- elect (R68). -/
def electRes (pred : Bool) (parts : List Part) (h : Head) (k : Nat) : Res :=
  let w := ((parts.find? fun p => !pred || bit (p.2.rd h.a 32) 0).map Prod.fst).getD 32
  { d := b2n (laneOf k = w), e := some w }

/-- match (R68). -/
def matchRes (all : Bool) (parts : List Part) (h : Head) (t : Thread) : Res :=
  let w := h.ty.regWidth
  let mask := laneMask parts fun _ => true
  let eq := laneMask parts fun q => q.rd h.a w = t.rd h.a w
  if all then { d := if eq = mask then mask else 0, e := some (b2n (eq = mask)) } else { d := eq }

/-- One combination of two positions of a level (R68): an absent position passes its partner through. -/
def treePair (g : Nat → Nat → Nat × Events) (a b : Option Nat) : Option Nat × Events :=
  match a, b with
  | some x, some y => (some (g x y).1, (g x y).2)
  | some x, none => (some x, .none)
  | none, b => (b, .none)

/-- One level of the tree (R68). -/
def treeLevel (g : Nat → Nat → Nat × Events) : List (Option Nat) → List (Option Nat) × Events
  | a :: b :: l =>
    let p := treePair g a b
    let r := treeLevel g l
    (p.1 :: r.1, p.2.plus r.2)
  | l => (l, .none)

/-- The five levels over 32 positions (R68). -/
def tree (g : Nat → Nat → Nat × Events) : Nat → List (Option Nat) → List (Option Nat) × Events
  | 0, l => (l, .none)
  | n + 1, l =>
    let a := treeLevel g l
    let b := tree g n a.1
    (b.1, a.2.plus b.2)

/-- The f32 combination of lred (R68): fadd, fmin or fmax under RND and FTZ. -/
def lredFloat (op : RedOp) (ftz : Bool) (rnd : Rnd) (a b : Nat) : Nat × Events :=
  let f := fmtOf .f32
  match op with
  | .add => f.addP { m := rnd, ftz := ftz } a b
  | .min => f.pickP ftz false a b
  | _ => f.pickP ftz true a b

/-- The f32 result and every event of the reduction (R68): values read as operands, combined by position, and a lone NaN
written as the canonical one. -/
def lredF32 (op : RedOp) (ftz : Bool) (rnd : Rnd) (parts : List Part) (h : Head) : Nat × Events :=
  let f := fmtOf .f32
  let read (p : Part) : Nat × Events := f.operand ftz (p.2.rd h.a 32)
  let flushed := parts.foldl (fun e p => e.plus (read p).2) Events.none
  let level0 := (span 0 32).map fun j => (parts.find? fun p => p.1 = j).map fun p => (read p).1
  let r := tree (lredFloat op ftz rnd) 5 level0
  let v := ((r.1.head?).bind id).getD 0
  let last := if parts.length = 1 && f.value v = .nan then (f.canon, Events.oneNan) else (v, Events.none)
  (last.1, (flushed.plus r.2).plus last.2)

/-- The integer or pattern result of lred, whose order does not matter (R68). -/
def lredInt (op : RedOp) (parts : List Part) (h : Head) : Nat :=
  match parts with
  | [] => 0
  | p :: l => l.foldl (fun v q => (redCombine op h.ty v (q.2.rd h.a h.ty.regWidth)).1) (p.2.rd h.a h.ty.regWidth)

/-- lred's result (R68). -/
def lredRes (op : RedOp) (ftz : Bool) (rnd : Rnd) (parts : List Part) (h : Head) : Nat × Events :=
  if h.ty = .f32 then lredF32 op ftz rnd parts h else (lredInt op parts h, .none)

/-- A lane instruction: every participant's results come from what all of them read (R24, R66). -/
def laneOp (i : Instr) (f : List Part → Head → Nat → Thread → Res) (s : State) : Host.Outcome State Fault Refusal :=
  match i.head with
  | none => .next s
  | some h =>
    let parts := partsOf i h s
    perLane i (fun h k t s => s.setThread k (t.finish i h (f parts h k t))) s

/-- shfl (R67, R68). -/
def execShfl (h : Head) (mode : ShflMode) (s : State) : Host.Outcome State Fault Refusal :=
  laneOp (.shfl h mode) (shflRes mode) s

/-- vote (R67, R68). -/
def execVote (h : Head) (mode : VoteMode) (s : State) : Host.Outcome State Fault Refusal :=
  laneOp (.vote h mode) (fun parts h _ _ => voteRes mode parts h) s

/-- elect (R67, R68). -/
def execElect (h : Head) (pred : Bool) (s : State) : Host.Outcome State Fault Refusal :=
  laneOp (.elect h pred) (fun parts h k _ => electRes pred parts h k) s

/-- match (R67, R68). -/
def execMatchLanes (h : Head) (all : Bool) (s : State) : Host.Outcome State Fault Refusal :=
  laneOp (.matchLanes h all) (fun parts h _ t => matchRes all parts h t) s

/-- lred (R67, R68): its events are counted once, in the launch of the lowest-lane participant. -/
def execLred (h : Head) (op : RedOp) (tid : Nat) (ftz : Bool) (rnd : Rnd) (s : State) :
    Host.Outcome State Fault Refusal :=
  let i := Instr.lred h op tid ftz rnd
  let ev := (lredRes op ftz rnd (partsOf i h s) h).2
  let counted := match participants i h s with
    | k :: _ => s.count k tid ev
    | [] => s
  let parts := partsOf i h s
  perLane i (fun h k t s => s.setThread k (t.finish i h { d := (lredRes op ftz rnd parts h).1 })) counted

/-! ### park -/

/-- Complete an instruction at its park point: its results, then on past it by the length in its log (R142). They enter the
window of the new residency, as every result that is written in it does (R74, log 54). -/
def State.finishLog (s : State) (k : Nat) (i : Instr) (h : Head) (r : Res) (log : OpLog) : State :=
  s.updThread k fun t => { (t.writeResults i h r).next log.len with hold := .none }

/-- The party that a thread is (R226). -/
def State.whoOf (s : State) (k : Nat) : Party :=
  match s.thread? k with
  | some t => .thread t.bid t.lin
  | none => .hub

/-- The watched word of park.ne as a translated piece; `none` where it faults. -/
def State.watchPiece (s : State) (core asid va : Nat) : Option Piece :=
  match s.translate core asid .load [(va, 0, 4)] with
  | .all [p] => some p
  | _ => none

/-- The read of a watched word that a party has sent to a peer (R146, R314). -/
def State.watchAsked (s : State) (who : Party) : Option PeerAccess := s.peers.find? fun q => q.use = .watch who

/-- The watched word of park.ne as its thread reads it now (R146): `none` where it does not translate, or lies on a peer that
has not answered. -/
def State.watchWord (s : State) (who : Party) (core asid va : Nat) : Option Nat :=
  (s.watchPiece core asid va).bind fun p =>
    if 2 ≤ s.spaceOf p.leaf then ((s.watchAsked who).bind PeerAccess.got).map ofBytes
    else
      let own := match s.pairingWho who with
        | some q => q.held.filter fun y => y.who = who
        | none => []
      some (ofBytes (s.overlaid own (s.spaceOf p.leaf) p.pa 4))

/-- Ask a peer for a watched word, once at a time (R146, R314). -/
def State.askWatch (s : State) (who : Party) (asid : Nat) (p : Piece) : State :=
  if (s.watchAsked who).isSome then s else s.askPeer asid who.bid 4 p.leaf (.watch who) p.pa (.read p.pa 4)

/-- The answer of a peer has been looked at. -/
def State.dropWatch (s : State) (who : Party) : State := { s with peers := s.peers.filter fun q => q.use ≠ .watch who }

/-- A deadline that is reached now; one at or beyond 2^60 never is (R146). -/
def State.reached (s : State) (t : Nat) : Bool := t ≤ s.timebase.toNat && (t < 2 ^ 60)

/-- The wake reason of park.ne, if its condition holds now (R146): 0 the word differs, 1 the deadline has passed. The
log holds the word's address, the compare value, the deadline and whether there is one. -/
def State.watchReason (s : State) (who : Party) (core asid : Nat) (log : OpLog) : Option Nat :=
  let differs : Bool := match s.watchWord who core asid log.ea with
    | some w => w ≠ log.b
    | none => false
  if differs then some 0 else if log.aux = 1 && s.reached log.c then some 1 else none

/-- park.now: unconditional in user mode; in privileged mode its event is satisfied at once (R146, R358). -/
def parkNowBody (keep : Nat) (h : Head) (k : Nat) (t : Thread) (s : State) : State :=
  let i := Instr.parkNow h keep
  if t.priv then s.setThread k (t.finish i h { d := 2 })
  else
    s.parkThread k
      { mode := 1, event := eventKey 0x0 0, keep := keepCount (s.regCount k) keep, resume := t.pc.toNat
        log := some (s.logOf i 0 0 0 0), wid := 0, satisfied := true, cycle := (s.issuing.map Issue.cycle).getD 0 }

/-- park.until (R146). -/
def parkUntilBody (keep : Nat) (h : Head) (k : Nat) (t : Thread) (s : State) : State :=
  let i := Instr.parkUntil h keep
  let d := t.rd h.a 64
  if s.reached d then s.setThread k (t.finish i h { d := 1 })
  else s.parkOn k (eventKey 0x8 (d % 2 ^ 60)) keep (s.logOf i 0 0 0 d)

/-- A word of a peer's page that a thread is to read and the peer has not answered, or that it is to read again (R314). -/
def State.watchAway (s : State) (who : Party) (p : Piece) : Bool :=
  2 ≤ s.spaceOf p.leaf && ((s.watchAsked who).bind PeerAccess.got).isNone

/-- park.ne whose word has been read (R146): the word differs, or the deadline has passed, or the thread parks. A thread in
privileged mode waits in its slot and asks a peer for the word again. -/
def parkNeRead (i : Instr) (keep a : Nat) (p : Piece) (h : Head) (k : Nat) (t : Thread) (s : State) : State :=
  let who := Party.thread t.bid t.lin
  let log := s.logOf i a (t.rdB h.b 32) (t.rd h.c 64) (b2n (h.c ≠ .reg 0))
  match s.watchReason who (coreOf k) (s.asidOf k) log with
  | some r => (s.dropWatch who).setThread k (t.finish i h { d := r })
  | none =>
    if t.priv && 2 ≤ s.spaceOf p.leaf then (s.dropWatch who).setThread k { t with hold := .replay }
    else (s.dropWatch who).parkOn k (eventKey 0x9 (a / 4)) keep log

/-- park.ne (R146): a word of a peer's page is asked for first (R314); a fault of the word parks the thread to issue afresh
(MODE 0). -/
def parkNeBody (keep : Nat) (h : Head) (k : Nat) (t : Thread) (s : State) : State :=
  let i := Instr.parkNe h keep
  let asid := s.asidOf k
  let who := Party.thread t.bid t.lin
  let a := t.rd h.a 64 / 4 * 4
  if 2 ^ 52 < a + 4 then s.trap k 0x08 0x01 a
  else
    match s.translate (coreOf k) asid .load [(a, 0, 4)] with
    | .fault _ r l e b z =>
      if !(s.canReport asid) then s
      else
        let (n, s) := s.faultTicket k a r l e b z .load 1
        s.parkAfresh k n
    | .all ps =>
      match ps with
      | p :: _ =>
        if s.watchAway who p then (s.askWatch who asid p).setThread k { t with hold := .replay }
        else parkNeRead i keep a p h k t s
      | [] => s

/-- What park writes when it completes after its wake (R146); park.ne's reason was kept in the log at the wake. -/
def State.completePark (s : State) (k : Nat) (i : Instr) (h : Head) (log : OpLog) : State :=
  match i with
  | .parkNow .. => s.finishLog k i h { d := 2 } log
  | .parkUntil .. => s.finishLog k i h { d := 1 } log
  | .parkNe .. =>
    s.finishLog k i h
      { d := if 2 ≤ log.aux then log.aux - 2 else (s.watchReason (s.whoOf k) (coreOf k) (s.asidOf k) log).getD 1 } log
  | _ => s

/-- park.now (R145, R146). -/
def execParkNow (h : Head) (keep : Nat) (s : State) : Host.Outcome State Fault Refusal :=
  perLanePark (.parkNow h keep) (parkNowBody keep) s

/-- park.until (R145, R146). -/
def execParkUntil (h : Head) (keep : Nat) (s : State) : Host.Outcome State Fault Refusal :=
  perLanePark (.parkUntil h keep) (parkUntilBody keep) s

/-- park.ne (R145, R146). -/
def execParkNe (h : Head) (keep : Nat) (s : State) : Host.Outcome State Fault Refusal :=
  perLanePark (.parkNe h keep) (parkNeBody keep) s

/-! ### spawn -/

/-- Registers v1 to vNARG of a child (R148). -/
def spawnRegs (t : Thread) (h : Head) : Nat → Map Word
  | 0 => []
  | n + 1 => Map.put 0 (spawnRegs t h n) (n + 1) (t.reg (h.b.code + n))

/-- The record of a spawned thread (R148): ready at once, alone in its unit. -/
def spawnRecord (k : Nat) (b : Block) (bid : Nat) (hdr : Header) (entry lane narg : Nat) (regs : Map Word) (rid : Nat)
    (place : Place) : Record :=
  { core := coreOf k, group := groupOf k, asid := b.asid, bid := bid, handle := b.handle, hdr := hdr
    lane := lane, lin := b.threads, keep := narg, mode := 0, rep := none, resume := entry, event := eventKey 0x0 0
    regs := regs, incoming := [], landed := [], log := none, unit := rid, cycle := 0, satisfied := true, entered := false
    place := place }

/-- spawn in one thread (R148). -/
def spawnBody (laneGiven : Bool) (narg : Nat) (h : Head) (k : Nat) (t : Thread) (s : State) : State :=
  let i := Instr.spawn h laneGiven narg
  let e := t.rd h.a 64
  if e % 4 ≠ 0 then s.trap k 0x03 0x01 e
  else if 2 ^ 52 ≤ e then s.trap k 0x03 0x02 e
  else
    let l := if laneGiven then t.rd h.c 32 % 32 else laneOf k
    match s.blockOf k, s.headerOf k with
    | some b, some hdr =>
      let size := recordSize narg false 0
      match s.placeFor (coreOf k) b.asid size with
      | none => s.holdOverflow k size ((s.issuing.map Issue.cycle).getD 0) none
      | some place =>
        let (rid, s) := s.fresh
        let r := spawnRecord k b t.bid hdr e l narg (spawnRegs t h narg) rid place
        let s := ({ s with records := s.records.ins rid r }).updBlock t.bid fun b =>
          { b with threads := b.threads + 1, alive := b.alive + 1 }
        ((s.syncRecord rid).settleUnit rid).setThread k (t.finish i h { d := l })
    | _, _ => s

/-- spawn (R147, R148). -/
def execSpawn (h : Head) (laneGiven : Bool) (narg : Nat) (s : State) : Host.Outcome State Fault Refusal :=
  perLane (.spawn h laneGiven narg) (spawnBody laneGiven narg) s

end Sys2Proof.Machine
end

