-- ==== Sys2Proof/Machine/Barrier.lean ====
section
/-! DEFINITION. Row 0x8: barrier objects (R178 to R188), the Harness (R189 to R194) and signals by name (R195 to R198). -/

namespace Sys2Proof.Machine

/-! ### Barrier objects -/

/-- A barrier object (R178). -/
structure Obj where
  waiters : Nat
  kind : Nat
  gen : Nat
  expect : Nat
  arrived : Nat
  deriving DecidableEq, Repr

/-- The object that 128 bits hold. -/
def Obj.of (v : Nat) : Obj := ⟨field v 96 32, field v 94 2, field v 64 30, field v 32 32, field v 0 32⟩

/-- The 128 bits of an object. -/
def Obj.bits (o : Obj) : Nat :=
  o.waiters % 2 ^ 32 * 2 ^ 96 + o.kind % 4 * 2 ^ 94 + o.gen % 2 ^ 30 * 2 ^ 64 + o.expect % 2 ^ 32 * 2 ^ 32 +
  o.arrived % 2 ^ 32

/-- An arrival of n: the object after it, and whether a generation completed (R180). -/
def Obj.arrive (o : Obj) (n : Nat) : Obj × Bool :=
  let a := o.arrived + n
  let q := a / o.expect
  ({ o with arrived := a % o.expect, gen := (o.gen + q) % 2 ^ 30, waiters := if q = 0 then o.waiters else 0 },
   q ≠ 0 && n ≠ 0)

/-- Generation g is complete at an object (R180). -/
def Obj.complete (o : Obj) (g : Nat) : Bool := o.gen ≠ g % 2 ^ 30

/-- Why an instruction cannot use an object: cause and detail (R157, R178). -/
def State.objTrap (s : State) (b : Block) (ea : Nat) : Option (Nat × Nat) :=
  match b.allocAt ea, b.allocAt (ea + 15) with
  | some a, some _ =>
    if ea % 16 ≠ 0 then some (0x05, 0x02)
    else if a.stash.isSome then some (0x05, 0x03)
    else if s.isStale b.core (a.lineAt b.core ea) a then some (0x06, 0x01)
    else none
  | _, _ => some (0x05, 0x01)

/-- The object at a window address of a block. -/
def State.objAt (s : State) (b : Block) (ea : Nat) : Obj :=
  match b.allocAt ea with
  | some a => Obj.of (ofBytes (s.larBytes b.core a ea 16))
  | none => Obj.of 0

/-- Write the object at a window address of a block. -/
def State.putObj (s : State) (b : Block) (ea : Nat) (o : Obj) : State :=
  match b.allocAt ea with
  | some a => s.larWrite b.core a ea (toBytes 16 o.bits)
  | none => s

/-- The detail of the barrier trap of an arrival of kind k (R180, R184). -/
def Obj.arrivalTrap (o : Obj) (k : Nat) : Option Nat :=
  if o.expect = 0 || 1 < o.kind then some 0x01 else if o.kind ≠ k then some 0x02 else none

/-- An arrival that can be applied (R180): a completion wakes every record parked on the object. -/
def State.arriveAt (s : State) (bid : Nat) (b : Block) (ea n : Nat) : State :=
  let r := (s.objAt b ea).arrive n
  if n = 0 then s
  else
    let s := s.putObj b ea r.1
    if r.2 then
      s.wake fun key x => x = bid && (key / 2 ^ 60 = 0x1 || key / 2 ^ 60 = 0x5) && field key 32 21 = ea
    else s

/-- An arrival of an engine or a signal, `none` where it cannot be applied (R183, R196). -/
def State.objArrive (s : State) (bid ea n k : Nat) : Option State :=
  match s.blocks.look bid with
  | none => none
  | some b =>
    if (s.objTrap b ea).isSome || ((s.objAt b ea).arrivalTrap k).isSome then none else some (s.arriveAt bid b ea n)

/-- An instruction on an object of its thread's block (R178, R185). -/
def onObj (ofs : Int) (f : Head → Nat → Thread → Block → Nat → Obj → State → State) (h : Head) (k : Nat) (t : Thread)
    (s : State) : State :=
  let ea := larEa h ofs t
  match s.blockOf k with
  | none => s
  | some b =>
    match s.objTrap b ea with
    | some (c, d) => s.trap k c d ea
    | none => f h k t b ea (s.objAt b ea) s

/-- The event of a generation of an object: kind 0x1, or 0x5 for a matrix completion (R136). -/
def objEvent (kind ea gen : Nat) : Nat := eventKey kind (ea * 2 ^ 32 + gen)

/-- A thread waits for a generation of an object: it is recorded in WAITERS and parks (R181, R282). A thread in privileged
mode, which waits in its slot instead, is recorded too (R358, log 53). -/
def State.waitObj (s : State) (kind k : Nat) (b : Block) (ea gen keep : Nat) (log : OpLog) : State :=
  let o := s.objAt b ea
  let o' : Obj := { o with waiters := Nat.lor o.waiters (2 ^ laneOf k) }
  (s.putObj b ea o').parkOn k (objEvent kind ea gen) keep log

/-- binit (R184, R187). -/
def binitBody (i : Instr) (bytes : Bool) (h : Head) (k : Nat) (t : Thread) (b : Block) (ea : Nat) (o : Obj) (s : State) :
    State :=
  let n := t.rdB h.b 32
  if n = 0 || o.waiters ≠ 0 then s.trap k 0x07 0x03 ea
  else (s.setThread k (t.sendOff i h 0)).putObj b ea ⟨0, b2n bytes, 0, n, 0⟩

/-- binit (R187). -/
def execBinit (h : Head) (ofs : Int) (bytes : Bool) (s : State) : Host.Outcome State Fault Refusal :=
  perLane (.binit h ofs bytes) (onObj ofs (binitBody (.binit h ofs bytes) bytes)) s

/-- The count of an arrival by barr or barrw: 0 means 1 (R188). -/
def countOf (n : Nat) : Nat := if n = 0 then 1 else n

/-- barr (R184, R188). -/
def barrBody (i : Instr) (h : Head) (k : Nat) (t : Thread) (b : Block) (ea : Nat) (o : Obj) (s : State) : State :=
  match o.arrivalTrap 0 with
  | some d => s.trap k 0x07 d ea
  | none => (s.answer k t i h o.gen).arriveAt t.bid b ea (countOf (t.rdB h.b 32))

/-- barr (R188). -/
def execBarr (h : Head) (ofs : Int) (s : State) : Host.Outcome State Fault Refusal :=
  perLane (.barr h ofs) (onObj ofs (barrBody (.barr h ofs))) s

/-- bwait (R184, R188). -/
def bwaitBody (i : Instr) (keep : Nat) (h : Head) (k : Nat) (t : Thread) (b : Block) (ea : Nat) (o : Obj) (s : State) :
    State :=
  let g := t.rdB h.b 32 % 2 ^ 30
  if o.expect = 0 || 1 < o.kind then s.trap k 0x07 0x01 ea
  else if o.complete g then s.setThread k (t.sendOff i h 0)
  else s.waitObj 0x1 k b ea g keep (s.logOf i ea (t.rdB h.b 32) 0 0)

/-- bwait (R188). -/
def execBwait (h : Head) (ofs : Int) (keep : Nat) (s : State) : Host.Outcome State Fault Refusal :=
  perLanePark (.bwait h ofs keep) (onObj ofs (bwaitBody (.bwait h ofs keep) keep)) s

/-- barrw (R184, R188): the token is kept across the park. -/
def barrwBody (i : Instr) (keep : Nat) (h : Head) (k : Nat) (t : Thread) (b : Block) (ea : Nat) (o : Obj) (s : State) :
    State :=
  match o.arrivalTrap 0 with
  | some d => s.trap k 0x07 d ea
  | none =>
    let n := countOf (t.rdB h.b 32)
    let s := s.arriveAt t.bid b ea n
    if (o.arrive n).1.complete o.gen then s.answer k t i h o.gen
    else s.waitObj 0x1 k b ea o.gen keep (s.logOf i ea (t.rdB h.b 32) 0 o.gen)

/-- barrw (R188). -/
def execBarrw (h : Head) (ofs : Int) (keep : Nat) (s : State) : Host.Outcome State Fault Refusal :=
  perLanePark (.barrw h ofs keep) (onObj ofs (barrwBody (.barrw h ofs keep) keep)) s

/-- bbytes, arrive and .exp (R184, R188). -/
def bbytesBody (i : Instr) (exp : Bool) (h : Head) (k : Nat) (t : Thread) (b : Block) (ea : Nat) (o : Obj) (s : State) :
    State :=
  let n := t.rdB h.b 32
  match o.arrivalTrap 1 with
  | some d => s.trap k 0x07 d ea
  | none =>
    if !exp then (s.setThread k (t.sendOff i h 0)).arriveAt t.bid b ea n
    else if 0xFFFFFFFF < o.expect + n then s.trap k 0x07 0x04 ea
    else
      let o' : Obj := { o with expect := o.expect + n }
      (s.setThread k (t.sendOff i h 0)).putObj b ea o'

/-- bbytes (R188). -/
def execBbytes (h : Head) (ofs : Int) (exp : Bool) (s : State) : Host.Outcome State Fault Refusal :=
  perLane (.bbytes h ofs exp) (onObj ofs (bbytesBody (.bbytes h ofs exp) exp)) s

/-- The completion of bwait or barrw after its wake (R142, R165, R188). -/
def State.completeObj (s : State) (k : Nat) (i : Instr) (h : Head) (log : OpLog) : State :=
  if log.ended then s.stageTrap k (.complete log) 0x05 0x01 log.ea
  else
    let (wid, s) := s.advance k (.complete log) i h
    s.setIncoming wid log.aux

/-! ### The Harness -/

/-- The distance from one 32-bit generation number on to another (R190). -/
def genDist (a b : Nat) : Nat := (b + 2 ^ 32 - a % 2 ^ 32) % 2 ^ 32

/-- The second generation number is the first or follows it (R190). -/
def genLe (a b : Nat) : Bool := genDist a b < 2 ^ 31

/-- The member takes part in generation g (R190). -/
def HMember.inGen (m : HMember) (g : Nat) : Bool := genLe m.first g && (m.last.map fun l => genLe g l).getD true

/-- The arrivals of a member that generations before g have not used up (R190): A − q × (g − J), which software keeps below
2^31. -/
def HMember.lead (m : HMember) (g : Nat) : Nat := genDist (m.quota * genDist m.first g % 2 ^ 32) m.count

/-- The open generation has had an arrival counted towards it (R190). -/
def HGroup.isStarted (g : HGroup) : Bool := g.members.any fun m => m.inGen g.completed && 0 < m.lead g.completed

/-- The open generation is complete (R190). -/
def HGroup.canComplete (g : HGroup) : Bool :=
  let l := g.members.filter fun m => m.inGen g.completed
  !l.isEmpty && l.all fun m => m.quota ≤ m.lead g.completed

/-- Generations complete in order, one at a time, modulo 2^32; members whose last generation is complete leave (R190). -/
def HGroup.advance : Nat → HGroup → HGroup
  | 0, g => g
  | n + 1, g =>
    if g.canComplete then
      HGroup.advance n
        { completed := (g.completed + 1) % 2 ^ 32
          members := g.members.filter fun m => m.last ≠ some g.completed }
    else g

/-- A group after every generation that its arrivals cover. -/
def HGroup.settled (g : HGroup) : HGroup := g.advance ((g.members.map fun m => m.lead g.completed).sum + 1)

/-- The member of a block. -/
def HGroup.member (g : HGroup) (pkg handle : Nat) : Option HMember :=
  g.members.find? fun m => m.pkg = pkg && m.handle = handle

/-- Change the member of a block. -/
def HGroup.updMember (g : HGroup) (pkg handle : Nat) (f : HMember → HMember) : HGroup :=
  { g with members := g.members.map fun m => if m.pkg = pkg && m.handle = handle then f m else m }

/-- hjoin at the home agent: D and E, and the group after it (R190, R192). -/
def HGroup.join (g : HGroup) (pkg handle quota : Nat) : Option Nat × Nat × HGroup :=
  if (g.member pkg handle).isSome then (none, 1, g)
  else if 65536 ≤ g.members.length then (none, 2, g)
  else if 1048576 < quota then (none, 3, g)
  else
    let j := if g.isStarted then (g.completed + 1) % 2 ^ 32 else g.completed
    (some j, 0, { g with members := g.members ++ [⟨pkg, handle, countOf quota, j, 0, none⟩] })

/-- A member's count once it has arrived for every generation up to its last (R192). -/
def HMember.filled (m : HMember) (l : Nat) : HMember :=
  { m with count := m.quota * (genDist m.first l + 1) % 2 ^ 32, last := some l }

/-- hleave at the home agent: D and E, and the group after it (R190, R192). A pending member leaves without having taken
part. -/
def HGroup.leave (g : HGroup) (pkg handle : Nat) : Option Nat × Nat × HGroup :=
  match g.member pkg handle with
  | none => (some 0xFFFFFFFF, 1, g)
  | some m =>
    if genLe m.first g.completed then
      (some g.completed, 0, g.updMember pkg handle fun m => m.filled g.completed)
    else
      (some (m.first + 2 ^ 32 - 1), 0,
       { g with members := g.members.filter fun x => !(x.pkg = pkg && x.handle = handle) })

/-- Token t is complete when C generations are (R190). -/
def tokenDone (completed t : Nat) : Bool :=
  let d := (completed + 2 ^ 32 - t % 2 ^ 32) % 2 ^ 32
  1 ≤ d && d ≤ 2 ^ 31

namespace State

/-- A Harness group of a context as this package knows it. -/
def hgroup (s : State) (asid grp : Nat) : HGroup :=
  match s.ctx? asid with
  | some c => c.harness.lookD grp ⟨0, []⟩
  | none => ⟨0, []⟩

/-- Put a Harness group. -/
def setHgroup (s : State) (asid grp : Nat) (g : HGroup) : State :=
  s.updCtx asid fun c => { c with harness := c.harness.ins grp g }

/-- The context's Harness groups live on this package (R189). -/
def isHome (s : State) (asid : Nat) : Bool := ((s.ctx? asid).map fun c => decide (c.home = s.pkg)).getD false

/-- The waiters of a group whose generation is complete become ready (R190, R197). -/
def wakeHarness (s : State) (asid grp completed : Nat) : State :=
  s.wake fun key b =>
    key / 2 ^ 60 = 0x2 && field key 32 8 = grp && tokenDone completed (key % 2 ^ 32) &&
    (s.blocks.look b).map Block.asid = some asid

/-- The home agent settles a group: generations complete, local waiters wake, other packages are told (R190). -/
def settleHarness (s : State) (asid grp : Nat) (g : HGroup) : State :=
  let g' := g.settled
  let s := s.setHgroup asid grp g'
  if g'.completed = g.completed then s
  else
    let s := s.wakeHarness asid grp g'.completed
    if 1 < s.domain.length then s.send (.harnessDone asid grp g'.completed) else s

/-- The home agent counts arrivals of a member (R190, R192). -/
def countArrival (s : State) (asid grp pkg handle n : Nat) : State :=
  s.settleHarness asid grp
    ((s.hgroup asid grp).updMember pkg handle fun m => { m with count := (m.count + n) % 2 ^ 32 })

/-- A membership of a block ends as hleave ends it (R194). -/
def endMembership (s : State) (asid grp pkg handle : Nat) : State :=
  if ((s.hgroup asid grp).member pkg handle).isNone then s
  else if s.isHome asid then s.settleHarness asid grp ((s.hgroup asid grp).leave pkg handle).2.2
  else
    (s.setHgroup asid grp ((s.hgroup asid grp).leave pkg handle).2.2).send (.harnessMember asid grp pkg handle false 0)

/-- Every membership of a block ends (R194). -/
def endMemberships (s : State) (asid pkg handle : Nat) : State :=
  match s.ctx? asid with
  | none => s
  | some c => c.harness.keys.foldl (fun s g => s.endMembership asid g pkg handle) s

/-- An incoming write that will bring nothing: its register keeps its value. A slot of a record is complete with it (R131). -/
def cancelIncoming (s : State) (wid : Nat) : State :=
  if wid = 0 then s
  else
    let hit := s.records.filter fun p => p.2.incoming.any fun i => i.wid = wid
    let s : State :=
      { s with threads := s.threads.map fun p => (p.1, { p.2 with incoming := p.2.incoming.filter fun i => i.wid ≠ wid })
               records := s.records.map fun p =>
                 if p.2.incoming.any fun i => i.wid = wid then (p.1, { p.2 with landed := p.2.landed ++ [wid] }) else p }
    (hit.map fun p => p.2.unit).foldl settleUnit (hit.foldl (fun s p => s.syncRecord p.1) s)

end State

/-- The group that a Harness instruction names (R185). -/
def grpOf (h : Head) (grp : Nat) (t : Thread) : Nat := (t.rd h.a 32 + grp) % 256

/-- A thread moves past an instruction with results D and E on their way (R21, R129): the serials of both. -/
def State.sendTwo (s : State) (k : Nat) (t : Thread) (i : Instr) (h : Head) : Nat × Nat × State :=
  let (wd, s) := s.newWid i h
  let (we, s) : Nat × State := if h.e = 0 then (0, s) else s.fresh
  let t := t.sendOff i h wd
  let t : Thread := if we = 0 then t
    else { t.younger [h.e] with incoming := (t.younger [h.e]).incoming ++ [⟨we, h.e, 32, [h.e], none⟩] }
  (wd, we, s.setThread k t)

/-- The results of hjoin and hleave: D is left unchanged where there is none (R192). -/
def State.giveTwo (s : State) (wd we : Nat) (d : Option Nat) (e : Nat) : State :=
  let s := match d with
    | some v => s.setIncoming wd (v % 2 ^ 32)
    | none => s.cancelIncoming wd
  s.setIncoming we e

/-- hjoin and hleave in one thread: at once where the home agent is on this package, else by message, whose reply the thread
waits for in its slot (R192). The copies of a paired block each issue it under their one handle (R368, log 27). -/
def memberBody (i : Instr) (grp : Nat) (join : Bool) (h : Head) (k : Nat) (t : Thread) (s : State) : State :=
  let g := grpOf h grp t
  let asid := s.asidOf k
  let handle := ((s.blockOf k).map Block.handle).getD 0
  let quota := t.rdB h.b 32
  let (wd, we, s) := s.sendTwo k t i h
  if s.isHome asid then
    let r := if join then (s.hgroup asid g).join s.pkg handle quota else (s.hgroup asid g).leave s.pkg handle
    (s.settleHarness asid g r.2.2).giveTwo wd we r.1 r.2.1
  else
    let w : HarnessWait := ⟨asid, g, handle, t.bid, t.lin, join, quota, wd, we⟩
    { s with harnessWaits := s.harnessWaits ++ [w] }.send
      (.harnessMember asid g s.pkg handle join quota)

/-- Harness instructions of a block, and everything of the thread that issued it, wait while the home agent of another package
has still to answer its hjoin or hleave (R192). -/
def State.harnessHeld (s : State) (t : Thread) (i : Instr) : Bool :=
  s.harnessWaits.any fun w => w.bid = t.bid &&
    (w.lin = t.lin || match i with
      | .hjoin .. | .hleave .. | .harr .. => true
      | _ => false)

/-- hjoin (R192). -/
def execHjoin (h : Head) (grp : Nat) (s : State) : Host.Outcome State Fault Refusal :=
  perLane (.hjoin h grp) (memberBody (.hjoin h grp) grp true) s

/-- hleave (R192). -/
def execHleave (h : Head) (grp : Nat) (s : State) : Host.Outcome State Fault Refusal :=
  perLane (.hleave h grp) (memberBody (.hleave h grp) grp false) s

/-- harr in one thread (R184, R192, R193): the generation that its count joins is J + floor(A / q), as the open generation and
what the count leaves over for it. The copies of a paired block each arrive (R368, log 27). -/
def harrBody (i : Instr) (grp : Nat) (h : Head) (k : Nat) (t : Thread) (s : State) : State :=
  let g := grpOf h grp t
  let asid := s.asidOf k
  let handle := ((s.blockOf k).map Block.handle).getD 0
  let n := countOf (t.rdB h.b 32)
  let grp := s.hgroup asid g
  match grp.member s.pkg handle with
  | none => s.trap k 0x07 0x05 g
  | some m =>
    let start := if genLe m.first grp.completed then grp.completed else m.first
    s.releasing k t.bid fun s =>
      let s := s.answer k t i h ((start + m.lead start / m.quota) % 2 ^ 32)
      if s.isHome asid then s.countArrival asid g s.pkg handle n
      else
        (s.setHgroup asid g ((s.hgroup asid g).updMember s.pkg handle fun m => { m with count := (m.count + n) % 2 ^ 32 })).send
          (.harnessArrive asid g s.pkg handle n)

/-- harr (R191 to R193). -/
def execHarr (h : Head) (grp : Nat) (s : State) : Host.Outcome State Fault Refusal :=
  perLane (.harr h grp) (harrBody (.harr h grp) grp) s

/-- hwait in one thread (R192). -/
def hwaitBody (i : Instr) (grp keep : Nat) (h : Head) (k : Nat) (t : Thread) (s : State) : State :=
  let g := grpOf h grp t
  let token := t.rdB h.b 32
  if tokenDone (s.hgroup (s.asidOf k) g).completed token then s.setThread k (t.sendOff i h 0)
  else s.parkOn k (eventKey 0x2 (g * 2 ^ 32 + token)) keep (s.logOf i 0 token 0 0)

/-- hwait (R192). -/
def execHwait (h : Head) (grp keep : Nat) (s : State) : Host.Outcome State Fault Refusal :=
  perLanePark (.hwait h grp keep) (hwaitBody (.hwait h grp keep) grp keep) s

/-- HARNESS_ARRIVAL_MESSAGE: at the home agent, arrivals of a member of another package; elsewhere, the home agent's word
that `count` generations of the group are complete (R190). -/
def execHarnessArrivalMessage (asid grp pkg handle count : Nat) (s : State) : Host.Outcome State Fault Refusal :=
  arrival 5 (if s.isHome asid then pkg else s.homeOf asid) (fun s =>
    if s.isHome asid then
      if ((s.hgroup asid grp).member pkg handle).isSome then s.countArrival asid grp pkg handle count else s
    else
      let g := s.hgroup asid grp
      if (s.ctx? asid).isNone || genLe count g.completed then s
      else
        let keep (m : HMember) : Bool := (m.last.map fun l => genLe count l).getD true
        (s.setHgroup asid grp { completed := count, members := g.members.filter keep }).wakeHarness asid grp count) s

/-- HARNESS_MEMBERSHIP_MESSAGE: at the home agent, an hjoin or hleave of another package; elsewhere, the home agent's
reply to one of this package, with its D × 4 + E in the place of the quota (R190, R192). The membership of a block that has
meanwhile been flushed ends at once (R194). -/
def execHarnessMembershipMessage (asid grp pkg handle : Nat) (join : Bool) (quota : Nat) (s : State) :
    Host.Outcome State Fault Refusal :=
  arrival 5 (if s.isHome asid then pkg else s.homeOf asid) (fun s =>
    if (s.ctx? asid).isNone then s
    else if s.isHome asid then
      let g := s.hgroup asid grp
      let r := if join then g.join pkg handle quota else g.leave pkg handle
      (s.settleHarness asid grp r.2.2).send (.harnessReply asid grp pkg handle ((r.1.getD 0) % 2 ^ 32 * 4 + r.2.1))
    else
      match s.harnessWaits.find? fun w => w.asid = asid && w.grp = grp && w.handle = handle && w.join = join with
      | none => s
      | some w =>
        let g := s.hgroup asid grp
        let e := quota % 4
        let v := quota / 4
        let g' : HGroup :=
          if e ≠ 0 then g
          else if join then { g with members := g.members ++ [⟨s.pkg, handle, countOf w.quota, v, 0, none⟩] }
          else
            match g.member s.pkg handle with
            | none => g
            | some m =>
              if genLe m.first v then g.updMember s.pkg handle fun m => m.filled v
              else { g with members := g.members.filter fun x => !(x.pkg = s.pkg && x.handle = handle) }
        let s := { s with harnessWaits := s.harnessWaits.erase w }
        let s := (s.setHgroup asid grp g').giveTwo w.widD w.widE
          (if e = 0 then some v else if join then none else some 0xFFFFFFFF) e
        if s.blocks.any fun p => p.1 = w.bid && p.2.handle = handle then s else s.endMembership asid grp s.pkg handle) s

/-! ### Signals by name -/

/-- A dropped signal is counted in DEADSIG (R198). -/
def State.dropSignal (s : State) (asid why : Nat) : State :=
  let v := s.regs.deadsig.toNat
  let n := min (2 ^ 48 - 1) (v % 2 ^ 48 + 1)
  let ovf := bit v 63 || n = 2 ^ 48 - 1
  { s with regs := { s.regs with
      deadsig := BitVec.ofNat 64 (b2n ovf * 2 ^ 63 + asid % 512 * 2 ^ 54 + why * 2 ^ 48 + n) } }

/-- The block is saved, or on a core that is power-gated (R196, R197). While it is being saved it is on its core still. -/
def State.notResident (s : State) (b : Block) : Bool :=
  (match b.state with
   | .saved _ => true
   | _ => false) || (s.core b.core).gated

/-- The barrier-object record (R362). -/
def signalRecord (name count : Nat) (bytes : Bool) : Nat := recordOf [(0, 8, name), (8, 4, count), (12, 1, b2n bytes)]

/-- Apply a signal to a resident block's object, or drop it (R196). -/
def State.signalNow (s : State) (asid bid obj name count : Nat) (bytes : Bool) : State :=
  match s.objArrive bid obj count (b2n bytes) with
  | some s' => s'
  | none => (s.dropSignal asid 0x03).report asid 0x26 0x03 (signalRecord name count bytes)

/-- A signal store entry of a block adds every count (R197). -/
def holdSignal (l : List HeldSignal) (asid bid obj : Nat) (bytes : Bool) (count : Nat) : List HeldSignal :=
  let same (x : HeldSignal) : Bool := x.asid = asid && x.bid = bid && x.obj = obj && x.bytes = bytes
  if l.any same then l.map fun x => if same x then { x with count := x.count + count } else x
  else l ++ [⟨asid, bid, obj, bytes, count⟩]

/-- A signal at its target package: applied, held or dropped (R196, R197); both copies of a paired block receive it. No live
block has handle 0 (R55). -/
def State.applySignal (s : State) (asid name count : Nat) (bytes : Bool) : State :=
  let obj := field name 4 17 * 16
  let handle := field name 22 32
  match s.ctx? asid, s.blocks.filter fun p => p.2.asid = asid && p.2.handle = handle && handle ≠ 0 with
  | none, _ => s.dropSignal asid 0x01
  | some _, [] => s.dropSignal asid 0x02
  | some _, l =>
    l.foldl (fun s p =>
      if s.notResident p.2 then { s with signals := holdSignal s.signals asid p.1 obj bytes count }
      else s.signalNow asid p.1 obj name count bytes) s

/-- The object name of an object of this package (R195). -/
def State.nameOf (s : State) (handle obj : Nat) : Nat := s.pkg * 2 ^ 54 + handle * 2 ^ 22 + obj

/-- Signal store entries of a block that is resident again are applied in the order of their first signals (R197). -/
def State.releaseSignals (s : State) (bid : Nat) : State :=
  match s.blocks.look bid with
  | none => s
  | some b =>
    let (mine, rest) := s.signals.partition fun x => x.asid = b.asid && x.bid = bid
    mine.foldl (fun s x => s.signalNow x.asid bid x.obj (s.nameOf b.handle x.obj) x.count x.bytes)
      { s with signals := rest }

/-- An object name is malformed: a RES0 bit, or a package beyond the domain (R195, R196). -/
def State.badName (s : State) (name : Nat) : Bool :=
  field name 0 4 ≠ 0 || bit name 21 || !(field name 54 10 = s.pkg || s.domain.contains (field name 54 10))

/-- hsig in one thread (R196). The copies of a paired block each send it (R368, log 27). -/
def hsigBody (i : Instr) (bytes : Bool) (h : Head) (k : Nat) (t : Thread) (s : State) : State :=
  let name := t.rd h.a 64
  let n := t.rdB h.b 32
  if s.badName name then s.trap k 0x01 0x02 0
  else
    let asid := s.asidOf k
    s.releasing k t.bid fun s =>
      let s := s.setThread k (t.sendOff i h 0)
      if field name 54 10 = s.pkg then s.applySignal asid name n bytes else s.send (.signal asid name n bytes)

/-- hsig (R195, R196). -/
def execHsig (h : Head) (bytes : Bool) (s : State) : Host.Outcome State Fault Refusal :=
  perLane (.hsig h bytes) (hsigBody (.hsig h bytes) bytes) s

/-- HSIG_APPLY: a signal from another package arrives (R196). -/
def execHsigApply (asid name count : Nat) (bytes : Bool) (s : State) : Host.Outcome State Fault Refusal :=
  arrivalAny 5 (fun s => s.applySignal asid name count bytes) s

/-- POWER_GATED_CORE_WAKE: held signals of the blocks of a core that has power again are applied (R196, R197). -/
def execPowerGatedCoreWake (core : Nat) (s : State) : Host.Outcome State Fault Refusal :=
  event (fun s =>
    if (s.core core).gated then
      let s := s.updCore core fun c => { c with gated := false }
      (s.blocks.filter fun p => p.2.core = core && p.2.state = .running).foldl (fun s p => s.releaseSignals p.1) s
    else s) s

end Sys2Proof.Machine
end

