-- ==== Sys2Proof/Machine/Float.lean ====
section
/-! DEFINITION. Row 0x5: floating-point arithmetic, packed 16-bit forms, comparison, class, rounding to integral and
scaling (R105 to R113). -/

namespace Sys2Proof.Machine

/-- The rounding that an instruction's modifiers ask for. -/
def modRound (m : ModA) : Round := { m := m.rnd, sat := m.sat, ftz := m.ftz }

/-- Operand A of a floating-point operation as a pattern. -/
def aFp (h : Head) (t : Thread) : Nat := t.rd h.a h.ty.regWidth
/-- Operand C of a floating-point operation as a pattern. -/
def cFp (h : Head) (t : Thread) : Nat := t.rd h.c h.ty.regWidth
/-- Operand B of a floating-point operation as a pattern: an IMM22 immediate is a binary32 value, converted (R27). -/
def bFp (m : ModA) (h : Head) (t : Thread) : Nat :=
  match h.b with
  | .imm22 v => (fmtOf h.ty).ofImm m.rnd v.toNat
  | b => t.rdB b h.ty.regWidth
/-- Operand B of a packed form: an immediate fills both halves (R27, R108). -/
def bFp2 (m : ModA) (h : Head) (t : Thread) : Nat :=
  match h.b with
  | .imm22 v => (fmtOf h.ty).ofImm m.rnd v.toNat * (2 ^ 16 + 1)
  | b => t.rdB b 32

/-- A pattern with its events as a result. -/
def resOf (x : Nat × Events) : Res := { d := x.1, ev := x.2 }

/-- Two halves, each computed, rounded and counted on its own (R108). -/
def halves (g : Nat → Nat × Events) : Res :=
  { d := (g 0).1 + (g 1).1 * 2 ^ 16, ev := (g 0).2.plus (g 1).2 }

/-- Half i of a packed operand. -/
def half (v i : Nat) : Nat := field v (16 * i) 16

/-- fadd (R107). -/
def faddRes (m : ModA) (h : Head) (t : Thread) : Res := resOf ((fmtOf h.ty).addP (modRound m) (aFp h t) (bFp m h t))
/-- fsub (R107). -/
def fsubRes (m : ModA) (h : Head) (t : Thread) : Res := resOf ((fmtOf h.ty).subP (modRound m) (aFp h t) (bFp m h t))
/-- fmul (R107). -/
def fmulRes (m : ModA) (h : Head) (t : Thread) : Res := resOf ((fmtOf h.ty).mulP (modRound m) (aFp h t) (bFp m h t))
/-- fma (R107). -/
def fmaRes (m : ModA) (h : Head) (t : Thread) : Res :=
  resOf ((fmtOf h.ty).fmaP (modRound m) (aFp h t) (bFp m h t) (cFp h t))
/-- fmin (R109). -/
def fminRes (m : ModA) (h : Head) (t : Thread) : Res := resOf ((fmtOf h.ty).pickP m.ftz false (aFp h t) (bFp m h t))
/-- fmax (R109). -/
def fmaxRes (m : ModA) (h : Head) (t : Thread) : Res := resOf ((fmtOf h.ty).pickP m.ftz true (aFp h t) (bFp m h t))

/-- fadd2 (R108). -/
def fadd2Res (m : ModA) (h : Head) (t : Thread) : Res :=
  halves fun i => (fmtOf h.ty).addP (modRound m) (half (t.rd h.a 32) i) (half (bFp2 m h t) i)
/-- fmul2 (R108). -/
def fmul2Res (m : ModA) (h : Head) (t : Thread) : Res :=
  halves fun i => (fmtOf h.ty).mulP (modRound m) (half (t.rd h.a 32) i) (half (bFp2 m h t) i)
/-- fma2 (R108). -/
def fma2Res (m : ModA) (h : Head) (t : Thread) : Res :=
  halves fun i => (fmtOf h.ty).fmaP (modRound m) (half (t.rd h.a 32) i) (half (bFp2 m h t) i) (half (t.rd h.c 32) i)
/-- fmin2 (R108). -/
def fmin2Res (m : ModA) (h : Head) (t : Thread) : Res :=
  halves fun i => (fmtOf h.ty).pickP m.ftz false (half (t.rd h.a 32) i) (half (bFp2 m h t) i)
/-- fmax2 (R108). -/
def fmax2Res (m : ModA) (h : Head) (t : Thread) : Res :=
  halves fun i => (fmtOf h.ty).pickP m.ftz true (half (t.rd h.a 32) i) (half (bFp2 m h t) i)

/-- Conditions of fcmp on two values (R110). -/
def fcondHolds (c : FCond) (a b : Num) : Bool :=
  if a = .nan || b = .nan then c = .ne || c = .un
  else
    match c, Num.cmp a b with
    | .eq, o => o = .eq
    | .ne, o => o ≠ .eq
    | .lt, o => o = .lt
    | .le, o => o ≠ .gt
    | .gt, o => o = .gt
    | .ge, o => o ≠ .lt
    | .un, _ => false
    | .or, _ => true

/-- fcmp (R110). -/
def fcmpRes (m : ModA) (c : FCond) (h : Head) (t : Thread) : Res :=
  let f := fmtOf h.ty
  let a := f.operand m.ftz (aFp h t)
  let b := f.operand m.ftz (bFp m h t)
  { d := b2n (fcondHolds c (f.value a.1) (f.value b.1)), ev := a.2.plus b.2 }

/-- The class mask (R111): 0 −∞, 1 to 3 negative normal, subnormal and zero, 4 to 6 the positive ones, 7 +∞, 8 NaN. -/
def classBit (f : Fmt) (v : Nat) : Nat :=
  match f.value v with
  | .nan => 8
  | .inf neg => if neg then 0 else 7
  | .fin neg m _ =>
    if m = 0 then (if neg then 3 else 4)
    else if f.subnormal v then (if neg then 2 else 5) else (if neg then 1 else 6)

/-- The exponent of fclass.exp (R111). -/
def expOf (f : Fmt) (v : Nat) : Nat :=
  match f.value v with
  | .fin _ m e => if m = 0 then 0x80000000 else wrap ((log2 m : Int) + e) 32
  | _ => 0x7FFFFFFF

/-- fclass (R111). -/
def fclassRes (exp : Bool) (h : Head) (t : Thread) : Res :=
  let f := fmtOf h.ty
  { d := if exp then expOf f (aFp h t) else 2 ^ classBit f (aFp h t) }

/-- fround on a pattern (R112): an integral value of the format, a zero result with the sign of a. -/
def Fmt.roundP (f : Fmt) (m : Rnd) (ftz : Bool) (a : Nat) : Nat × Events :=
  let (a, x) := f.operand ftz a
  match f.value a with
  | .nan => (f.canon, x.plus .oneNan)
  | .inf _ => (a, x)
  | .fin neg n e =>
    if n = 0 || 0 ≤ e then (a, x)
    else ((f.round {} (.fin neg (roundShift m neg n (-e) false) 0)).1, x)

/-- fround (R112). -/
def froundRes (m : ModA) (h : Head) (t : Thread) : Res := resOf ((fmtOf h.ty).roundP m.rnd m.ftz (aFp h t))

/-- fscale (R113): B is a signed 32-bit integer, an IMM22 immediate sign-extended. -/
def fscaleRes (m : ModA) (h : Head) (t : Thread) : Res :=
  let f := fmtOf h.ty
  let a := f.operand m.ftz (aFp h t)
  let r := f.round (modRound m) ((f.value a.1).scale (toInt (t.rdB h.b 32) 32))
  { d := r.1, ev := a.2.plus r.2 }

/-! ### Meanings -/

/-- fadd (R107). -/
def execFadd (h : Head) (m : ModA) (s : State) : Host.Outcome State Fault Refusal :=
  alu (.fadd h m) m.tid (faddRes m) s

/-- fsub (R107). -/
def execFsub (h : Head) (m : ModA) (s : State) : Host.Outcome State Fault Refusal :=
  alu (.fsub h m) m.tid (fsubRes m) s

/-- fmul (R107). -/
def execFmul (h : Head) (m : ModA) (s : State) : Host.Outcome State Fault Refusal :=
  alu (.fmul h m) m.tid (fmulRes m) s

/-- fma (R107). -/
def execFma (h : Head) (m : ModA) (s : State) : Host.Outcome State Fault Refusal :=
  alu (.fma h m) m.tid (fmaRes m) s

/-- fmin (R109). -/
def execFmin (h : Head) (m : ModA) (s : State) : Host.Outcome State Fault Refusal :=
  alu (.fmin h m) m.tid (fminRes m) s

/-- fmax (R109). -/
def execFmax (h : Head) (m : ModA) (s : State) : Host.Outcome State Fault Refusal :=
  alu (.fmax h m) m.tid (fmaxRes m) s

/-- fcmp (R110). -/
def execFcmp (h : Head) (m : ModA) (cond : FCond) (s : State) : Host.Outcome State Fault Refusal :=
  alu (.fcmp h m cond) m.tid (fcmpRes m cond) s

/-- fclass (R111). -/
def execFclass (h : Head) (m : ModA) (exp : Bool) (s : State) : Host.Outcome State Fault Refusal :=
  alu (.fclass h m exp) m.tid (fclassRes exp) s

/-- fround (R112). -/
def execFround (h : Head) (m : ModA) (s : State) : Host.Outcome State Fault Refusal :=
  alu (.fround h m) m.tid (froundRes m) s

/-- fscale (R113). -/
def execFscale (h : Head) (m : ModA) (s : State) : Host.Outcome State Fault Refusal :=
  alu (.fscale h m) m.tid (fscaleRes m) s

/-- fadd2 (R108). -/
def execFadd2 (h : Head) (m : ModA) (s : State) : Host.Outcome State Fault Refusal :=
  alu (.fadd2 h m) m.tid (fadd2Res m) s

/-- fmul2 (R108). -/
def execFmul2 (h : Head) (m : ModA) (s : State) : Host.Outcome State Fault Refusal :=
  alu (.fmul2 h m) m.tid (fmul2Res m) s

/-- fma2 (R108). -/
def execFma2 (h : Head) (m : ModA) (s : State) : Host.Outcome State Fault Refusal :=
  alu (.fma2 h m) m.tid (fma2Res m) s

/-- fmin2 (R108). -/
def execFmin2 (h : Head) (m : ModA) (s : State) : Host.Outcome State Fault Refusal :=
  alu (.fmin2 h m) m.tid (fmin2Res m) s

/-- fmax2 (R108). -/
def execFmax2 (h : Head) (m : ModA) (s : State) : Host.Outcome State Fault Refusal :=
  alu (.fmax2 h m) m.tid (fmax2Res m) s

end Sys2Proof.Machine
end

