-- ==== Sys2Proof/Machine/Integer.lean ====
section
/-! DEFINITION. Rows 0x2, 0x3 and 0x4: integer arithmetic, logic, shifts, bit fields, counts, moves, extension and
64-bit pair arithmetic (R81 to R91). -/

namespace Sys2Proof.Machine

/-- An exact integer result, wrapped, or limited and counted under SAT (R81, R83). -/
def intRes (t : Ty) (sat : Bool) (x : Int) : Res :=
  if sat then { d := intOut t (clampInt x t), ev := .ifSat (clampInt x t ≠ x) } else { d := intOut t x }

/-- Operand A of an integer operation as a value. -/
def aInt (h : Head) (t : Thread) : Int := intVal h.ty (t.rd h.a h.ty.regWidth)
/-- Operand B of an integer operation as a value. -/
def bInt (h : Head) (t : Thread) : Int := intVal h.ty (t.rdB h.b h.ty.regWidth)
/-- Operand C of an integer operation as a value. -/
def cInt (h : Head) (t : Thread) : Int := intVal h.ty (t.rd h.c h.ty.regWidth)
/-- Operand A as a pattern of the type's width. -/
def aPat (h : Head) (t : Thread) : Nat := t.rd h.a h.ty.regWidth
/-- Operand B as a pattern of the type's width. -/
def bPat (h : Head) (t : Thread) : Nat := t.rdB h.b h.ty.regWidth
/-- Operand B as a 32-bit pattern. -/
def b32 (h : Head) (t : Thread) : Nat := t.rdB h.b 32

/-- Conditions of cmp and cmp64 on values (R85). -/
def condHolds (c : Cond) (a b : Int) : Bool :=
  match c with
  | .eq => a = b
  | .ne => a ≠ b
  | .lt => a < b
  | .le => a ≤ b
  | .gt => b < a
  | .ge => b ≤ a

/-! ### Results -/

/-- add, add64 (R83). -/
def addRes (m : ModA) (h : Head) (t : Thread) : Res := intRes h.ty m.sat (aInt h t + bInt h t)
/-- sub, sub64 (R83). -/
def subRes (m : ModA) (h : Head) (t : Thread) : Res := intRes h.ty m.sat (aInt h t - bInt h t)
/-- mul, mul64 (R83). -/
def mulRes (m : ModA) (h : Head) (t : Thread) : Res := intRes h.ty m.sat (aInt h t * bInt h t)
/-- mad (R83). -/
def madRes (m : ModA) (h : Head) (t : Thread) : Res := intRes h.ty m.sat (aInt h t * bInt h t + cInt h t)
/-- mulhi: the upper half of the exact product (R83). -/
def mulhiRes (h : Head) (t : Thread) : Res := { d := wrap (aInt h t * bInt h t / 2 ^ 32) 32 }
/-- mulw: the exact product (R83). -/
def mulwRes (h : Head) (t : Thread) : Res := { d := wrap (aInt h t * bInt h t) 64 }

/-- addc: 32-bit sum with carry in and out (R84). -/
def addcRes (h : Head) (t : Thread) : Res :=
  let x := t.rd h.a 32 + t.rdB h.b 32 + t.rd h.c 32 % 2
  { d := x % 2 ^ 32, e := some (b2n (2 ^ 32 ≤ x)) }
/-- subc: 32-bit difference with borrow in and out (R84). -/
def subcRes (h : Head) (t : Thread) : Res :=
  let x : Int := t.rd h.a 32 - t.rdB h.b 32 - (t.rd h.c 32 % 2 : Nat)
  { d := wrap x 32, e := some (b2n (x < 0)) }

/-- min, min64 (R85). -/
def minRes (h : Head) (t : Thread) : Res :=
  { d := intOut h.ty (if aInt h t ≤ bInt h t then aInt h t else bInt h t) }
/-- max, max64 (R85). -/
def maxRes (h : Head) (t : Thread) : Res :=
  { d := intOut h.ty (if bInt h t ≤ aInt h t then aInt h t else bInt h t) }
/-- abs (R85). -/
def absRes (m : ModA) (h : Head) (t : Thread) : Res := intRes h.ty m.sat ((aInt h t).natAbs : Int)
/-- cmp, cmp64: a predicate (R85). -/
def cmpRes (c : Cond) (h : Head) (t : Thread) : Res := { d := b2n (condHolds c (aInt h t) (bInt h t)) }
/-- sel (R85). -/
def selRes (h : Head) (t : Thread) : Res := { d := if bit (t.rd h.c 32) 0 then aPat h t else bPat h t }

/-- The index of lea (R86). -/
def leaIndex (h : Head) (t : Thread) : Int := if h.ty = .s32 then toInt (b32 h t) 32 else b32 h t
/-- lea: no address bits are checked (R86). -/
def leaRes (sh : Nat) (h : Head) (t : Thread) : Res := { d := wrap (t.rd h.a 64 + leaIndex h t * 2 ^ sh) 64 }

/-- Bitwise operations on patterns (R87). -/
def andRes (h : Head) (t : Thread) : Res := { d := Nat.land (aPat h t) (bPat h t) }
/-- or (R87). -/
def orRes (h : Head) (t : Thread) : Res := { d := Nat.lor (aPat h t) (bPat h t) }
/-- xor (R87). -/
def xorRes (h : Head) (t : Thread) : Res := { d := Nat.xor (aPat h t) (bPat h t) }
/-- andn: A AND NOT B (R87). -/
def andnRes (h : Head) (t : Thread) : Res :=
  { d := Nat.land (aPat h t) (2 ^ h.ty.width - 1 - bPat h t % 2 ^ h.ty.width) }
/-- not (R87). -/
def notRes (h : Head) (t : Thread) : Res := { d := 2 ^ h.ty.width - 1 - aPat h t % 2 ^ h.ty.width }

/-- The shift count k (R87). -/
def shiftCount (h : Head) (t : Thread) : Nat := b32 h t % 256
/-- Left shift of a w-bit pattern (R87). -/
def shlRes (w : Nat) (h : Head) (t : Thread) : Res :=
  let k := shiftCount h t
  { d := if k < w then t.rd h.a w * 2 ^ k % 2 ^ w else 0 }
/-- Logical right shift (R87). -/
def shrRes (w : Nat) (h : Head) (t : Thread) : Res :=
  let k := shiftCount h t
  { d := if k < w then t.rd h.a w / 2 ^ k else 0 }
/-- Arithmetic right shift (R87). -/
def sarRes (w : Nat) (h : Head) (t : Thread) : Res :=
  { d := wrap (toInt (t.rd h.a w) w / 2 ^ (Nat.min (shiftCount h t) (w - 1))) w }
/-- Rotate left (R87). -/
def rolRes (h : Head) (t : Thread) : Res :=
  let k := shiftCount h t % 32
  let a := t.rd h.a 32
  { d := (a * 2 ^ k + a / 2 ^ (32 - k)) % 2 ^ 32 }
/-- Rotate right (R87). -/
def rorRes (h : Head) (t : Thread) : Res :=
  let k := shiftCount h t % 32
  let a := t.rd h.a 32
  { d := (a / 2 ^ k + a * 2 ^ (32 - k)) % 2 ^ 32 }

/-- Width of the field that bfe and bfi act on, cut off at bit 31 (R88). -/
def bfWidth (f : Nat) : Nat :=
  let p := f % 256
  if 32 ≤ p then 0 else Nat.min (f / 256 % 256) (32 - p)
/-- bfe (R88). -/
def bfeRes (h : Head) (t : Thread) : Res :=
  let f := b32 h t
  let w := bfWidth f
  let v := t.rd h.a 32 / 2 ^ (f % 256) % 2 ^ w
  { d := if w = 0 then 0 else if h.ty = .s32 then sx v w 32 else v }
/-- bfi (R88). -/
def bfiRes (h : Head) (t : Thread) : Res :=
  let f := b32 h t
  let mask := (2 ^ bfWidth f - 1) * 2 ^ (f % 256)
  { d := Nat.lor (Nat.land (t.rd h.c 32) (2 ^ 32 - 1 - mask)) (Nat.land (t.rd h.a 32 * 2 ^ (f % 256) % 2 ^ 32) mask) }

/-- popc (R89). -/
def popcRes (h : Head) (t : Thread) : Res := { d := popcount h.ty.width (aPat h t) }
/-- clz: the type's width when A is 0 (R89). -/
def clzRes (h : Head) (t : Thread) : Res :=
  let a := aPat h t
  { d := if a = 0 then h.ty.width else h.ty.width - 1 - log2 a }
/-- ctz: the type's width when A is 0 (R89). -/
def ctzRes (h : Head) (t : Thread) : Res := { d := (lowestOne h.ty.width 0 (aPat h t)).getD h.ty.width }

/-- The n lowest bits of a pattern in reverse order. -/
def reverseBits : Nat → Nat → Nat
  | 0, _ => 0
  | n + 1, v => v % 2 * 2 ^ n + reverseBits n (v / 2)
/-- brev (R89). -/
def brevRes (h : Head) (t : Thread) : Res := { d := reverseBits h.ty.width (aPat h t) }

/-- mov (R90). -/
def movRes (h : Head) (t : Thread) : Res := { d := aPat h t }
/-- movi (R90). -/
def moviRes (h : Head) (t : Thread) : Res := { d := bPat h t }

/-- The field width of sext and zext (R91). -/
def extWidth (h : Head) (t : Thread) : Nat :=
  let w := b32 h t % 128
  if w = 0 ∨ 32 < w then 32 else w
/-- sext (R91). -/
def sextRes (h : Head) (t : Thread) : Res := { d := sx (t.rd h.a 32) (extWidth h t) h.ty.width }
/-- zext (R91). -/
def zextRes (h : Head) (t : Thread) : Res := { d := t.rd h.a 32 % 2 ^ extWidth h t }

/-! ### Meanings -/

/-- add (R83). -/
def execAdd (h : Head) (m : ModA) (s : State) : Host.Outcome State Fault Refusal :=
  alu (.add h m) m.tid (addRes m) s

/-- sub (R83). -/
def execSub (h : Head) (m : ModA) (s : State) : Host.Outcome State Fault Refusal :=
  alu (.sub h m) m.tid (subRes m) s

/-- addc (R84). -/
def execAddc (h : Head) (m : ModA) (s : State) : Host.Outcome State Fault Refusal :=
  alu (.addc h m) m.tid addcRes s

/-- subc (R84). -/
def execSubc (h : Head) (m : ModA) (s : State) : Host.Outcome State Fault Refusal :=
  alu (.subc h m) m.tid subcRes s

/-- mul (R83). -/
def execMul (h : Head) (m : ModA) (s : State) : Host.Outcome State Fault Refusal :=
  alu (.mul h m) m.tid (mulRes m) s

/-- mulhi (R83). -/
def execMulhi (h : Head) (m : ModA) (s : State) : Host.Outcome State Fault Refusal :=
  alu (.mulhi h m) m.tid mulhiRes s

/-- mulw (R83). -/
def execMulw (h : Head) (m : ModA) (s : State) : Host.Outcome State Fault Refusal :=
  alu (.mulw h m) m.tid mulwRes s

/-- mad (R83). -/
def execMad (h : Head) (m : ModA) (s : State) : Host.Outcome State Fault Refusal :=
  alu (.mad h m) m.tid (madRes m) s

/-- min (R85). -/
def execMin (h : Head) (m : ModA) (s : State) : Host.Outcome State Fault Refusal :=
  alu (.min h m) m.tid minRes s

/-- max (R85). -/
def execMax (h : Head) (m : ModA) (s : State) : Host.Outcome State Fault Refusal :=
  alu (.max h m) m.tid maxRes s

/-- abs (R85). -/
def execAbs (h : Head) (m : ModA) (s : State) : Host.Outcome State Fault Refusal :=
  alu (.abs h m) m.tid (absRes m) s

/-- cmp (R85). -/
def execCmp (h : Head) (m : ModA) (cond : Cond) (s : State) : Host.Outcome State Fault Refusal :=
  alu (.cmp h m cond) m.tid (cmpRes cond) s

/-- sel (R85). -/
def execSel (h : Head) (m : ModA) (s : State) : Host.Outcome State Fault Refusal :=
  alu (.sel h m) m.tid selRes s

/-- lea (R86). -/
def execLea (h : Head) (m : ModA) (sh : Nat) (s : State) : Host.Outcome State Fault Refusal :=
  alu (.lea h m sh) m.tid (leaRes sh) s

/-- and (R87). -/
def execAnd (h : Head) (m : ModA) (s : State) : Host.Outcome State Fault Refusal :=
  alu (.and h m) m.tid andRes s

/-- or (R87). -/
def execOr (h : Head) (m : ModA) (s : State) : Host.Outcome State Fault Refusal :=
  alu (.or h m) m.tid orRes s

/-- xor (R87). -/
def execXor (h : Head) (m : ModA) (s : State) : Host.Outcome State Fault Refusal :=
  alu (.xor h m) m.tid xorRes s

/-- andn (R87). -/
def execAndn (h : Head) (m : ModA) (s : State) : Host.Outcome State Fault Refusal :=
  alu (.andn h m) m.tid andnRes s

/-- not (R87). -/
def execNot (h : Head) (m : ModA) (s : State) : Host.Outcome State Fault Refusal :=
  alu (.not h m) m.tid notRes s

/-- shl (R87). -/
def execShl (h : Head) (m : ModA) (s : State) : Host.Outcome State Fault Refusal :=
  alu (.shl h m) m.tid (shlRes 32) s

/-- shr (R87). -/
def execShr (h : Head) (m : ModA) (s : State) : Host.Outcome State Fault Refusal :=
  alu (.shr h m) m.tid (shrRes 32) s

/-- sar (R87). -/
def execSar (h : Head) (m : ModA) (s : State) : Host.Outcome State Fault Refusal :=
  alu (.sar h m) m.tid (sarRes 32) s

/-- rol (R87). -/
def execRol (h : Head) (m : ModA) (s : State) : Host.Outcome State Fault Refusal :=
  alu (.rol h m) m.tid rolRes s

/-- ror (R87). -/
def execRor (h : Head) (m : ModA) (s : State) : Host.Outcome State Fault Refusal :=
  alu (.ror h m) m.tid rorRes s

/-- bfe (R88). -/
def execBfe (h : Head) (m : ModA) (s : State) : Host.Outcome State Fault Refusal :=
  alu (.bfe h m) m.tid bfeRes s

/-- bfi (R88). -/
def execBfi (h : Head) (m : ModA) (s : State) : Host.Outcome State Fault Refusal :=
  alu (.bfi h m) m.tid bfiRes s

/-- popc (R89). -/
def execPopc (h : Head) (m : ModA) (s : State) : Host.Outcome State Fault Refusal :=
  alu (.popc h m) m.tid popcRes s

/-- clz (R89). -/
def execClz (h : Head) (m : ModA) (s : State) : Host.Outcome State Fault Refusal :=
  alu (.clz h m) m.tid clzRes s

/-- ctz (R89). -/
def execCtz (h : Head) (m : ModA) (s : State) : Host.Outcome State Fault Refusal :=
  alu (.ctz h m) m.tid ctzRes s

/-- brev (R89). -/
def execBrev (h : Head) (m : ModA) (s : State) : Host.Outcome State Fault Refusal :=
  alu (.brev h m) m.tid brevRes s

/-- mov (R90). -/
def execMov (h : Head) (m : ModA) (s : State) : Host.Outcome State Fault Refusal :=
  alu (.mov h m) m.tid movRes s

/-- movi (R90). -/
def execMovi (h : Head) (m : ModA) (s : State) : Host.Outcome State Fault Refusal :=
  alu (.movi h m) m.tid moviRes s

/-- sext (R91). -/
def execSext (h : Head) (m : ModA) (s : State) : Host.Outcome State Fault Refusal :=
  alu (.sext h m) m.tid sextRes s

/-- zext (R91). -/
def execZext (h : Head) (m : ModA) (s : State) : Host.Outcome State Fault Refusal :=
  alu (.zext h m) m.tid zextRes s

/-- add64 (R83). -/
def execAdd64 (h : Head) (m : ModA) (s : State) : Host.Outcome State Fault Refusal :=
  alu (.add64 h m) m.tid (addRes m) s

/-- sub64 (R83). -/
def execSub64 (h : Head) (m : ModA) (s : State) : Host.Outcome State Fault Refusal :=
  alu (.sub64 h m) m.tid (subRes m) s

/-- mul64 (R83). -/
def execMul64 (h : Head) (m : ModA) (s : State) : Host.Outcome State Fault Refusal :=
  alu (.mul64 h m) m.tid (mulRes m) s

/-- shl64 (R87). -/
def execShl64 (h : Head) (m : ModA) (s : State) : Host.Outcome State Fault Refusal :=
  alu (.shl64 h m) m.tid (shlRes 64) s

/-- shr64 (R87). -/
def execShr64 (h : Head) (m : ModA) (s : State) : Host.Outcome State Fault Refusal :=
  alu (.shr64 h m) m.tid (shrRes 64) s

/-- sar64 (R87). -/
def execSar64 (h : Head) (m : ModA) (s : State) : Host.Outcome State Fault Refusal :=
  alu (.sar64 h m) m.tid (sarRes 64) s

/-- cmp64 (R85). -/
def execCmp64 (h : Head) (m : ModA) (cond : Cond) (s : State) : Host.Outcome State Fault Refusal :=
  alu (.cmp64 h m cond) m.tid (cmpRes cond) s

/-- min64 (R85). -/
def execMin64 (h : Head) (m : ModA) (s : State) : Host.Outcome State Fault Refusal :=
  alu (.min64 h m) m.tid minRes s

/-- max64 (R85). -/
def execMax64 (h : Head) (m : ModA) (s : State) : Host.Outcome State Fault Refusal :=
  alu (.max64 h m) m.tid maxRes s

end Sys2Proof.Machine
end

