-- ==== Sys2Proof/Machine/Convert.lean ====
section
/-! DEFINITION. Row 0x6: conversions between formats (R117 to R119), packing and unpacking (R120 to R122, R95) and the
counter-based random numbers (R123 to R125). -/

namespace Sys2Proof.Machine

/-- An integer clamped to a type, with its `sat` event (R118). -/
def clampRes (t : Ty) (x : Int) (ev : Events) : Res :=
  { d := intOut t (clampInt x t), ev := ev.plus (.ifSat (clampInt x t ≠ x)) }

/-- A float value to an integer type: NaN gives 0, and everything else clamps (R118). -/
def toIntRes (t : Ty) (m : Rnd) (x : Num) (ev : Events) : Res :=
  match x with
  | .nan => { d := 0, ev := ev.plus .oneNan }
  | .inf neg => { d := intOut t (if neg then intMin t else intMax t), ev := ev.plus .oneSat }
  | .fin neg n e => clampRes t (roundInt m neg n e) ev

/-- A float value to W64 at exponent E (R119). -/
def toW64 (x : Num) (e : Int) : Int × Events :=
  let top (neg : Bool) : Int := if neg then -(2 ^ 63 - 1) else 2 ^ 63 - 1
  match x with
  | .nan => (windowNaN, .oneNan)
  | .inf neg => (top neg, .oneSat)
  | .fin neg n f =>
    let g := f - (e - 40)
    if n = 0 then (0, .none)
    else if 64 ≤ (log2 n : Int) + g then (top neg, .oneSat)
    else
      let v := roundInt .rne neg n g
      if 2 ^ 63 - 1 < v.natAbs then (top neg, .oneSat) else (v, if v = 0 then .oneFlush else .none)

/-- A value converted from type ts to type td; `e` is the exponent that B gives for w64 (R117 to R119). -/
def cvtVal (m : ModA) (ovn : Bool) (td ts : Ty) (a : Nat) (e : Int) : Res :=
  let r : Round := { modRound m with ovn := ovn }
  if td = .w64 then
    let f := fmtOf ts
    let (v, x) := f.operand m.ftz a
    let (w, y) := toW64 (f.value v) e
    { d := w64Pack w e, ev := x.plus y }
  else if ts = .w64 then
    resOf ((fmtOf td).round r (if w64M a = windowNaN then .nan else (Num.ofInt (w64M a)).scale (w64E a - 40)))
  else if ts.isFloat then
    let f := fmtOf ts
    let (v, x) := f.operand m.ftz a
    if td.isFloat then
      let (d, y) := (fmtOf td).round r (f.value v)
      { d := d, ev := x.plus y }
    else toIntRes td m.rnd (f.value v) x
  else if td.isFloat then resOf ((fmtOf td).round r (Num.ofInt (intVal ts a)))
  else intRes td m.sat (intVal ts a)

/-- cvt (R117 to R119). -/
def cvtRes (m : ModA) (ovn : Bool) (h : Head) (t : Thread) : Res :=
  cvtVal m ovn h.ty h.ty2 (t.rd h.a h.ty2.regWidth) (toInt (t.rdB h.b 32 % 2 ^ 16) 16)

/-! ### pack, unpack -/

/-- A 4-bit code of a small integer. -/
def nibble (x : Int) : Nat := wrap x 4

/-- A partner written as a plain code, clamped to −7 to +7 (R121). -/
def plainCode (x : Int) : Nat × Events :=
  if x < -7 then (nibble (-7), .oneSat) else if 7 < x then (nibble 7, .oneSat) else (nibble x, .none)

/-- k of the power of two nearest to an outlier magnitude, and its `sat` (R121). -/
def outlierExp (n : Nat) : Nat × Events :=
  if 1024 < n then (10, .oneSat)
  else
    let k := log2 n
    (if 3 * 2 ^ k ≤ 2 * n then k + 1 else k, .none)

/-- The code pair of an outlier and its partner, outlier first (R121). -/
def outlierPair (o p : Int) : Nat × Nat × Events :=
  let (k, x) := outlierExp o.natAbs
  if o < 0 ∧ k = 3 then
    let (c, y) := plainCode p
    (nibble (-7), c, (x.plus .oneSat).plus y)
  else (8, b2n (o < 0) * 8 + (k - 3), x.plus (if p = 0 then .none else .oneFlush))

/-- `i4x_pair` (R121). -/
def i4xPair (a b : Int) : Nat × Nat × Events :=
  if a.natAbs ≤ 7 ∧ b.natAbs ≤ 7 then (nibble a, nibble b, .none)
  else if b.natAbs ≤ a.natAbs then outlierPair a b
  else
    let (o, p, ev) := outlierPair b a
    (p, o, ev)

/-- Operand B of pack at its source type: an IMM22 immediate is binary32 or a signed integer (R27, R120). -/
def packB (h : Head) (t : Thread) : Nat :=
  match h.b with
  | .imm22 v => if h.ty.isFloat then v.toNat * 2 ^ 10 else sx v.toNat 22 32
  | b => t.rdB b 32

/-- One source of pack as an element (R120). -/
def packElem (m : ModA) (ovn : Bool) (ty : Ty) (v : Nat) : Nat × Events :=
  if ty.isFloat then
    let f := fmtOf .f32
    let (a, x) := f.operand m.ftz v
    let (d, y) := (fmtOf ty).round { modRound m with ovn := ovn } (f.value a)
    (d, x.plus y)
  else
    let x := toInt v 32
    (wrap (clampInt x ty) ty.width, .ifSat (clampInt x ty ≠ x))

/-- Both elements of pack. -/
def packPair (m : ModA) (ovn : Bool) (h : Head) (t : Thread) : Nat × Nat × Events :=
  if h.ty = .i4x then i4xPair (toInt (t.rd h.a 32) 32) (toInt (packB h t) 32)
  else
    let (a, x) := packElem m ovn h.ty (t.rd h.a 32)
    let (b, y) := packElem m ovn h.ty (packB h t)
    (a, b, x.plus y)

/-- A word with element i of width w replaced. -/
def putElem (v w i e : Nat) : Nat := v - field v (w * i) w * 2 ^ (w * i) + e * 2 ^ (w * i)

/-- pack (R120). -/
def packRes (m : ModA) (k : Nat) (ovn : Bool) (h : Head) (t : Thread) : Res :=
  let (a, b, ev) := packPair m ovn h t
  let w := h.ty.width
  { d := putElem (putElem (t.rd h.c 32) w (2 * k) a) w (2 * k + 1) b, ev := ev }

/-- The value of element i of a word of I4X pairs, and the `nan` of an invalid pair (R95). -/
def i4xElem (v i : Nat) : Int × Events :=
  let c := field v (4 * i) 4
  let p := field v (4 * (if i % 2 = 0 then i + 1 else i - 1)) 4
  if c = 8 ∧ p = 8 then (0, .oneNan)
  else if c = 8 then ((if bit p 3 then -1 else 1) * (2 ^ (3 + p % 8) : Nat), .none)
  else if p = 8 then (0, .none)
  else (toInt c 4, .none)

/-- unpack (R122). -/
def unpackRes (m : ModA) (k : Nat) (h : Head) (t : Thread) : Res :=
  let v := t.rd h.a 32
  let w := h.ty.width
  let e := field v (w * k) w
  if h.ty.isFloat then
    let f := fmtOf h.ty
    let (a, x) := f.operand m.ftz e
    let (d, y) := (fmtOf .f32).round {} (f.value a)
    { d := d, ev := x.plus y }
  else if h.ty = .i4x then { d := wrap (i4xElem v k).1 32, ev := (i4xElem v k).2 }
  else { d := wrap (intVal h.ty e) 32 }

/-! ### rand -/

/-- 32-bit left rotation. -/
def rol32 (x k : Nat) : Nat := (x * 2 ^ k + x / 2 ^ (32 - k)) % 2 ^ 32

/-- Rotation amounts sa and sb of a round (R124). -/
def randRot (j : Nat) : Nat × Nat :=
  match j % 4 with
  | 0 => (13, 7)
  | 1 => (17, 11)
  | 2 => (9, 19)
  | _ => (21, 5)

/-- The four words of the generator. -/
structure Rand where
  x0 : Nat
  x1 : Nat
  x2 : Nat
  x3 : Nat
  deriving DecidableEq, Repr

/-- One round (R124). -/
def randRound (key : Nat) (x : Rand) (j : Nat) : Rand :=
  let kj := ((if j % 2 = 0 then field key 0 32 else field key 32 32) + (j + 1) * 0x6C8E9CF5) % 2 ^ 32
  let x0 := (x.x0 + x.x1 + kj) % 2 ^ 32
  let x3 := rol32 (Nat.xor x.x3 x0) (randRot j).1
  let x2 := (x.x2 + x3) % 2 ^ 32
  ⟨x0, rol32 (Nat.xor x.x1 x2) (randRot j).2, x2, x3⟩

/-- The four output words of a key, a step tag and a counter (R124). -/
def randWords (key tag counter : Nat) : Rand :=
  let x := (span 0 10).foldl (randRound key) ⟨field counter 0 32, field counter 32 32, field tag 0 32, field tag 32 32⟩
  ⟨(x.x0 + field key 32 32) % 2 ^ 32, x.x1, (x.x2 + field key 0 32) % 2 ^ 32, x.x3⟩

/-- rand (R123 to R125). -/
def randRes (unit : Bool) (w : Nat) (h : Head) (t : Thread) : Res :=
  let y := randWords (t.rd h.a 64) (t.rd h.c 64) (t.rdB h.b 64)
  if h.ty = .b64 then
    let v := if w % 2 = 0 then y.x0 + 2 ^ 32 * y.x1 else y.x2 + 2 ^ 32 * y.x3
    { d := if unit then ((fmtOf .f64).round {} (.fin false (v / 2 ^ 11) (-53))).1 else v }
  else
    let v := match w with
      | 0 => y.x0
      | 1 => y.x1
      | 2 => y.x2
      | _ => y.x3
    { d := if unit then ((fmtOf .f32).round {} (.fin false (v / 2 ^ 8) (-24))).1 else v }

/-! ### Meanings -/

/-- cvt (R117 to R119). -/
def execCvt (h : Head) (m : ModA) (ovn : Bool) (s : State) : Host.Outcome State Fault Refusal :=
  alu (.cvt h m ovn) m.tid (cvtRes m ovn) s

/-- pack (R120, R121). -/
def execPack (h : Head) (m : ModA) (k : Nat) (ovn : Bool) (s : State) : Host.Outcome State Fault Refusal :=
  alu (.pack h m k ovn) m.tid (packRes m k ovn) s

/-- unpack (R122). -/
def execUnpack (h : Head) (m : ModA) (k : Nat) (s : State) : Host.Outcome State Fault Refusal :=
  alu (.unpack h m k) m.tid (unpackRes m k) s

/-- rand: it has no TID and records nothing (R123 to R125). -/
def execRand (h : Head) (unit : Bool) (w : Nat) (s : State) : Host.Outcome State Fault Refusal :=
  alu (.rand h unit w) 0 (randRes unit w) s

end Sys2Proof.Machine
end

