-- ==== Sys2Proof/Machine/Engines.lean ====
section
/-! DEFINITION. Copy engines (R239 to R246, R248), publish sets (R253, R254) and the instructions copy and publish (R255 to
R257). -/

namespace Sys2Proof.Machine

/-! ### The copy request (R239) -/

/-- Types that a conversion may name (R240). -/
def copyTypes : List Ty := [.f64, .f32, .f16, .bf16, .e4m3, .e5m2, .s8, .s16, .s32, .n8, .n16, .n32]

/-- A field value or combination of R240 is broken (detail 0x03). -/
def reqFieldsBad (r : Nat) : Bool :=
  4 < field r 432 3 || 3 < reqXform r || reqOor r = 3 || reqExt r 0 = 0 || reqExt r 1 = 0 || reqExt r 2 = 0 ||
  (reqOor r = 0 && field r 368 64 ≠ 0) || (reqOor r ≠ 0 && (reqLim r 0 = 0 || reqLim r 1 = 0)) ||
  (reqXform r ≠ 3 && (field r 440 5 ≠ 0 || field r 448 5 ≠ 0 || field r 453 2 ≠ 0)) ||
  (reqXform r = 3 && !(copyTypes.contains (reqSfmt r) && copyTypes.contains (reqDfmt r) &&
    cvtPair (reqDfmt r) (reqSfmt r) && reqEsz r = tyBytes (reqDfmt r))) ||
  (reqXform r = 2 && (128 < reqExt r 1 || reqExt r 2 ≠ 1 || reqDstr r 1 ≠ 0 || reqDstr r 2 ≠ 0 || reqDst r % 128 ≠ 0))

/-- Least and greatest coordinate that is read in a dimension, `none` when none is (R241). -/
def readRange (r i n : Nat) : Option (Int × Int) :=
  let lo := reqOrg r i
  let hi := lo + n - 1
  let top : Int := reqLim r i - 1
  if reqOor r = 0 then some (0, n - 1)
  else if reqOor r = 1 then some (min (max lo 0) top, min (max hi 0) top)
  else if top < lo || hi < 0 then none
  else some (max lo 0, min hi top)

/-- Every address of some bytes, the least and the greatest as exact integers, is a 52-bit address (R240). -/
def addrsOk (lo hi : Int) : Bool := 0 ≤ lo && hi < 2 ^ 52

/-- Every source byte that a request reads lies below 2^52 (R240). -/
def srcOk (r : Nat) : Bool :=
  let (n0, n1) := if reqXform r = 1 then (reqExt r 1, reqExt r 0) else (reqExt r 0, reqExt r 1)
  match readRange r 0 n0, readRange r 1 n1 with
  | some (l0, h0), some (l1, h1) =>
    let a := spread (reqSsz r) l0 h0
    let b := spread (reqSstr r 1) l1 h1
    let c := spread (reqSstr r 2) 0 (reqExt r 2 - 1)
    addrsOk (reqSrc r + a.1 + b.1 + c.1) (reqSrc r + a.2 + b.2 + c.2 + reqSsz r - 1)
  | _, _ => true

/-- Every destination byte that a request writes lies below 2^52 (R240). -/
def dstOk (r : Nat) : Bool :=
  if reqXform r = 2 then addrsOk (reqDst r) (reqDst r + reqSize r - 1)
  else
    let b := spread (reqDstr r 1) 0 (reqExt r 1 - 1)
    let c := spread (reqDstr r 2) 0 (reqExt r 2 - 1)
    addrsOk (reqDst r + b.1 + c.1) (reqDst r + b.2 + c.2 + reqEsz r * reqExt r 0 - 1)

/-- An address of R240 is out of range (detail 0x04). -/
def reqAddrBad (r : Nat) : Bool :=
  (if reqSl r then 2 ^ 21 ≤ reqSrc r else 2 ^ 52 ≤ reqSrc r || !(srcOk r)) ||
  (if reqDl r then 2 ^ 21 ≤ reqDst r else 2 ^ 52 ≤ reqDst r || !(dstOk r))

/-- A publish set is registered (R253). -/
def State.setOpen (s : State) (asid set : Nat) : Bool :=
  match s.psetAddr asid set with
  | some a => bit (valueAt s.memory a 8) 2
  | none => false

/-- The detail of the engine-request trap of a copy request, in the order of the details (R255). -/
def State.reqTrap (s : State) (asid r : Nat) : Option Nat :=
  if packetType r ≠ 3 then some 0x01
  else if bit r 471 || field r 445 3 ≠ 0 then some 0x02
  else if reqFieldsBad r then some 0x03
  else if reqAddrBad r then some 0x04
  else if if reqCplen r then s.badName (reqCpl r) else reqCpl r ≠ 0 then some 0x05
  else if if reqPubr r then !(s.setOpen asid (reqPset r)) else reqPset r ≠ 0 then some 0x06
  else none

/-- One destination element (R241): its source address if it reads one, and its destination address. -/
def reqElem (r e : Nat) : Option Int × Int :=
  let (x0, x1, _) := reqSpace r
  let i0 := e % x0
  let i1 := e / x0 % x1
  let i2 := e / (x0 * x1)
  let (j0, j1) := if reqXform r = 1 then (i1, i0) else (i0, i1)
  let pad : Bool := reqXform r = 2 && (reqExt r 0 ≤ i0 || reqExt r 1 ≤ i1)
  let c0 := reqOrg r 0 + j0
  let c1 := reqOrg r 1 + j1
  let out : Bool := reqOor r ≠ 0 && (c0 < 0 || (reqLim r 0 : Int) ≤ c0 || c1 < 0 || (reqLim r 1 : Int) ≤ c1)
  let clamp (c : Int) (i : Nat) : Int := if out then min (max c 0) (reqLim r i - 1) else c
  let src : Int := reqSrc r + clamp c0 0 * reqSsz r + clamp c1 1 * reqSstr r 1 + i2 * reqSstr r 2
  let dst : Int :=
    if reqXform r = 2 then reqDst r + i0 * reqEsz r / 192 * 24576 + i1 * 192 + i0 * reqEsz r % 192
    else reqDst r + i0 * reqEsz r + i1 * reqDstr r 1 + i2 * reqDstr r 2
  (if pad || (out && reqOor r = 2) then none else some src, dst)

/-! ### What stops an engine -/

/-- Why an engine's access does not take place now: an engine fault (R246), a translation fault, words that no code corrects,
bytes of a peer that have to come first, a write that a peer has to answer first (R314), a stash line that has to be fetched
first, or something in memory that delays it; for a write with its physical address. -/
inductive EStop
  | reason (r : Nat)
  | trans (va reason level entry base size : Nat)
  | bad (words : List Nat)
  | need (l : Leaf) (pa va n : Nat)
  | put (l : Leaf) (pa va : Nat) (bs : List Byte)
  | fetch (no : Nat)
  | wait
  | held (pa : Nat)

/-- The value of an attempt to write at a physical address, or the reason to wait. -/
def orHeld {α : Type} (pa : Nat) (o : Option α) : Except EStop α :=
  match o with
  | some x => .ok x
  | none => .error (.held pa)

/-- The walk of an engine's access: of a core's engine, or of the hub die's as core 192. -/
def State.engineWalk (s : State) (core asid va : Nat) (a : Access) : WalkEnd :=
  if core = 192 then s.walkFor 4 asid va a else s.coreWalk core asid va a

/-- The bytes an engine reads of one piece of global memory, in a given half of a publishable page; `got` holds what
peers have returned (R246, R253, R314, R372). -/
def State.enginePiece (s : State) (core asid halves : Nat) (got : List Host.Cell) (va n : Nat) :
    Except EStop (List Byte × State) :=
  match s.engineWalk core asid va .engineRead with
  | .fault r l e b z => .error (.trans va r l e b z)
  | .leaf l =>
    let pa := l.pa va (halfOf halves l)
    if s.spaceOf l = 0 && s.bad pa n then .error (.bad (granulesOf pa n))
    else
      match s.tryRecallRead (s.spaceOf l) pa with
      | none => .error .wait
      | some s =>
        if s.spaceOf l < 2 then .ok (bytesAt (if l.tier = 3 then s.hostMemory else s.memory) pa n, s)
        else if (span va n).all fun a => (Map.look got a).isSome then
          .ok ((span va n).map fun a => (Map.look got a).getD 0, s)
        else .error (.need l pa va n)

/-- The bytes an engine reads of global memory, piece by piece. -/
def State.engineRead (s : State) (core asid halves : Nat) (got : List Host.Cell) :
    List (Nat × Nat × Nat) → Except EStop (List Byte × State)
  | [] => .ok ([], s)
  | (va, _, n) :: rest =>
    match s.enginePiece core asid halves got va n with
    | .error e => .error e
    | .ok (bs, s) =>
      match s.engineRead core asid halves got rest with
      | .error e => .error e
      | .ok (cs, s) => .ok (bs ++ cs, s)

/-- The die whose queue an engine's write enters (R289). -/
def engineDie (core pa : Nat) : Nat := if core = 192 then hubDie pa else dieOf core

/-- Write one piece of global memory as a request does (R244, R253): the shadow half of a publishable page of its set,
held while a swap that does not wait for it runs (R254). A write to a peer is done once the peer has answered it (R314). -/
def State.requestPiece (s : State) (c : CopyReq) (va : Nat) (bs : List Byte) : Except EStop State :=
  match s.engineWalk c.core c.asid va .engineWrite with
  | .fault r l e b z => .error (.trans va r l e b z)
  | .leaf l =>
    if l.pub ≠ reqPubr c.req || (l.pub && l.pset ≠ reqPset c.req) then .error (.reason 0x04)
    else if l.pub && s.swaps.any (fun w => w.asid = c.asid && w.set = l.pset && !(w.waitFor.contains c.serial)) then
      .error .wait
    else
      let pa := l.pa va (if l.pub then 1 - s.curHalf c.asid l.pset else 0)
      if 2 ≤ s.spaceOf l then if c.acked.contains va then .ok s else .error (.put l pa va bs)
      else orHeld pa (s.tryStore .hub 0 (engineDie c.core pa) c.asid c.bid pa l bs (.written c.serial va))

/-- Write global memory as a request does, piece by piece. -/
def State.requestWrite (s : State) (c : CopyReq) (bs : List Byte) : List (Nat × Nat × Nat) → Except EStop State
  | [] => .ok s
  | (va, ofs, n) :: rest =>
    match s.requestPiece c va ((bs.drop ofs).take n) with
    | .error e => .error e
    | .ok s => s.requestWrite c bs rest

/-- Why an engine's access to a stash line that is not present waits: the line is fetched first, as for a thread (log 29). -/
def State.needLine (s : State) (b : Block) (a : Alloc) (ea : Nat) : Option EStop :=
  let no := a.lineAt b.core ea
  if a.stash.isNone || (s.line no).present then none
  else if (s.line no).fetching then some .wait
  else
    match s.coreWalk b.core b.asid (a.global ea / 128 * 128) .stash with
    | .fault r l e x z => some (.trans (a.global ea / 128 * 128) r l e x z)
    | .leaf _ => some (.fetch no)

/-- The bytes an engine reads of a block's window (R157, R246, R372). -/
def State.windowRead (s : State) (b : Block) : Nat → Nat → Except EStop (List Byte)
  | _, 0 => .ok []
  | ea, n + 1 =>
    match b.allocAt (ea % 2 ^ 21) with
    | none => .error (.reason 0x02)
    | some a =>
      let x := ea % 2 ^ 21
      if s.isStale b.core (a.lineAt b.core x) a then .error (.reason 0x01)
      else
        match s.needLine b a x with
        | some e => .error e
        | none =>
          let at_ := a.lineAt b.core x * 128 + x % 128
          if s.larBad at_ 1 then .error (.bad [larWord at_])
          else
            match s.windowRead b (ea + 1) n with
            | .error e => .error e
            | .ok bs => .ok (s.larBytes b.core a x 1 ++ bs)

/-- A request has written bytes of a line: it becomes full once the request has written all 128 (R158, R244). -/
def State.markWritten (s : State) (serial bid no ea n : Nat) : State :=
  match s.copies.find? fun c => c.serial = serial with
  | none => s
  | some c =>
    let line := ea / 128
    let mask := Nat.lor (c.lines.lookD line 0) ((2 ^ n - 1) * 2 ^ (ea % 128))
    let full := mask = 2 ^ 128 - 1
    let s := { s with copies := s.copies.map fun c =>
      if c.serial = serial then { c with lines := if full then c.lines.del line else c.lines.ins line mask } else c }
    if full then s.fillLine bid no (128 * line) else s

/-- An engine writes bytes that lie in one line of a block's window (R158, R165, R244). -/
def State.windowPiece (s : State) (serial bid : Nat) (b : Block) (ea : Nat) (bs : List Byte) : Except EStop State :=
  if s.discarded serial bid ea then .ok s
  else
    match b.allocAt ea, b.allocAt (ea + bs.length - 1) with
    | some a, some _ =>
      match s.needLine b a ea with
      | some e => .error e
      | none =>
        let no := a.lineAt b.core ea
        match if a.stash.isSome then s.claimStash b (a.global ea / 128 * 128) no else some s with
        | none => .error .wait
        | some s =>
          let s := s.larWrite b.core a ea bs
          let s := if a.stash.isSome then s.setLine no { s.line no with dirty := true } else s
          let s := if a.stash.isSome && !(liveTag s.now a.tag) then s.flushLines bid b a [(ea / 128 * 128, no)] else s
          .ok (s.markWritten serial bid no ea bs.length)
    | _, _ => .error (.reason 0x02)

/-- An engine writes up to 128 bytes to a block's window. -/
def State.windowWrite (s : State) (serial bid : Nat) (b : Block) (ea : Nat) (bs : List Byte) : Except EStop State :=
  let x := ea % 2 ^ 21
  let first := 128 - x % 128
  if bs.length ≤ first then s.windowPiece serial bid b x bs
  else
    match s.windowPiece serial bid b x (bs.take first) with
    | .error e => .error e
    | .ok s => s.windowPiece serial bid b ((x + first) % 2 ^ 21) (bs.drop first)

/-! ### Moving elements -/

/-- The value of a source element (R241). -/
def State.elemRead (s : State) (c : CopyReq) (src : Int) : Except EStop (Nat × State) :=
  let n := reqSsz c.req
  if reqSl c.req then
    match s.blocks.look c.bid with
    | none => .error (.reason 0x02)
    | some b =>
      match s.windowRead b (wrap src 21) n with
      | .error e => .error e
      | .ok bs => .ok (ofBytes bs, s)
  else
    match s.engineRead c.core c.asid c.halves c.got (piecesOf (wrap src 64) n) with
    | .error e => .error e
    | .ok (bs, s) => .ok (ofBytes bs, s)

/-- Conversion of a source element, with its events (R241, R118). -/
def elemConvert (r v : Nat) : Res :=
  if reqXform r = 3 then cvtVal ⟨0, false, false, reqRnd r⟩ false (reqDfmt r) (reqSfmt r) v 0 else { d := v }

/-- Elements of the destination may lie on bytes of one another: a row is longer than the stride to the next, or a plane
than the stride to the next. -/
def dstOverlaps (r : Nat) : Bool :=
  let (x0, x1, x2) := reqSpace r
  let row : Int := x0 * reqEsz r
  let plane : Int := (x1 - 1 : Nat) * (reqDstr r 1).natAbs + row
  reqXform r ≠ 2 && ((1 < x1 && ((reqDstr r 1).natAbs : Int) < row) || (1 < x2 && ((reqDstr r 2).natAbs : Int) < plane))

/-- The bytes of destination element e that an earlier element has written (R244). -/
def sharedBytes (r e : Nat) : List Nat :=
  if dstOverlaps r then
    (span 0 (reqEsz r)).filter fun i =>
      (span 0 e).any fun k =>
        let d := (reqElem r k).2
        let a := (reqElem r e).2 + i
        d ≤ a && a < d + reqEsz r
  else []

/-- Write bytes of a destination element (R241). What goes to the window of a block that has been restarted meanwhile is
discarded (R165). -/
def State.elemStore (s : State) (c : CopyReq) (dst : Int) (bs : List Byte) : Except EStop State :=
  if reqDl c.req then
    match s.blocks.look c.bid with
    | none => .ok s
    | some b => s.windowWrite c.serial c.bid b (wrap dst 21) bs
  else s.requestWrite c bs (piecesOf (wrap dst 64) bs.length)

/-- Write a destination element, byte by byte: a byte that an earlier element of the request has written too keeps either
value, as it is drawn (R244, log 14). -/
def State.elemBytes (c : CopyReq) (dst : Int) (shared : List Nat) (tick : Nat) : Nat → List Byte → State → Except EStop State
  | _, [], s => .ok s
  | i, b :: bs, s =>
    if shared.contains i && (Config.freeByte tick (wrap (dst + i) 64)).toNat % 2 = 1 then
      State.elemBytes c dst shared tick (i + 1) bs s
    else
      match s.elemStore c (dst + i) [b] with
      | .error x => .error x
      | .ok s => State.elemBytes c dst shared tick (i + 1) bs s

/-- Write destination element e (R241). -/
def State.elemWrite (s : State) (c : CopyReq) (e : Nat) (dst : Int) (v : Nat) : Except EStop State :=
  let bs := toBytes (reqEsz c.req) v
  match sharedBytes c.req e with
  | [] => s.elemStore c dst bs
  | l => State.elemBytes c dst l s.tick 0 bs { s with tick := s.tick + 1 }

/-- Move one element (R241): conversion events are counted in the launch of the issuing thread, and are discarded for a
queue copy, which has none. -/
def State.moveElem (s : State) (c : CopyReq) (e : Nat) : Except EStop State :=
  match reqElem c.req e with
  | (none, dst) => s.elemWrite c e dst 0
  | (some src, dst) =>
    match s.elemRead c src with
    | .error x => .error x
    | .ok (v, s) =>
      let r := elemConvert c.req v
      match s.elemWrite c e dst r.d with
      | .error x => .error x
      | .ok s => .ok (s.countFor c.core c.launch (reqTid c.req) r.ev)

/-- Move up to n elements from a place on: how many were moved, and what stopped the engine. -/
def State.moveElems (c : CopyReq) : Nat → Nat → State → Nat × Option EStop × State
  | 0, _, s => (0, none, s)
  | n + 1, e, s =>
    if reqCount c.req ≤ e then (0, none, s)
    else
      match s.moveElem c e with
      | .error x => (0, some x, s)
      | .ok s =>
        let r := State.moveElems c n (e + 1) s
        (r.1 + 1, r.2)

/-! ### Arrivals, faults and the end of a request -/

/-- An engine's arrival with a byte count at the object its request names: the issuing block's own, or another block's as
a signal (R183, R195, R243). `none` where the object cannot take it. The counts of a block that has been flushed go
nowhere. -/
def State.engineArrive (s : State) (asid bid cpl n : Nat) : Option State :=
  let handle := field cpl 22 32
  let mine := ((s.blocks.look bid).map Block.handle).getD 0
  let pkg := field cpl 54 10
  if handle = 0 && (s.blocks.look bid).all (fun b => b.state = .flushed) then some s
  else if handle = 0 || (pkg = s.pkg && handle = mine) then s.objArrive bid (field cpl 4 17 * 16) n 1
  else if pkg = s.pkg then some (s.applySignal asid cpl n true)
  else some (s.send (.signal asid cpl n true))

/-- CORE of an engine's record. -/
def engineCore (core : Nat) : Nat := if core = 192 then 0xFF else core

/-- The engine-fault record (R248). -/
def engineRecord (ofs addr handle core reason : Nat) : Nat :=
  ofs * 2 ^ 192 + addr * 2 ^ 128 + handle * 2 ^ 96 + engineCore core * 2 ^ 88 + reason * 2 ^ 80

/-- Report an engine fault of a request (R246). -/
def State.engineFault (s : State) (c : CopyReq) (reason : Nat) : State :=
  s.report c.asid 0x24 reason
    (engineRecord (reqEsz c.req * c.done) c.addr (((s.blocks.look c.bid).map Block.handle).getD 0) c.core reason)

/-- A ticket of an engine's own, and its report (R211, R212, R246). -/
def State.engineTicket (s : State) (core asid ofs va reason level entry base size : Nat) : Nat × State :=
  let n := s.nextTicket
  let s : State := { s with nextTicket := (n + 1) % 2 ^ 32
                            tickets := s.tickets ++ [⟨n, asid, reason, base, size, core, true, false⟩] }
  (n, s.report asid 0x23 reason
    (translationRecord va n (engineCore core) asid 0 reason Access.engineRead.kind level
      (if reason = 0x05 then 0 else entry) 0 ofs))

/-- Change a copy request. -/
def State.updCopy (s : State) (serial : Nat) (f : CopyReq → CopyReq) : State :=
  { s with copies := s.copies.map fun c => if c.serial = serial then f c else c }

/-- Requests of an engine. -/
def State.engineLoad (s : State) (core : Nat) : Nat := (s.copies.filter fun c => c.core = core).length

/-- Threads that wait for room in the engine of a core become ready, if it has room (R136, R245). -/
def State.wakeEngine (s : State) (core : Nat) : State :=
  if 64 ≤ s.engineLoad core then s
  else s.wake fun key b => key = eventKey 0x7 0 && (s.blocks.look b).map Block.core = some core

/-- Requests leave their engines, whose waiters have room then (R136, R245). -/
def State.dropCopies (s : State) (gone : CopyReq → Bool) : State :=
  (((s.copies.filter gone).map CopyReq.core).eraseDups).foldl State.wakeEngine
    { s with copies := s.copies.filter fun c => !(gone c) }

/-- A request ends. -/
def State.endCopy (s : State) (c : CopyReq) : State := s.dropCopies fun x => x.serial = c.serial

/-- An engine asks a peer for bytes that it reads, once at a time (R314). -/
def State.needPeer (s : State) (serial asid bid : Nat) (l : Leaf) (pa va n : Nat) : State :=
  if s.peers.any fun p => p.use = .read serial va then s
  else
    match s.tryRecallRead (s.spaceOf l) pa with
    | some s => s.askPeer asid bid n l (.read serial va) pa (.read pa n)
    | none => s

/-- An engine sends a write to a peer, once at a time (R314). -/
def State.putPeer (s : State) (serial asid bid : Nat) (l : Leaf) (pa va : Nat) (bs : List Byte) : State :=
  if s.peers.any fun p => p.use = .written serial va then s
  else (s.tryStore .hub 0 0 asid bid pa l bs (.written serial va)).getD s

/-- What stopped an engine takes effect (R246, R314, R372). -/
def State.stopCopy (s : State) (c : CopyReq) : EStop → State
  | .reason r => (s.engineFault c r).endCopy c
  | .bad l => ((s.logWords l).engineFault c 0x05).endCopy c
  | .trans va r l e b z =>
    let (n, s) := s.engineTicket c.core c.asid (reqEsz c.req * c.done) va r l e b z
    s.updCopy c.serial fun c => { c with ticket := some n }
  | .need l pa va n => s.needPeer c.serial c.asid c.bid l pa va n
  | .put l pa va bs => s.putPeer c.serial c.asid c.bid l pa va bs
  | .fetch no => s.setLine no { s.line no with fetching := true }
  | .wait => s
  | .held pa => s.noteWrite pa

/-- The block of a request is in a save image: the request goes on after the restore (R246). -/
def State.copySaved (s : State) (c : CopyReq) : Bool :=
  match (s.blocks.look c.bid).map Block.state with
  | some (.saved _) => true
  | _ => false

/-- An engine moves up to n elements of a request and counts their bytes once they are visible (R183, R242, R243); a
request whose last element is counted ends. With nowhere to put a report the engine stalls (R361). -/
def State.runCopy (s : State) (serial n : Nat) : State :=
  match s.copies.find? fun c => c.serial = serial with
  | none => s
  | some c =>
    if c.ticket.isSome || s.copySaved c || !(s.engineRuns c.asid) then s
    else
      let (m, stop, s) := State.moveElems c n c.done s
      let arrived := if reqCplen c.req && m ≠ 0 then s.engineArrive c.asid c.bid (reqCpl c.req) (reqEsz c.req * m)
        else some s
      match arrived with
      | none => s.stopCopy c (.reason 0x03)
      | some s =>
        let s := s.updCopy serial fun c =>
          { c with done := c.done + m, got := if m = 0 then c.got else [], acked := if m = 0 then c.acked else [] }
        match s.copies.find? fun c => c.serial = serial with
        | none => s
        | some c =>
          match stop with
          | some e => s.stopCopy c e
          | none => if reqCount c.req ≤ c.done then s.endCopy c else s

/-- ENGINE_BYTE_COUNT_PIECE: an engine counts a piece of its own choosing (R183, R243). -/
def execEngineByteCountPiece (serial elements : Nat) (s : State) : Host.Outcome State Fault Refusal :=
  event (fun s => s.runCopy serial elements) s

/-- COPY_REQUEST_END: the rest of a request is moved and counted (R243). -/
def execCopyRequestEnd (serial : Nat) (s : State) : Host.Outcome State Fault Refusal :=
  event (fun s =>
    match s.copies.find? fun c => c.serial = serial with
    | none => s
    | some c => s.runCopy serial (reqCount c.req - c.done)) s

/-! ### copy -/

/-- CUR of every publish set of a context (R253). -/
def State.currentHalves (s : State) (asid : Nat) : Nat := ((span 0 64).map fun i => s.curHalf asid i * 2 ^ i).sum

/-- Accept a request into an engine (R245). -/
def State.acceptCopy (s : State) (core asid bid launch addr req : Nat) : State :=
  let (n, s) := s.fresh
  { s with copies := s.copies ++ [⟨n, core, asid, bid, launch, addr, req, 0, none, s.currentHalves asid, [], [], []⟩] }

/-- The trap of the address of a request or packet of `n` bytes: cause and detail (R157, R255). -/
def State.blockTrap (s : State) (b : Block) (ea n : Nat) : Option (Nat × Nat) :=
  match b.allocAt ea, b.allocAt (ea + n - 1) with
  | some a, some _ =>
    if ea % 64 ≠ 0 then some (0x05, 0x02)
    else if s.isStale b.core (a.lineAt b.core ea) a then some (0x06, 0x01)
    else none
  | _, _ => some (0x05, 0x01)

/-- The bytes of a request or packet in the larder, as a number. -/
def State.blockBits (s : State) (b : Block) (ea n : Nat) : Nat :=
  match b.allocAt ea with
  | some a => ofBytes (s.larBytes b.core a ea n)
  | none => 0

/-- A thread waits for the line of a request or packet that lies in a stash line which is not present, as ldl.any does; `none`
when it is there (R160, R255). `wait` says how it waits for the fetch, `lost` how for the ticket of one that cannot be
translated. -/
def State.waitBlock (s : State) (k : Nat) (b : Block) (ea : Nat) (wait : State → State) (lost : Nat → State → State) :
    Option State :=
  match b.allocAt ea with
  | none => none
  | some a =>
    let no := a.lineAt b.core ea
    if a.stash.isNone || (s.line no).present then none
    else if (s.line no).fetching then some (wait s)
    else
      let va := a.global ea / 128 * 128
      match s.coreWalk b.core b.asid va .stash with
      | .leaf leaf =>
        let s := s.fillPieces b.core b.asid [⟨va, 0, 128, leaf, leaf.pa va (s.leafHalf b.asid leaf)⟩]
        some (wait (s.setLine no { s.line no with fetching := true }))
      | .fault r lv e base size =>
        if s.canReport b.asid then
          let (n, s) := s.faultTicket k va r lv e base size .stash 1
          some (lost n s)
        else some s

/-- The wait of copy and enq, which park (log 59). -/
def State.waitParked (s : State) (k : Nat) (st : Stage) (b : Block) (ea : Nat) (log : OpLog) : Option State :=
  s.waitBlock k b ea (fun s => s.stageWait k st (lineEvent ea) log) fun n s => s.parkOn k (eventKey 0xA n) 0 log

/-- The wait of the other instructions that read a block of the larder: in the slot for the fetch, and parked for a ticket, after
which the instruction issues afresh (log 59). -/
def State.waitSlot (s : State) (k : Nat) (b : Block) (ea : Nat) : Option State :=
  s.waitBlock k b ea (fun s => s.holdReplay k) fun n s => s.parkAfresh k n

/-- A paired copy adds the bytes of an engine request to its store signature (R368). -/
def State.signRequest (s : State) (k : Nat) (bs : List Byte) : State :=
  match s.pairingOf k, s.thread? k with
  | some p, some t => s.updBlock t.bid fun b => { b with pairing := some { p with signature := crc64 p.signature bs } }
  | _, _ => s

/-- copy in one thread at a stage (R245, R255, R256): a completion that finds the engine full again waits again
(log 28). -/
def State.kickCopy (s : State) (k : Nat) (st : Stage) (i : Instr) (h : Head) (ea keep : Nat) : State :=
  match s.blockOf k, s.thread? k with
  | some b, some t =>
    match s.blockTrap b ea 64 with
    | some (c, d) => s.stageTrap k st c d ea
    | none =>
      if 64 ≤ s.engineLoad b.core then s.parkOn k (eventKey 0x7 0) keep (st.log s i ea 0)
      else
        match s.waitParked k st b ea (st.log s i ea 0) with
        | some s => s
        | none =>
          let r := s.blockBits b ea 64
          match s.reqTrap b.asid r with
          | some d => s.stageTrap k st 0x0A d ea
          | none =>
            let s := s.releaseStash t.bid
            if s.stashHeld t.bid then s.retryStage k st
            else
              let (_, s) := s.advance k st i h
              (s.signRequest k (toBytes 64 r)).acceptCopy b.core b.asid t.bid b.launch ea r
  | _, _ => s

/-- copy (R256). -/
def execCopy (h : Head) (ofs : Int) (keep : Nat) (s : State) : Host.Outcome State Fault Refusal :=
  let i := Instr.copy h ofs keep
  perLanePark i (fun h k t s => s.kickCopy k .issue i h (larEa h ofs t) keep) s

/-! ### publish -/

/-- The request writes a publish set. -/
def CopyReq.writesSet (c : CopyReq) (asid set : Nat) : Bool := c.asid = asid && reqPubr c.req && reqPset c.req = set

/-- publish in one thread (R255, R257): a release; the swap waits for the requests accepted before it (R237, R254). -/
def publishBody (i : Instr) (seti : Nat) (h : Head) (k : Nat) (t : Thread) (s : State) : State :=
  let set := (t.rd h.a 32 + seti) % 64
  let asid := s.asidOf k
  if !(s.setOpen asid set) then s.trap k 0x0A 0x08 set
  else
    s.releasing k t.bid fun s =>
      let (wid, s) := s.newWid i h
      let (n, s) := (s.setThread k (t.sendOff i h wid)).fresh
      let waits := (s.copies.filter fun c => c.writesSet asid set).map CopyReq.serial
      { s with swaps := s.swaps ++ [⟨n, asid, t.bid, set, waits, none, wid, 0⟩] }

/-- publish (R257). -/
def execPublish (h : Head) (seti : Nat) (s : State) : Host.Outcome State Fault Refusal :=
  perLane (.publish h seti) (publishBody (.publish h seti) seti) s

/-- The swap is the first of its set, and the requests it waits for have ended (R254). -/
def State.swapReady (s : State) (w : Swap) : Bool :=
  !(s.swaps.any fun x => x.asid = w.asid && x.set = w.set && x.serial < w.serial) &&
  !(w.waitFor.any fun n => s.copies.any fun c => c.serial = n)

/-- The device writes words of a publish set's entry, if nothing delays the write. -/
def State.tryEntry (s : State) (asid : Nat) (p : Piece) (v n : Nat) : Option State :=
  s.tryStore .hub 0 (hubDie p.pa) asid 0 p.pa p.leaf (toBytes n v) (.written 0 p.va)

/-- The entry of a publish set as a piece of memory (R253). -/
def State.psetPiece (s : State) (asid set : Nat) : Option Piece :=
  match s.ctx? asid with
  | none => none
  | some c =>
    (s.hubLeaf asid (c.psbase + 16 * set)).map fun l => ⟨c.psbase + 16 * set, 0, 16, l, l.pa (c.psbase + 16 * set) 0⟩

/-- PUBLISH_SWAP_START: BUSY is set, CUR inverted and VERSION incremented (R254). -/
def execPublishSwapStart (serial : Nat) (s : State) : Host.Outcome State Fault Refusal :=
  event (fun s =>
    match s.swaps.find? fun w => w.serial = serial with
    | none => s
    | some w =>
      match s.psetPiece w.asid w.set with
      | none => s
      | some p =>
        if w.entry.isSome || !(s.swapReady w) then s
        else
          let e := valueAt s.memory p.pa 16
          let version := (e / 2 ^ 64 + 1) % 2 ^ 64
          let low := e % 2 ^ 64 - field e 0 2 + 2 + (1 - e % 2)
          match s.tryEntry w.asid p (version * 2 ^ 64 + low) 16 with
          | none => s
          | some s =>
            { s with swaps := s.swaps.map fun x =>
                if x.serial = serial then { x with entry := some p, version := version } else x }) s

/-- A piece of a publishable page lies in the half that a swap has made the shadow. -/
def Swap.usedOld (w : Swap) (cur : Nat) (asid : Nat) (p : Piece) : Bool :=
  asid = w.asid && p.leaf.pub && p.leaf.pset = w.set && p.pa = p.leaf.pa p.va (1 - cur)

/-- A set of halves names the half that a swap has made the shadow. -/
def Swap.oldHalf (w : Swap) (cur halves : Nat) : Bool := halves / 2 ^ w.set % 2 ≠ cur

/-- Accesses that use the half a swap has made the shadow are still to be performed (R237, R254): those of threads that wait,
are at a peer, or are held by a paired copy; and engine requests, digests and runs that were accepted with that half current. A
request that itself waits for the swap is not waited for (log 60). -/
def State.oldInUse (s : State) (w : Swap) (cur : Nat) : Bool :=
  ((s.ops ++ s.atPeers ++ (s.blocks.flatMap fun b => (b.2.pairing.map Pairing.held).getD [])).any fun x =>
    x.pieces.any (w.usedOld cur x.asid)) ||
  (s.copies.any fun c => c.asid = w.asid && !(reqSl c.req) && !(c.writesSet w.asid w.set) && w.oldHalf cur c.halves) ||
  (s.digests.any fun d => d.asid = w.asid && w.oldHalf cur d.halves) ||
  (s.runs.any fun r => r.asid = w.asid && w.oldHalf cur r.halves) ||
  (s.collLoads.any fun c => c.asid = w.asid && w.oldHalf cur c.halves) ||
  s.repartIssues.any fun r => r.asid = w.asid && w.oldHalf cur r.halves

/-- PUBLISH_SWAP_COMPLETE: once every access that used the old half has been performed, BUSY is cleared, and D receives the new
version (R237, R254, R257). -/
def execPublishSwapComplete (serial : Nat) (s : State) : Host.Outcome State Fault Refusal :=
  event (fun s =>
    match s.swaps.find? fun w => w.serial = serial with
    | none => s
    | some w =>
      match w.entry with
      | none => s
      | some p =>
        let e := valueAt s.memory p.pa 8
        if s.oldInUse w (e % 2) then s
        else
          match s.tryEntry w.asid p (e - field e 1 1 * 2) 8 with
          | none => s
          | some s =>
            { s with swaps := s.swaps.filter fun x => x.serial ≠ serial }.setIncoming w.wid (w.version % 2 ^ 32)) s

end Sys2Proof.Machine
end

