-- ==== Sys2Proof/Machine/Matrix.lean ====
section
/-! DEFINITION. Row 0xB: the matrix array, its tiles, B bank and queue (R258 to R286). -/

namespace Sys2Proof.Machine

/-! ### Formats, elements, products -/

/-- Integer element formats. -/
def isIntElem (t : Ty) : Bool := t = .s8 || t = .i4 || t = .i4x
/-- Floating-point element formats. -/
def isFloatElem (t : Ty) : Bool := t = .e4m3 || t = .e5m2 || t = .f16 || t = .bf16 || t = .f32

/-- The accumulator mode of a format pair (R260). -/
def matMode (a b : Ty) : Option Nat :=
  if isIntElem a && isIntElem b then some 1
  else if (a = .e4m3 && (b = .e4m3 || isIntElem b)) || (isIntElem a && b = .e4m3) then some 2
  else if isFloatElem a && isFloatElem b then some 3
  else none

/-- The width of an element in bits (R261). -/
def elemWidth (t : Ty) : Nat := if t = .i4 || t = .i4x then 4 else t.width

/-- Elements of a dense K step (R261). -/
def stepLen (a b : Ty) : Nat := 1536 / max (elemWidth a) (elemWidth b)

/-- Element p of a row or slot as an exact multiple of a unit: 1 in mode 1, 2^−9 in mode 2; none for a NaN (R92, R94, R95,
R264). -/
def intElem (mode : Nat) (t : Ty) (row p : Nat) : Option Int :=
  let unit : Int := if mode = 2 then 512 else 1
  match t with
  | .e4m3 =>
    match (fmtOf .e4m3).value (field row (8 * p) 8) with
    | .fin neg m e => some (signedAt neg m e (-9))
    | _ => none
  | .s8 => some (toInt (field row (8 * p) 8) 8 * unit)
  | .i4 => some (toInt (field row (4 * p) 4) 4 * unit)
  | _ => some ((i4xElem row p).1 * unit)

/-- Element p of a row or slot as a floating-point value (R92, R264). -/
def numElem (t : Ty) (row p : Nat) : Num := (fmtOf t).value (field row (t.width * p) t.width)

/-- Invalid I4X pairs among n elements from a place on (R268). -/
def badPairs (t : Ty) (row lo n : Nat) : Nat :=
  if t = .i4x then ((span 0 (n / 2)).filter fun j => field row (4 * lo + 8 * j) 8 = 0x88).length else 0

/-- binary64 of a value that needs no rounding or is rounded to nearest (R266). -/
def f64Of (x : Num) : Nat := ((fmtOf .f64).round {} x).1

/-- An exact product; with a zero factor and a finite other factor it is +0 (R264). -/
def product (a b : Num) : Num :=
  match a.mul b with
  | .fin _ 0 _ => .fin false 0 0
  | x => x

/-- Where operand A's value of a logical position stands in its row: itself in a dense step, the kept element with that
index in a sparse one (R263). -/
def keptAt (spar c rowMeta q : Nat) : Option Nat :=
  if spar = 0 then some q
  else (span (q / 8 * c) c).find? fun e => field rowMeta (3 * e) 3 = q % 8

/-- A kept-element group whose indices do not increase strictly (R263). -/
def groupBad (c rowMeta g : Nat) : Bool :=
  (span (g * c) (c - 1)).any fun e => field rowMeta (3 * (e + 1)) 3 ≤ field rowMeta (3 * e) 3

/-- The pattern of the cell NaN (R260). -/
def cellNaN : Nat := 2 ^ 63

/-- What one accumulation leaves in a cell: its bits, whether it was clamped or overflowed, whether it became NaN. -/
structure CellStep where
  bits : Nat
  sat : Bool
  nan : Bool
  deriving DecidableEq, Repr

/-- R265: the exact sum of the products is added and clamped. -/
def accInt (cell : Nat) (prods : List (Option Int)) : CellStep :=
  if cell = cellNaN then ⟨cell, false, false⟩
  else if prods.any Option.isNone then ⟨cellNaN, false, true⟩
  else
    let x := toInt cell 64 + (prods.map fun p => p.getD 0).sum
    let y := max (min x (2 ^ 63 - 1)) (-(2 ^ 63 - 1))
    ⟨wrap y 64, x ≠ y, false⟩

/-- One rounding of the tree (R266). -/
def addF64 (a b : Nat × Events) : Nat × Events :=
  let r := (fmtOf .f64).addP {} a.1 b.1
  (r.1, (a.2.plus b.2).plus r.2)

/-- One level of the tree of R266. -/
def levelF64 : List (Nat × Events) → List (Nat × Events)
  | a :: b :: l => addF64 a b :: levelF64 l
  | l => l

/-- The tree of R266 over a power of two of values. -/
def treeF64 : Nat → List (Nat × Events) → Nat × Events
  | 0, l => (l.head?).getD (0, .none)
  | n + 1, l => treeF64 n (levelF64 l)

/-- The sum of one third of the products (R266). -/
def thirdF64 (h t : Nat) (prods : List Nat) : Nat × Events :=
  treeF64 (log2 h) (((prods.drop (t * h)).take h).map fun p => (p, Events.none))

/-- A binary64 NaN. -/
def isNaN64 (v : Nat) : Bool := (fmtOf .f64).value v = .nan

/-- R266: three trees, their sum, and the cell. -/
def accF64 (cell : Nat) (prods : List Nat) : CellStep :=
  let h := prods.length / 3
  let u := addF64 (addF64 (thirdF64 h 0 prods) (thirdF64 h 1 prods)) (thirdF64 h 2 prods)
  let r := addF64 (cell, .none) u
  ⟨r.1, r.2.sat ≠ 0, isNaN64 r.1 && !(isNaN64 cell)⟩

/-! ### The parameter block (R269) -/

/-- AFMT. -/
def pbA (p : Nat) : Ty := (Ty.ofCode (field p 0 5)).getD .dflt
/-- BFMT. -/
def pbB (p : Nat) : Ty := (Ty.ofCode (field p 8 5)).getD .dflt
/-- TILE. -/
def pbTile (p : Nat) : Nat := field p 32 1
/-- OVW. -/
def pbOvw (p : Nat) : Bool := bit p 33
/-- SPAR. -/
def pbSpar (p : Nat) : Nat := field p 40 2
/-- TID. -/
def pbTid (p : Nat) : Nat := field p 42 6
/-- BOFS. -/
def pbBofs (p : Nat) : Nat := field p 128 16
/-- KSTEPS. -/
def pbSteps (p : Nat) : Nat := field p 144 16
/-- CPL. -/
def pbCpl (p : Nat) : Nat := field p 160 32
/-- AADDR. -/
def pbAaddr (p : Nat) : Nat := field p 192 32
/-- MADDR. -/
def pbMaddr (p : Nat) : Nat := field p 224 32
/-- Bytes of a B slot of one K step (R262). -/
def pbSb (p : Nat) : Nat := if pbSpar p = 0 then 192 else 384
/-- Elements of a dense K step. -/
def pbLen (p : Nat) : Nat := stepLen (pbA p) (pbB p)
/-- Kept elements of a group (R263). -/
def pbKept (p : Nat) : Nat := if pbSpar p = 1 then 4 else 2
/-- Bytes of a row's metadata (R263). -/
def pbMb (p : Nat) : Nat := 3 * (pbLen p * pbKept p / 4) / 8

/-- An address field that is misaligned or has bits [31:21] set. -/
def larFieldBad (a align : Nat) : Bool := a % align ≠ 0 || 2 ^ 21 ≤ a

/-- B units that a span of slice bytes lies in, as claim keys (R259). -/
def spanKeys (o n : Nat) : List Nat := if n = 0 then [] else span (2 + o / 4096) ((o + n - 1) / 4096 - o / 4096 + 1)

/-- Every resource of a list is claimed by a block (R259). -/
def State.holds (s : State) (core bid : Nat) (keys : List Nat) : Bool :=
  keys.all fun q => (s.core core).claims.look q = some bid

/-- The completion object cannot serve an array operation (R275, detail 0x08). -/
def State.cplBad (s : State) (b : Block) (cpl : Nat) : Bool :=
  (s.objTrap b cpl).isSome || (s.objAt b cpl).kind ≠ 0 || (s.objAt b cpl).expect ≠ 1

/-- The detail of the matrix-parameter trap of a parameter block (R275). -/
def State.pbTrap (s : State) (b : Block) (bid p : Nat) : Option Nat :=
  let span := pbSb p * pbSteps p
  if field p 256 256 ≠ 0 || field p 48 80 ≠ 0 || field p 34 6 ≠ 0 || field p 13 19 ≠ 0 || field p 5 3 ≠ 0 then some 0x01
  else if (matMode (pbA p) (pbB p)).isNone || pbSpar p = 3 ||
      (pbSpar p ≠ 0 && (elemWidth (pbA p) ≠ elemWidth (pbB p) || pbA p = .i4x)) then some 0x02
  else if pbSteps p = 0 || 65536 < pbBofs p + span then some 0x03
  else if larFieldBad (pbAaddr p) 128 || larFieldBad (pbMaddr p) 128 || larFieldBad (pbCpl p) 16 ||
      pbBofs p % 64 ≠ 0 || (pbSpar p = 0 && pbMaddr p ≠ 0) then some 0x04
  else if !(s.holds b.core bid (pbTile p :: spanKeys (pbBofs p) span)) then some 0x05
  else if s.cplBad b (pbCpl p) then some 0x08
  else none

/-! ### The scale block (R285) and mmst's control word (R286) -/

/-- The detail of the matrix-parameter trap of a scale block (R275). More than 128 rows or columns take detail 0x06
(log 30). -/
def State.sbTrap (s : State) (b : Block) (bid p : Nat) : Option Nat :=
  if field p 256 256 ≠ 0 || field p 48 48 ≠ 0 || field p 33 3 ≠ 0 || field p 24 8 ≠ 0 || field p 0 8 ≠ 0 then some 0x01
  else if larFieldBad (field p 224 32) 4 || larFieldBad (field p 192 32) 4 || larFieldBad (field p 160 32) 16 ||
      larFieldBad (field p 128 32) 4 || field p 96 32 % 4 ≠ 0 || (!(bit p 38) && field p 224 32 ≠ 0) ||
      (!(bit p 37) && field p 192 32 ≠ 0) then some 0x04
  else if !(s.holds b.core bid [field p 32 1]) then some 0x05
  else if 128 < field p 16 8 || 128 < field p 8 8 then some 0x06
  else if s.cplBad b (field p 160 32) then some 0x08
  else none

/-- The span of slice bytes of mmst.bank: offset and length. -/
def bankSpan (w : Nat) : Nat × Nat := (64 * field w 0 10, 192 * field w 16 10)

/-- The detail of the matrix-parameter trap of mmst (R275, R286). -/
def State.mmstTrap (s : State) (b : Block) (bid x w a c : Nat) : Option Nat :=
  if x = 0 then
    if field w 26 6 ≠ 0 || field w 10 6 ≠ 0 then some 0x01
    else if field w 16 10 = 0 || 65536 < (bankSpan w).1 + (bankSpan w).2 then some 0x03
    else if larFieldBad a 128 || larFieldBad c 16 then some 0x04
    else if !(s.holds b.core bid (spanKeys (bankSpan w).1 (bankSpan w).2)) then some 0x05
    else if s.cplBad b c then some 0x08
    else none
  else
    if field w 24 8 ≠ 0 || field w 1 7 ≠ 0 then some 0x01
    else if larFieldBad a 128 || larFieldBad c 16 then some 0x04
    else if !(s.holds b.core bid [field w 0 1]) then some 0x05
    else if 128 < field w 8 8 + rowsOf (field w 16 8) then some 0x06
    else if s.cplBad b c then some 0x08
    else none

/-! ### Tiles, bank, queue -/

/-- Number of a cell in the one store of all tiles. -/
def cellNo (core tile i j : Nat) : Nat := core * 32768 + tile * 16384 + i * 128 + j

/-- The bits of a cell. -/
def State.cell (s : State) (core tile i j : Nat) : Nat := s.tiles.lookD (cellNo core tile i j) 0

/-- Replace the entries of a store in a range of keys, the new ones given in order, keeping the canonical form. -/
def spliceMap {α : Type} [DecidableEq α] (d : α) (m : Map α) (lo n : Nat) (l : List (Nat × α)) : Map α :=
  (m.filter fun p => p.1 < lo) ++ (l.filter fun p => p.2 ≠ d) ++ (m.filter fun p => lo + n ≤ p.1)

/-- Every cell of a tile becomes what a function gives. -/
def State.setTile (s : State) (core tile : Nat) (f : Nat → Nat → Nat) : State :=
  let lo := cellNo core tile 0 0
  { s with tiles := spliceMap 0 s.tiles lo 16384 ((span 0 16384).map fun q => (lo + q, f (q / 128) (q % 128))) }

/-- Every cell of a tile becomes zero. -/
def State.zeroTile (s : State) (core tile : Nat) : State :=
  { s with tiles := spliceMap 0 s.tiles (cellNo core tile 0 0) 16384 [] }

/-- The state word of a tile (R274). -/
def State.tileWord (s : State) (core tile : Nat) : Nat := s.tileWords.lookD (core * 2 + tile) 0

/-- Put the state word of a tile: FLT, MODE, STEPS. -/
def State.setTileWord (s : State) (core tile : Nat) (flt : Bool) (mode steps : Nat) : State :=
  { s with tileWords := s.tileWords.put 0 (core * 2 + tile) (b2n flt * 2 ^ 18 + mode * 2 ^ 16 + steps % 2 ^ 16) }

/-- The byte address of a slice byte in the one store of all banks. -/
def bankAddr (core j o : Nat) : Nat := core * 2 ^ 23 + j * 65536 + o

/-- Put bytes into a slice. -/
def State.setSlice (s : State) (core j o : Nat) (bs : List Byte) : State :=
  let lo := bankAddr core j o
  { s with bank := spliceMap 0 s.bank lo bs.length ((span lo bs.length).zip bs) }

/-- A resource that is granted starts with zero (R259). -/
def State.grant (s : State) (core bid key : Nat) : State :=
  let s := s.updCore core fun c => { c with claims := c.claims.ins key bid, freeing := c.freeing.filter (· ≠ key) }
  if key < 2 then (s.zeroTile core key).setTileWord core key false 0 0
  else (span 0 128).foldl (fun s j => s.setSlice core j (4096 * (key - 2)) (List.replicate 4096 0)) s

/-- The operations of a core's array, in acceptance order. -/
def State.arrayQueue (s : State) (core : Nat) : List MatOp := s.queuesMat.lookD core []

/-- Put the operations of a core's array. -/
def State.setArrayQueue (s : State) (core : Nat) (l : List MatOp) : State :=
  { s with queuesMat := s.queuesMat.put [] core l }

/-- Claim keys that an operation names (R277). -/
def MatOp.keys (o : MatOp) : List Nat :=
  if o.op = 0xB0 then pbTile o.blk :: spanKeys (pbBofs o.blk) (pbSb o.blk * pbSteps o.blk)
  else if o.op = 0xB3 then [o.blk % 2]
  else if o.op = 0xB4 then [field o.blk 32 1]
  else if o.x = 0 then spanKeys (bankSpan o.blk).1 (bankSpan o.blk).2
  else [field o.blk 0 1]

/-- The tile of an operation; 0 for mmst.bank (R276). -/
def MatOp.tile (o : MatOp) : Nat :=
  match o.keys with
  | q :: _ => if q < 2 then q else 0
  | [] => 0

/-- Resources being released are released once no operation of their block names them (R277). -/
def State.settleClaims (s : State) (core : Nat) : State :=
  s.updCore core fun c =>
    let busy (key : Nat) : Bool := (s.arrayQueue core).any fun o => some o.bid = c.claims.look key && o.keys.contains key
    { c with claims := (c.freeing.filter fun q => !(busy q)).foldl (fun m q => m.del q) c.claims
             freeing := c.freeing.filter busy }

/-! ### Presenting operations -/

/-- The token of an operation that names an object (R273). -/
def State.tokenFor (s : State) (b : Block) (bid cpl : Nat) : Nat :=
  let p := ((s.arrayQueue b.core).filter fun o => o.bid = bid && o.cpl = cpl && o.op ≠ 0xB3).length
  ((s.objAt b cpl).gen + p) % 2 ^ 30

/-- Present an operation that has passed its checks: it is accepted with its result in D, or refused while the queue of 8
holds no free entry (R270). -/
def State.present (s : State) (k : Nat) (t : Thread) (i : Instr) (h : Head) (b : Block) (op x blk addr cpl d : Nat)
    (sign : List Byte) : State :=
  if 8 ≤ (s.arrayQueue b.core).length then s.answer k t i h 0xFFFFFFFF
  else
    s.releasing k t.bid fun s =>
      let (n, s) := (s.answer k t i h d).fresh
      (s.signRequest k sign).setArrayQueue b.core
        (s.arrayQueue b.core ++ [⟨n, b.asid, t.bid, b.launch, op, x, blk, addr, cpl, d, 0, false, false, 0, 0⟩])

/-- An operation that reads a 64-byte block: mma or mmscl (R275, R281, R285). -/
def blockOpBody (i : Instr) (op pbn cplLo : Nat) (check : State → Block → Nat → Nat → Option Nat) (h : Head) (k : Nat)
    (t : Thread) (s : State) : State :=
  let a := (t.rd h.a 32 + 64 * pbn) % 2 ^ 32
  match s.blockOf k with
  | none => s
  | some b =>
    match s.blockTrap b a 64 with
    | some (c, d) => s.trap k c d a
    | none =>
      match s.waitSlot k b a with
      | some s => s
      | none =>
        let p := s.blockBits b a 64
        match check s b t.bid p with
        | some d => s.trap k 0x0B d a
        | none =>
          let cpl := field p cplLo 32
          s.present k t i h b op 0 p a cpl (s.tokenFor b t.bid cpl) (toBytes 64 p)

/-- mma (R281). -/
def execMma (h : Head) (pbn : Nat) (s : State) : Host.Outcome State Fault Refusal :=
  perLane (.mma h pbn) (blockOpBody (.mma h pbn) 0xB0 pbn 160 fun s b bid p => s.pbTrap b bid p) s

/-- mmscl (R285). -/
def execMmscl (h : Head) (pbn : Nat) (s : State) : Host.Outcome State Fault Refusal :=
  perLane (.mmscl h pbn) (blockOpBody (.mmscl h pbn) 0xB4 pbn 160 fun s b bid p => s.sbTrap b bid p) s

/-- mmst in one thread (R286). -/
def mmstBody (i : Instr) (x : Nat) (h : Head) (k : Nat) (t : Thread) (s : State) : State :=
  let a := t.rd h.a 32
  let w := t.rdB h.b 32
  let c := t.rd h.c 32
  match s.blockOf k with
  | none => s
  | some b =>
    match s.mmstTrap b t.bid x w a c with
    | some d => s.trap k 0x0B d a
    | none => s.present k t i h b 0xB5 x w a c (s.tokenFor b t.bid c) (toBytes 64 (w * 2 ^ 32 + a))

/-- mmst.bank (R286). -/
def execMmstBank (h : Head) (s : State) : Host.Outcome State Fault Refusal :=
  perLane (.mmstBank h) (mmstBody (.mmstBank h) 0) s

/-- mmst.acc (R286). -/
def execMmstAcc (h : Head) (s : State) : Host.Outcome State Fault Refusal :=
  perLane (.mmstAcc h) (mmstBody (.mmstAcc h) 1) s

/-- mmclr.acc in one thread (R284). -/
def mmclrAccBody (i : Instr) (h : Head) (k : Nat) (t : Thread) (s : State) : State :=
  let a := t.rd h.a 32
  match s.blockOf k with
  | none => s
  | some b =>
    if 2 ≤ a then s.trap k 0x0B 0x06 a
    else if !(s.holds b.core t.bid [a]) then s.trap k 0x0B 0x05 a
    else s.present k t i h b 0xB3 0 a 0 0 0 (toBytes 64 a)

/-- mmclr.acc (R284). -/
def execMmclrAcc (h : Head) (s : State) : Host.Outcome State Fault Refusal :=
  perLane (.mmclrAcc h) (mmclrAccBody (.mmclrAcc h)) s

/-- The detail of a bad claim word (R259, R275). -/
def claimTrap (w : Nat) : Option Nat :=
  if field w 21 11 ≠ 0 || field w 12 4 ≠ 0 || field w 2 6 ≠ 0 then some 0x01
  else if 16 < field w 8 4 + field w 16 5 then some 0x07
  else none

/-- The claim keys a claim word names (R259). -/
def claimKeys (w : Nat) : List Nat :=
  ((span 0 2).filter fun t => bit w t) ++ span (2 + field w 8 4) (field w 16 5)

/-- mmclr.claim in one thread: all or nothing (R284). -/
def mmclrClaimBody (i : Instr) (h : Head) (k : Nat) (t : Thread) (s : State) : State :=
  let w := t.rd h.a 32
  match s.blockOf k, claimTrap w with
  | none, _ => s
  | some _, some d => s.trap k 0x0B d w
  | some b, none =>
    if (claimKeys w).any fun q => ((s.core b.core).claims.look q).isSome then s.answer k t i h 0
    else ((claimKeys w).foldl (fun s q => s.grant b.core t.bid q) s).answer k t i h 1

/-- mmclr.claim (R284). -/
def execMmclrClaim (h : Head) (s : State) : Host.Outcome State Fault Refusal :=
  perLane (.mmclrClaim h) (mmclrClaimBody (.mmclrClaim h)) s

/-- The release mask of some claim keys (R284). -/
def releaseMask (l : List Nat) : Nat := (l.map fun q => if q < 2 then 2 ^ q else 2 ^ (14 + q)).sum

/-- mmclr.free in one thread (R277, R284). -/
def mmclrFreeBody (i : Instr) (h : Head) (k : Nat) (t : Thread) (s : State) : State :=
  let w := t.rd h.a 32
  match s.blockOf k, claimTrap w with
  | none, _ => s
  | some _, some d => s.trap k 0x0B d w
  | some b, none =>
    let mine := (claimKeys w).filter fun q =>
      (s.core b.core).claims.look q = some t.bid && !((s.core b.core).freeing.contains q)
    ((s.updCore b.core fun c => { c with freeing := c.freeing ++ mine }).settleClaims b.core).answer k t i h
      (releaseMask mine)

/-- mmclr.free (R284). -/
def execMmclrFree (h : Head) (s : State) : Host.Outcome State Fault Refusal :=
  perLane (.mmclrFree h) (mmclrFreeBody (.mmclrFree h)) s

/-- mmrd in one thread: the cell and the state word as they stand between two steps of the array (R283). -/
def mmrdBody (i : Instr) (h : Head) (k : Nat) (t : Thread) (s : State) : State :=
  let c := t.rd h.a 32
  match s.blockOf k with
  | none => s
  | some b =>
    let tile := field c 14 1
    if 2 ^ 15 ≤ c then s.trap k 0x0B 0x06 c
    else if !(s.holds b.core t.bid [tile]) then s.trap k 0x0B 0x05 c
    else
      let (wd, we, s) := s.sendTwo k t i h
      (s.setIncoming wd (s.cell b.core tile (field c 7 7) (field c 0 7))).setIncoming we (s.tileWord b.core tile)

/-- mmrd (R283). -/
def execMmrd (h : Head) (s : State) : Host.Outcome State Fault Refusal :=
  perLane (.mmrd h) (mmrdBody (.mmrd h)) s

/-- mmwait (R282). -/
def mmwaitBody (i : Instr) (keep : Nat) (h : Head) (k : Nat) (t : Thread) (b : Block) (ea : Nat) (o : Obj) (s : State) :
    State :=
  let g := t.rdB h.b 32 % 2 ^ 30
  match o.arrivalTrap 0 with
  | some d => s.trap k 0x07 d ea
  | none =>
    if o.complete g then s.setThread k (t.sendOff i h 0)
    else s.waitObj 0x5 k b ea g keep (s.logOf i ea (t.rdB h.b 32) 0 0)

/-- mmwait (R282). -/
def execMmwait (h : Head) (ofs : Int) (keep : Nat) (s : State) : Host.Outcome State Fault Refusal :=
  perLanePark (.mmwait h ofs keep) (onObj ofs (mmwaitBody (.mmwait h ofs keep) keep)) s

/-! ### Running operations -/

/-- What ends an operation: a reason and the larder address involved (R276). -/
abbrev MatFault := Nat × Nat

/-- The bytes of a block's window as the array reads them, line by line (R272, R276, R372). -/
def State.arrayLines (s : State) (b : Block) : List (Nat × Nat) → Except MatFault (List Byte)
  | [] => .ok []
  | (ea, n) :: rest =>
    match b.allocAt ea with
    | none => .error (0x02, ea)
    | some a =>
      if a.stash.isSome then .error (0x02, ea)
      else if s.isStale b.core (a.lineAt b.core ea) a then .error (0x01, ea)
      else if s.larBad (a.lineAt b.core ea * 128 + ea % 128) n then .error (0x06, ea)
      else
        match s.arrayLines b rest with
        | .error e => .error e
        | .ok bs => .ok (s.larBytes b.core a ea n ++ bs)

/-- The pieces of n bytes from an address that lie in one line each. -/
def linePieces : Nat → Nat → Nat → List (Nat × Nat)
  | 0, _, _ => []
  | fuel + 1, ea, n =>
    let first := 128 - ea % 128
    if n = 0 then [] else if n ≤ first then [(ea, n)] else (ea, first) :: linePieces fuel (ea + first) (n - first)

/-- n bytes of a block's window as the array reads them. -/
def State.arrayRead (s : State) (b : Block) (ea n : Nat) : Except MatFault (List Byte) :=
  s.arrayLines b (linePieces (n / 128 + 2) ea n)

/-- Write n bytes of a block's window as the array does, within one line. -/
def State.arrayWrite (s : State) (b : Block) (ea : Nat) (bs : List Byte) : Except MatFault State :=
  match b.allocAt ea with
  | none => .error (0x02, ea)
  | some a => if a.stash.isSome then .error (0x02, ea) else .ok (s.larWrite b.core a ea bs)

/-- Row i of a panel as a number. -/
def rowOf (bs : List Byte) (size i : Nat) : Nat := ofBytes ((bs.drop (size * i)).take size)

/-- The operands of one K step: rows of A, rows of metadata, slots of B (R262, R263). -/
structure StepData where
  a : List Nat
  rowMeta : List Nat
  b : List Nat
  deriving DecidableEq, Repr

/-- Read the operands of K step k of an mma; a malformed metadata group ends it (R262, R263, R276). -/
def State.stepData (s : State) (b : Block) (p k : Nat) : Except MatFault StepData :=
  match s.arrayRead b (pbAaddr p + 24576 * k) 24576 with
  | .error e => .error e
  | .ok panel =>
    let mb := if pbSpar p = 0 then 0 else pbMb p
    match s.arrayRead b (pbMaddr p + 128 * mb * k) (128 * mb) with
    | .error e => .error e
    | .ok md =>
      let metas := (span 0 128).map fun i => rowOf md mb i
      let groups := if pbSpar p = 0 then 0 else pbLen p / 4
      match ((span 0 128).zip metas).find? fun q => (span 0 groups).any fun g => groupBad (pbKept p) q.2 g with
      | some q => .error (0x03, pbMaddr p + 128 * mb * k + mb * q.1)
      | none =>
        .ok ⟨(span 0 128).map fun i => rowOf panel 192 i, metas,
             (span 0 128).map fun j =>
               ofBytes (bytesAt s.bank (bankAddr b.core j (pbBofs p + pbSb p * k)) (pbSb p))⟩

/-- The update of one cell in a dense step or sub-step over positions lo to lo + n − 1 (R264 to R267). -/
def cellStep (p mode lo n cell arow ameta brow : Nat) : CellStep :=
  let at_ (q : Nat) : Option Nat := keptAt (pbSpar p) (pbKept p) ameta q
  if mode = 3 then
    accF64 cell ((span lo n).map fun q =>
      let x : Num := match at_ q with
        | some e => numElem (pbA p) arow e
        | none => .fin false 0 0
      f64Of (product x (numElem (pbB p) brow q)))
  else
    accInt cell ((span lo n).map fun q =>
      let x : Option Int := match at_ q with
        | some e => intElem mode (pbA p) arow e
        | none => some 0
      match x, intElem mode (pbB p) brow q with
      | some u, some v => some (u * v)
      | _, _ => none)

/-- Invalid I4X pairs read in a step or sub-step (R268). -/
def stepBadPairs (p lo n : Nat) (d : StepData) : Nat :=
  (d.a.map fun r => badPairs (pbA p) r lo n).sum + (d.b.map fun r => badPairs (pbB p) r lo n).sum

/-- One dense step or sub-step over every cell of a tile, with its events (R265 to R268). -/
def State.subStep (s : State) (core : Nat) (o : MatOp) (d : StepData) (lo : Nat) : State :=
  let p := o.blk
  let mode := (matMode (pbA p) (pbB p)).getD 0
  let tile := pbTile p
  let res : List (Nat × CellStep) := (((span 0 128).zip (d.a.zip d.rowMeta)).flatMap fun r =>
    ((span 0 128).zip d.b).map fun c =>
      (cellNo core tile r.1 c.1, cellStep p mode lo (pbLen p) (s.cell core tile r.1 c.1) r.2.1 r.2.2 c.2))
  let sat := (res.filter fun q => q.2.sat).length
  let nan := (res.filter fun q => q.2.nan).length + stepBadPairs p lo (pbLen p) d
  let s : State := { s with
    tiles := spliceMap 0 s.tiles (cellNo core tile 0 0) 16384 (res.map fun q => (q.1, q.2.bits)) }
  s.countFor core o.launch (pbTid p) ⟨sat, 0, nan⟩

/-- Change an operation of a core's array. -/
def State.updOp (s : State) (core serial : Nat) (f : MatOp → MatOp) : State :=
  s.setArrayQueue core ((s.arrayQueue core).map fun o => if o.serial = serial then f o else o)

/-- An mma starts on its tile (R274): an accumulation onto a tile of another mode ends at once. -/
def State.startMma (s : State) (core : Nat) (o : MatOp) : State :=
  let p := o.blk
  let mode := (matMode (pbA p) (pbB p)).getD 0
  let old := field (s.tileWord core (pbTile p)) 16 2
  if !(pbOvw p) && old ≠ 0 && old ≠ mode then
    (s.setTileWord core (pbTile p) true old 0).updOp core o.serial fun o =>
      { o with started := true, finished := true, fault := 0x04 }
  else
    let s := if pbOvw p || old = 0 then (s.zeroTile core (pbTile p)).setTileWord core (pbTile p) false mode 0
      else s.setTileWord core (pbTile p) false old 0
    s.updOp core o.serial fun o => { o with started := true }

/-- A block's operations may run: it is not being saved (R278). -/
def State.mayRun (s : State) (bid : Nat) : Bool :=
  match s.blocks.look bid with
  | some b =>
    match b.state with
    | .saving | .saved _ | .flushed => false
    | _ => true
  | none => false

/-- The operation that the array is at: the first accepted whose block is not being saved; what has started then runs on, an mma
apart, which stops at its K-step boundary (R271, R278). -/
def State.current (s : State) (core : Nat) : Option MatOp :=
  (s.arrayQueue core).find? fun o => s.mayRun o.bid || (o.started && o.op ≠ 0xB0)

/-- MATRIX_OP_START: the operation that comes next starts (R271, R274). An mma that was stopped goes on at its next K step
(R278). -/
def execMatrixOpStart (core : Nat) (s : State) : Host.Outcome State Fault Refusal :=
  event (fun s =>
    match s.current core with
    | none => s
    | some o =>
      if o.started then s
      else if o.op = 0xB0 && o.steps = 0 then s.startMma core o
      else s.updOp core o.serial fun o => { o with started := true }) s

/-- The number under which an uncorrectable error of a core's array, tiles or bank is held (R372, R276). -/
def arrayGranule (core : Nat) : Nat := 2 ^ 47 + core

/-- An uncorrectable error of a core's array, tiles or bank is met: it is entered in ARRLOG (R372). -/
def State.meetBad (s : State) (core : Nat) : State :=
  let s := s.logWords [arrayGranule core]
  { s with poison := s.poison.del (arrayGranule core) }

/-- A core's array, tiles or bank hold an uncorrectable error. -/
def State.arrayBad (s : State) (core : Nat) : Bool := (s.poison.look (arrayGranule core)).isSome

/-- The larder words of a read that an operation's fault names are entered in ARRLOG, where they are what no code corrects
(R372). -/
def State.logRead (s : State) (b : Block) (reason ea : Nat) : State :=
  match b.allocAt ea with
  | some a => if reason = 0x06 then s.logWords (larWords (a.lineAt b.core ea * 128) 128) else s
  | none => s

/-- MMA_K_STEP: one K step of the running mma, or the fault that ends it (R276, R281). -/
def execMmaKStep (core : Nat) (s : State) : Host.Outcome State Fault Refusal :=
  event (fun s =>
    match s.current core with
    | none => s
    | some o =>
      let p := o.blk
      if o.op ≠ 0xB0 || !o.started || o.finished then s
      else
        match s.blocks.look o.bid with
        | none => s
        | some b =>
          let mode := field (s.tileWord core (pbTile p)) 16 2
          let ended (r a : Nat) (s : State) : State :=
            (s.setTileWord core (pbTile p) true mode o.steps).updOp core o.serial fun o =>
              { o with finished := true, fault := r, faultAddr := a }
          if s.arrayBad core then ended 0x06 0 (s.meetBad core)
          else
            match s.stepData b p o.steps with
            | .error (r, a) => ended r a (s.logRead b r a)
            | .ok d =>
              let s := s.subStep core o d 0
              let s := if pbSpar p = 0 then s else s.subStep core o d (pbLen p)
              (s.setTileWord core (pbTile p) false mode (o.steps + 1)).updOp core o.serial fun o =>
                { o with steps := o.steps + 1, finished := o.steps + 1 = pbSteps p }) s

/-! ### mmscl and mmst -/

/-- The value of a cell (R274). -/
def cellValue (mode bits : Nat) : Num :=
  if mode = 0 then .fin false 0 0
  else if mode = 1 then Num.ofInt (toInt bits 64)
  else if mode = 2 then if bits = cellNaN then .nan else (Num.ofInt (toInt bits 64)).scale (-18)
  else (fmtOf .f64).value bits

/-- The bytes an array operation has written of each line, by window line. -/
def noteWritten (m : Map Nat) (ea n : Nat) : Map Nat :=
  m.ins (ea / 128) (Nat.lor (m.lookD (ea / 128) 0) ((2 ^ n - 1) * 2 ^ (ea % 128)))

/-- Lines that one operation has written whole become full (R158, R272). -/
def State.fillWritten (s : State) (bid : Nat) (b : Block) (m : Map Nat) : State :=
  m.foldl (fun s q =>
    match b.allocAt (128 * q.1) with
    | some a => if q.2 = 2 ^ 128 - 1 then s.fillLine bid (a.lineAt b.core (128 * q.1)) (128 * q.1) else s
    | none => s) s

/-- Which lines an operation had written before its fault is not fixed (R276): it is drawn for each line, and those that were
not written are as they were before. -/
def State.someWritten (old s : State) (b : Block) (m : Map Nat) : Map Nat × State :=
  let kept (q : Nat × Nat) : Bool := (Config.freeByte old.tick q.1).toNat % 2 = 0
  (m.filter kept,
    (m.filter fun q => !(kept q)).foldl (fun s q =>
      match b.allocAt (128 * q.1) with
      | some a =>
        let no := a.lineAt b.core (128 * q.1)
        ({ s with larder := putBytes s.larder (128 * no) (bytesAt old.larder (128 * no) 128), poison := old.poison }).setLine no (old.line no)
      | none => s) { s with tick := old.tick + 1 })

/-- A scale of mmscl: 1.0 where there is none (R285). -/
def State.scaleAt (s : State) (b : Block) (on : Bool) (ea : Nat) : Except MatFault Nat :=
  if !on then .ok 0x3F800000
  else
    match s.arrayRead b ea 4 with
    | .error e => .error e
    | .ok bs => .ok (ofBytes bs)

/-- One element of mmscl (R285): its destination, and the value written with its events. -/
def State.sclElem (s : State) (b : Block) (p mode i j : Nat) : Except MatFault (Nat × Nat × Events) :=
  let f := fmtOf .f32
  let ftz := bit p 39
  let rnd : Rnd := match field p 40 2 with
    | 0 => .rne
    | 1 => .rtz
    | 2 => .rdn
    | _ => .rup
  let ea := (field p 128 32 + i * field p 96 32 + 4 * j) % 2 ^ 21
  match s.scaleAt b (bit p 37) (field p 192 32 + 4 * i), s.scaleAt b (bit p 38) (field p 224 32 + 4 * j),
      s.arrayRead b ea 4 with
  | .ok r, .ok c, .ok bs =>
    let (r, e1) := f.operand ftz r
    let (c, e2) := f.operand ftz c
    let (d, e3) := f.operand ftz (ofBytes bs)
    let v := cellValue mode (s.cell b.core (field p 32 1) i j)
    let x := Num.add rnd (f.value d) ((v.mul (f.value r)).mul (f.value c))
    let (w, e4) := f.round { m := rnd, ftz := ftz } x
    .ok (ea, w, ((e1.plus e2).plus e3).plus e4)
  | .error e, _, _ => .error e
  | _, .error e, _ => .error e
  | _, _, .error e => .error e

/-- The elements of mmscl, row by row, until one faults: lines written, elements done, the fault. -/
def State.sclElems (b : Block) (o : MatOp) (mode ncols : Nat) :
    List (Nat × Nat) → Map Nat → Nat → State → Map Nat × Nat × Option MatFault × State
  | [], m, n, s => (m, n, none, s)
  | (i, j) :: rest, m, n, s =>
    match s.sclElem b o.blk mode i j with
    | .error e => (m, n, some e, s)
    | .ok (ea, w, ev) =>
      match s.arrayWrite b ea (toBytes 4 w) with
      | .error e => (m, n, some e, s)
      | .ok s =>
        State.sclElems b o mode ncols rest (noteWritten m ea 4) (n + 1) (s.countFor b.core o.launch (field o.blk 42 6) ev)

/-- mmscl as a whole (R285): rows written, its fault, and the state. -/
def State.runScl (s : State) (b : Block) (o : MatOp) : Nat × Option MatFault × State :=
  let p := o.blk
  let nrows := rowsOf (field p 8 8)
  let ncols := rowsOf (field p 16 8)
  let mode := field (s.tileWord b.core (field p 32 1)) 16 2
  let cells := (span 0 nrows).flatMap fun i => (span 0 ncols).map fun j => (i, j)
  let (m, n, e, s') := State.sclElems b o mode ncols cells [] 0 s
  let (m, s') := if e.isNone then (m, s') else s.someWritten s' b m
  (n / ncols, e, s'.fillWritten o.bid b m)

/-- The panels of mmst.bank, until one cannot be read (R286). -/
def State.runBank (s : State) (b : Block) (a o : Nat) : Nat → Nat → Nat × Option MatFault × State
  | _, 0 => (0, none, s)
  | k, n + 1 =>
    match s.arrayRead b (a + 24576 * k) 24576 with
    | .error e => (k, some e, s)
    | .ok panel =>
      let s := (span 0 128).foldl (fun s j =>
        s.setSlice b.core j (o + 192 * k) ((panel.drop (192 * j)).take 192)) s
      if n = 0 then (k + 1, none, s) else s.runBank b a o (k + 1) n

/-- The lines of one row of mmst.acc (R286). -/
def State.accRow (b : Block) (tile i : Nat) : List Nat → Nat → State → Except MatFault State
  | [], _, s => .ok s
  | q :: rest, ea, s =>
    let bs := (span (16 * q) 16).flatMap fun j => toBytes 8 (s.cell b.core tile i j)
    match s.arrayWrite b (ea + 128 * q) bs with
    | .error e => .error e
    | .ok s => State.accRow b tile i rest ea s

/-- The rows of mmst.acc, until one cannot be written (R286): rows written, the fault, the lines written, the state. -/
def State.runRows (b : Block) (tile row0 a : Nat) : Nat → Nat → Map Nat → State → Nat × Option MatFault × Map Nat × State
  | i, 0, m, s => (i, none, m, s)
  | i, n + 1, m, s =>
    match State.accRow b tile (row0 + i) (span 0 8) (a + 1024 * i) s with
    | .error e => (i, some e, m, s)
    | .ok s =>
      State.runRows b tile row0 a (i + 1) n
        ((span 0 8).foldl (fun m q => noteWritten m (a + 1024 * i + 128 * q) 128) m) s

/-- mmst.acc as a whole (R286): rows written, its fault, and the state. -/
def State.runAcc (s : State) (b : Block) (bid tile row0 a n : Nat) : Nat × Option MatFault × State :=
  let (k, e, m, s') := State.runRows b tile row0 a 0 n [] s
  let (m, s') := if e.isNone then (m, s') else s.someWritten s' b m
  (k, e, s'.fillWritten bid b m)

/-- What an operation other than mma does, whole: panels or rows written, its fault, and the state. -/
def State.runOther (s : State) (b : Block) (o : MatOp) : Nat × Option MatFault × State :=
  if s.arrayBad b.core then (0, some (0x06, 0), s.meetBad b.core)
  else if o.op = 0xB3 then (0, none, (s.zeroTile b.core (o.blk % 2)).setTileWord b.core (o.blk % 2) false 0 0)
  else if o.op = 0xB4 then s.runScl b o
  else if o.x = 0 then s.runBank b o.addr (bankSpan o.blk).1 0 (field o.blk 16 10)
  else s.runAcc b o.bid (field o.blk 0 1) (field o.blk 8 8) o.addr (rowsOf (field o.blk 16 8))

/-- The matrix-fault record (R276). -/
def matRecord (o : MatOp) (handle core reason addr steps : Nat) : Nat :=
  addr * 2 ^ 192 + handle * 2 ^ 160 + core * 2 ^ 152 + reason * 2 ^ 144 + o.op * 2 ^ 136 + o.x * 2 ^ 132 +
  o.tile * 2 ^ 128 + steps % 2 ^ 16 * 2 ^ 112 + o.token * 2 ^ 82

/-- Report a matrix fault (R276). -/
def State.matFault (s : State) (b : Block) (o : MatOp) (reason addr steps : Nat) : State :=
  s.report o.asid 0x27 reason
    (matRecord o b.handle b.core reason (if reason = 0x04 || reason = 0x06 then 0 else addr) steps)

/-- FLT of the tile of an operation that faulted (R274, R276). -/
def State.markFault (s : State) (core : Nat) (o : MatOp) : State :=
  if o.keys.all fun q => 2 ≤ q then s
  else
    let w := s.tileWord core o.tile
    s.setTileWord core o.tile true (field w 16 2) (field w 0 16)

/-- CLR of an mmscl that has ended without a fault (R276, R285). -/
def State.clearAfter (s : State) (core : Nat) (o : MatOp) : State :=
  if o.op = 0xB4 && bit o.blk 36 then
    (s.zeroTile core (field o.blk 32 1)).setTileWord core (field o.blk 32 1) false 0 0
  else s

/-- An operation leaves the queue: it arrives at its object (R273), and claims that waited for it are released (R277). -/
def State.leaveArray (s : State) (b : Block) (o : MatOp) (steps : Nat) (faulted : Bool) : State :=
  let s := s.setArrayQueue b.core ((s.arrayQueue b.core).filter fun x => x.serial ≠ o.serial)
  let s :=
    if o.op = 0xB3 then s
    else
      match s.objArrive o.bid o.cpl 1 0 with
      | some s => if faulted then s else s.clearAfter b.core o
      | none => (s.markFault b.core o).matFault b o 0x05 o.cpl steps
  s.settleClaims b.core

/-- MATRIX_OP_END: an operation's effects are there, and it arrives (R273, R276). With nowhere to put a report the array
stalls (R361). -/
def execMatrixOpEnd (core : Nat) (s : State) : Host.Outcome State Fault Refusal :=
  event (fun s =>
    match s.current core with
    | none => s
    | some o =>
      match s.blocks.look o.bid with
      | none => s
      | some b =>
        if !o.started || !(s.canReport o.asid) then s
        else if o.op = 0xB0 then
          if !o.finished then s
          else
            let s := if o.fault = 0 then s else s.matFault b o o.fault o.faultAddr o.steps
            s.leaveArray b o o.steps (o.fault ≠ 0)
        else
          let (n, e, s) := s.runOther b o
          match e with
          | none => s.leaveArray b o n false
          | some (r, a) => (((s.logRead b r a).markFault core o).matFault b o r a n).leaveArray b o n true) s

end Sys2Proof.Machine
end

