-- ==== Sys2Proof/Machine/Counters.lean ====
section
/-! DEFINITION. Dumps of exception-counter sets (R101, R103) and cntflush (R104). -/

namespace Sys2Proof.Machine

/-- The address of counter `key` (3 × slot + kind) in a dump area (R103). -/
def counterAddr (addr key : Nat) : Nat := addr + 24 * (key / 3) + 8 * (key % 3)

/-- The add of one counter of a dump into memory, as red.add.n64 makes it (R103, R220). The number of its set stands where an
instruction's access has that of its issue turn. -/
def State.dumpAdd (s : State) (d : PendingDump) (va : Nat) (l : Leaf) : State :=
  let (no, s) := s.fresh
  s.accept
    { no := no, who := .hub, core := d.core, asid := d.asid, launch := d.launch, wid := 0, reply := none, cycle := d.set
      acc := ⟨.red .add .n64, va, 8, d.counts.lookD d.next 0, 0, false, false, 0⟩
      pieces := [⟨va, 0, 8, l, l.pa va (s.leafHalf d.asid l)⟩] }

/-- Add up to n counters of a dump, in ascending order. Where an address cannot be translated the dump stops with a ticket of
its own and keeps what is left (R103, R246). -/
def State.runDump : Nat → PendingDump → State → State
  | 0, _, s => s
  | n + 1, d, s =>
    let va := counterAddr d.addr d.next
    match s.coreWalk d.core d.asid va .atomic with
    | .leaf l => State.runDump n { d with next := d.next + 1 } (s.dumpAdd d va l)
    | .fault r lv e b z =>
      let (t, s) := s.engineTicket d.core d.asid (va - d.addr) va r lv e b z
      { s with dumps := s.dumps ++ [{ d with ticket := some t }] }

/-- Dumps that nothing stops go on (R103, R213). With nowhere to put a report they wait (R361). -/
def State.runDumps (s : State) : State :=
  (s.dumps.filter fun d => d.ticket.isNone && s.canReport d.asid).foldl (fun s d =>
    if s.canReport d.asid then
      State.runDump (192 - d.next) d { s with dumps := s.dumps.filter fun x => x.serial ≠ d.serial }
    else s) s

/-- Dump the counts of a set to an address (R103). -/
def State.startDump (s : State) (core asid addr : Nat) (c : CounterSet) : State :=
  let (n, s) := s.fresh
  ({ s with dumps := s.dumps ++ [⟨n, c.no, core, c.launch, asid, addr, c.counts, 0, none⟩] } : State).runDumps

/-- A dump of a launch is not complete: it is stopped, or one of its adds is still to be performed (R103, R346). -/
def State.dumpsLeft (s : State) (launch : Nat) : Bool :=
  (s.dumps.any fun d => d.launch = launch) || (s.ops ++ s.atPeers).any fun x => x.who = .hub && x.launch = launch

/-- The counter set of a launch on a core. -/
def State.counterSet (s : State) (core launch : Nat) : Option CounterSet :=
  (s.core core).counters.find? fun c => c.launch = launch

/-- The last block of a launch has left the core: its set is dumped and released (R103). -/
def State.releaseSet (s : State) (core launch : Nat) : State :=
  match s.counterSet core launch, s.launches.look launch with
  | some c, some l =>
    (s.updCore core fun k => { k with counters := k.counters.filter fun x => x.launch ≠ launch }).startDump core
      l.asid l.hdr.dump c
  | _, _ => s

/-- Sets in use on a core, by number: bound to a launch that has blocks there, or kept until a dump of it is complete (R101,
R103). -/
def State.setsInUse (s : State) (core : Nat) : List Nat :=
  ((s.core core).counters.map CounterSet.no ++ (s.dumps.filter fun d => d.core = core).map PendingDump.set ++
    ((s.ops ++ s.atPeers).filter fun x => x.who = .hub && x.core = core).map Pending.cycle).eraseDups

/-- A set can be bound to a launch on a core (R101). -/
def State.setFree (s : State) (core launch : Nat) (hdr : Header) : Bool :=
  hdr.dump = 0 || (s.counterSet core launch).isSome || (s.setsInUse core).length < 8

/-- Bind a set to a launch on a core with its first block there (R101). -/
def State.bindSet (s : State) (core launch : Nat) (hdr : Header) : State :=
  if hdr.dump = 0 || (s.counterSet core launch).isSome then s
  else
    let (n, s) := s.fresh
    s.updCore core fun k => { k with counters := k.counters ++ [⟨n, launch, []⟩] }

/-- cntflush for one launch of its participants (R104): the set is zeroed and dumped to the address that its lowest-lane
participant gives, if there is one. -/
def State.flushSet (s : State) (core launch : Nat) (addr : Option Nat) : State :=
  match s.counterSet core launch, s.launches.look launch with
  | some c, some l =>
    let s := s.updCore core fun k =>
      { k with counters := k.counters.map fun x => if x.launch = launch then { x with counts := [] } else x }
    if addr.isNone && l.hdr.dump = 0 then s else s.startDump core l.asid (addr.getD l.hdr.dump) c
  | _, _ => s

/-- cntflush (R104): a release, which waits for the write-backs of its blocks' stash lines; then one dump for each launch of the
participants, after which every participant moves on. -/
def execCntflush (h : Head) (s : State) : Host.Outcome State Fault Refusal :=
  let i := Instr.cntflush h
  let parts := participants i h s
  let launches := (parts.map s.launchOf).eraseDups
  let bids := parts.map fun k => ((s.thread? k).map Thread.bid).getD 0
  let s := bids.foldl State.releaseStash s
  if bids.any s.stashHeld then perLane i (fun _ k _ s => s.holdReplay k) s
  else
    let s := launches.foldl (fun s l =>
      match parts.find? fun k => s.launchOf k = l with
      | none => s
      | some k =>
        let addr := (s.thread? k).bind fun t => if h.a = .reg 0 then none else some (t.rd h.a 64 / 64 * 64)
        s.flushSet (coreOf k) l addr) s
    perLane i (fun _ k t s => s.setThread k (t.next (lenOf i))) s

end Sys2Proof.Machine
end

