-- ==== Sys2Proof/Machine/Sm3.lean ====
section
/-! DEFINITION. The SM3 digest of GB/T 32905 (R298, R304) and the Reed-Solomon code of a stripe over GF(2^8) (R297). -/

namespace Sys2Proof.Machine

/-! ### SM3 -/

/-- The eight words of the SM3 state. -/
structure Sm3 where
  a : BitVec 32
  b : BitVec 32
  c : BitVec 32
  d : BitVec 32
  e : BitVec 32
  f : BitVec 32
  g : BitVec 32
  h : BitVec 32
  deriving DecidableEq, Repr

/-- The initial value of SM3. -/
def Sm3.init : Sm3 :=
  ⟨0x7380166F, 0x4914B2B9, 0x172442D7, 0xDA8A0600, 0xA96F30BC, 0x163138AA, 0xE38DEE4D, 0xB0FB0E4E⟩

/-- The permutation P0. -/
def sm3P0 (x : BitVec 32) : BitVec 32 := x ^^^ x.rotateLeft 9 ^^^ x.rotateLeft 17
/-- The permutation P1. -/
def sm3P1 (x : BitVec 32) : BitVec 32 := x ^^^ x.rotateLeft 15 ^^^ x.rotateLeft 23

/-- The constant of round j. -/
def sm3T (j : Nat) : BitVec 32 := (if j < 16 then 0x79CC4519 else 0x7A879D8A : BitVec 32).rotateLeft (j % 32)

/-- Message words w16 onward, appended to the first 16 (message expansion). -/
def sm3Expand : Nat → List (BitVec 32) → List (BitVec 32)
  | 0, w => w
  | n + 1, w =>
    let at_ (k : Nat) : BitVec 32 := (w[w.length - k]?).getD 0
    sm3Expand n (w ++ [sm3P1 (at_ 16 ^^^ at_ 9 ^^^ (at_ 3).rotateLeft 15) ^^^ (at_ 13).rotateLeft 7 ^^^ at_ 6])

/-- Round j with expanded words w. -/
def sm3Round (w : List (BitVec 32)) (s : Sm3) (j : Nat) : Sm3 :=
  let wj := (w[j]?).getD 0
  let wj' := wj ^^^ (w[j + 4]?).getD 0
  let ss1 := (s.a.rotateLeft 12 + s.e + sm3T j).rotateLeft 7
  let ss2 := ss1 ^^^ s.a.rotateLeft 12
  let ff := if j < 16 then s.a ^^^ s.b ^^^ s.c else (s.a &&& s.b) ||| (s.a &&& s.c) ||| (s.b &&& s.c)
  let gg := if j < 16 then s.e ^^^ s.f ^^^ s.g else (s.e &&& s.f) ||| (~~~s.e &&& s.g)
  { a := ff + s.d + ss2 + wj', b := s.a, c := s.b.rotateLeft 9, d := s.c
    e := sm3P0 (gg + s.h + ss1 + wj), f := s.e, g := s.f.rotateLeft 19, h := s.g }

/-- The big-endian 32-bit words of some bytes. -/
def beWords : List Byte → List (BitVec 32)
  | a :: b :: c :: d :: l => (a ++ b ++ c ++ d) :: beWords l
  | _ => []

/-- Compress one 64-byte block into the state. -/
def sm3Block (s : Sm3) (block : List Byte) : Sm3 :=
  let w := sm3Expand 52 (beWords block)
  let r := (List.range 64).foldl (sm3Round w) s
  ⟨s.a ^^^ r.a, s.b ^^^ r.b, s.c ^^^ r.c, s.d ^^^ r.d, s.e ^^^ r.e, s.f ^^^ r.f, s.g ^^^ r.g, s.h ^^^ r.h⟩

/-- The blocks of a padded message. -/
def sm3Blocks : Nat → List Byte → Sm3 → Sm3
  | 0, _, s => s
  | n + 1, l, s => sm3Blocks n (l.drop 64) (sm3Block s (l.take 64))

/-- n bytes of a value, most significant first. -/
def beBytes (n v : Nat) : List Byte := (List.range n).map fun i => BitVec.ofNat 8 (v / 2 ^ (8 * (n - 1 - i)))

/-- The 32 bytes of the SM3 digest of a message, in standard order. -/
def sm3 (m : List Byte) : List Byte :=
  let zeros := (119 - m.length % 64) % 64
  let padded := m ++ [0x80] ++ List.replicate zeros 0 ++ beBytes 8 (8 * m.length)
  let s := sm3Blocks (padded.length / 64) padded Sm3.init
  [s.a, s.b, s.c, s.d, s.e, s.f, s.g, s.h].flatMap fun w => beBytes 4 w.toNat

/-! ### The code of a stripe -/

/-- Multiplication by x in GF(2^8) with polynomial 0x11D (R297). -/
def gfDouble (a : Byte) : Byte := if a.msb then (a <<< 1) ^^^ 0x1D else a <<< 1

/-- Multiplication in GF(2^8), over the low n bits of the second factor. -/
def gfMulN : Nat → Byte → Byte → Byte
  | 0, _, _ => 0
  | n + 1, a, b => (if b.toNat % 2 = 1 then a else 0) ^^^ gfMulN n (gfDouble a) (b >>> 1)

/-- Multiplication in GF(2^8). -/
def gfMul (a b : Byte) : Byte := gfMulN 8 a b

/-- g^n for the generator g = 2. -/
def gfPow : Nat → Byte
  | 0 => 1
  | n + 1 => gfDouble (gfPow n)

/-- The inverse of a nonzero element: its 254th power. -/
def gfInv (a : Byte) : Byte := (List.range 253).foldl (fun p _ => gfMul p a) a

/-- P of one byte position (R297). -/
def codeP (l : List Byte) : Byte := l.foldl (· ^^^ ·) 0

/-- Q of one byte position, the first byte weighted g^0 (R297). -/
def codeQ (l : List Byte) : Byte := ((List.range l.length).zip l).foldl (fun q p => q ^^^ gfMul (gfPow p.1) p.2) 0

/-- The data byte i of a stripe position from what is known of the ten fragments there (R297): itself, or rebuilt with P
and Q from the others. -/
def rebuildByte (known : Nat → Option Byte) (i : Nat) : Option Byte :=
  let missing := (List.range 8).filter fun j => (known j).isNone
  let data := (List.range 8).map fun j => (known j).getD 0
  match known i, missing, known 8, known 9 with
  | some b, _, _, _ => some b
  | none, [_], some p, _ => some (p ^^^ codeP data)
  | none, [_], none, some q => some (gfMul (q ^^^ codeQ data) (gfInv (gfPow i)))
  | none, [j, k], some p, some q =>
    -- dj + dk = p', g^j dj + g^k dk = q'
    let p' := p ^^^ codeP data
    let q' := q ^^^ codeQ data
    let dk := gfMul (q' ^^^ gfMul (gfPow j) p') (gfInv (gfPow j ^^^ gfPow k))
    some (if i = k then dk else p' ^^^ dk)
  | _, _, _, _ => none

end Sys2Proof.Machine
end

