-- ==== Sys2Proof/Machine/Persist.lean ====
section
/-! DEFINITION. The persistent tier (chapter 12): the write-back queues draining, pfence (R293 to R295), the step tag and
tagged regions (R296, R302, R303), captures and their fragments (R297 to R301), digests (R304) and restore (R305). -/

namespace Sys2Proof.Machine

/-! ### Write-back queues (R289 to R291) -/

/-- An entry may go to the stacks: no queue holds an entry of an older package epoch, or an older one of its granule (R238,
R292). -/
def State.mayDrain (s : State) (e : WbEntry) : Bool :=
  !(s.wbqs.flatten.any fun x => x.epoch < e.epoch || (x.no < e.no && x.pa / 32 = e.pa / 32))

/-- WBQ_DRAIN_ENTRY: the oldest entry of a queue is written to the stacks and leaves it (R289). -/
def execWbqDrainEntry (die : Nat) (s : State) : Host.Outcome State Fault Refusal :=
  event (fun s =>
    match s.wbq die with
    | [] => s
    | e :: rest => if s.mayDrain e then { s with scm := putBytes s.scm e.pa e.bytes, wbqs := setAt s.wbqs die rest } else s) s

/-- The accesses that wait to write under a persist domain through the queue of a die (R289, R290). -/
def State.heldFor (s : State) (die : Nat) : List Pending :=
  s.ops.filter fun x => s.persists x && x.pieces.any fun p => queueDie x.core p.pa = die

/-- WBQ_ROOM_WRITE: the oldest access that waits to write through a die's queue and that nothing delays any more is performed
(R290, R291, R295). -/
def execWbqRoomWrite (die : Nat) (s : State) : Host.Outcome State Fault Refusal :=
  event (fun s => ((s.heldFor die).findSome? s.tryOp).getD s) s

/-- ENERGY_RESERVE_MEASURE: ARMED, QCAP, ENERGY and DRAIN of PSTAT; ARMED is 0 before full service (R291, R380). -/
def execEnergyReserveMeasure (energy qcap drain : Nat) (armed : Bool) (s : State) : Host.Outcome State Fault Refusal :=
  event (fun s =>
    let lost := field s.regs.pstat.toNat 61 2
    let v := b2n (armed && s.regs.bootstage.toNat % 16 = 3) * 2 ^ 63 + lost * 2 ^ 61 + min 4096 qcap * 2 ^ 32 + energy % 2 ^ 16 * 2 ^ 16 + min 40 drain
    { s with regs := { s.regs with pstat := BitVec.ofNat 64 v } }) s

/-! ### pfence (R293 to R295) -/

/-- pfence in one thread: D is written when it completes. -/
def pfenceBody (i : Instr) (pkg : Bool) (h : Head) (k : Nat) (t : Thread) (s : State) : State :=
  let (wid, s) := s.newWid i h
  let (n, s) := (s.setThread k (t.sendOff i h wid)).fresh
  { s with pfences := s.pfences ++ [⟨n, dieOf (coreOf k), pkg, wid, .thread t.bid t.lin⟩] }

/-- pfence.die (R293). -/
def execPfenceDie (h : Head) (s : State) : Host.Outcome State Fault Refusal :=
  perLane (.pfenceDie h) (pfenceBody (.pfenceDie h) false) s

/-- pfence.pkg (R293). -/
def execPfencePkg (h : Head) (s : State) : Host.Outcome State Fault Refusal :=
  perLane (.pfencePkg h) (pfenceBody (.pfencePkg h) true) s

/-- A piece of a write lies within the reach of a pfence (R294). -/
def Pfence.reaches (p : Pfence) (core : Nat) (q : Piece) : Bool :=
  q.leaf.pdom ≠ 0 && (p.pkg || (q.leaf.pdom = 1 && p.die = queueDie core q.pa))

/-- Every persist write that happens before a pfence, within its reach, has entered its queue (R295): none that its thread issued
before it waits, and what others' writes it has seen are performed. While ARMED is 0 the entries have to have reached the stacks
(R291). -/
def State.pfenceDone (s : State) (p : Pfence) : Bool :=
  !(s.ops.any fun x => x.who = p.who && x.no < p.serial && s.persists x && x.pieces.any (p.reaches x.core)) &&
  (s.armed || (if p.pkg then s.wbqs.flatten else s.wbq p.die).all fun e => p.serial ≤ e.no)

/-- PFENCE_COMPLETE: D receives 1; pfence.pkg ends the package epoch (R295). -/
def execPfenceComplete (serial : Nat) (s : State) : Host.Outcome State Fault Refusal :=
  event (fun s =>
    match s.pfences.find? fun p => p.serial = serial with
    | none => s
    | some p =>
      if s.pfenceDone p then
        { s with pfences := s.pfences.filter fun q => q.serial ≠ serial
                 epoch := if p.pkg then s.epoch + 1 else s.epoch }.setIncoming p.wid 1
      else s) s

/-! ### The region table (R296) -/

/-- All ones: no step. -/
def noStep : Nat := 2 ^ 64 - 1

/-- TRBASE of a context. -/
def State.trbase (s : State) (asid : Nat) : Nat := ((s.ctx? asid).map Context.trbase).getD 0

/-- The region table entry r of a context. -/
def State.regionEntry (s : State) (asid r : Nat) : Nat := s.ctxVal asid (s.trbase asid + 64 * r) 64

/-- V. -/
def regV (e : Nat) : Bool := bit e 0
/-- SNAP. -/
def regSnap (e : Nat) : Bool := bit e 1
/-- NPEER. -/
def regNpeer (e : Nat) : Nat := field e 138 6
/-- LAG. -/
def regLag (e : Nat) : Nat := field e 144 16
/-- DONE. -/
def regDone (e : Nat) : Nat := field e 160 32
/-- PEERS. -/
def regPeers (e : Nat) : Nat := field e 192 64
/-- SIZE in chunks of 1 MiB. -/
def regChunks (e : Nat) : Nat := field e 256 64 / 2 ^ 20
/-- BASE. -/
def regBase (e : Nat) : Nat := field e 320 64
/-- CAPT. -/
def regCapt (e : Nat) : Nat := field e 384 64
/-- STABLE. -/
def regStable (e : Nat) : Nat := field e 448 64

/-- The device writes n bytes of an entry at an offset. -/
def State.putRegion (s : State) (asid r ofs n v : Nat) : State := s.ctxPut asid (s.trbase asid + 64 * r + ofs) n v

/-- The device writes ERR. -/
def State.putErr (s : State) (asid r : Nat) (err : Bool) : State :=
  let low := field (s.regionEntry asid r) 0 8
  s.putRegion asid r 0 1 (low - field low 2 1 * 4 + b2n err * 4)

/-- The step word. -/
def State.stepWord (s : State) (asid : Nat) : Nat := s.ctxVal asid (s.trbase asid + 1024) 8

/-! ### Captures (R299, R300) -/

/-- The capture that runs of a region. -/
def State.captureOf (s : State) (asid r : Nat) : Option Capture :=
  s.captures.find? fun c => c.asid = asid && c.region = r

/-- Change a capture. -/
def State.updCapture (s : State) (c : Capture) (f : Capture → Capture) : State :=
  { s with captures := s.captures.map fun d => if d.asid = c.asid && d.region = c.region then f d else d }

/-- The key of a region of a context. -/
def regionKey (asid r : Nat) : Nat := asid * 16 + r

/-- The slot that holds STABLE of a region (R297). -/
def State.stableSlot (s : State) (asid r : Nat) : Nat := s.stableSlots.lookD (regionKey asid r) 0

/-- The job identifier of a context (R298). -/
def State.jobOf (s : State) (asid : Nat) : Nat := s.ctxVal asid (s.trbase asid + 1032) 8

/-- The packages of a region's peer table (R296). -/
def State.regionPeers (s : State) (asid r : Nat) : List Nat :=
  let e := s.regionEntry asid r
  (span 0 (regNpeer e)).map fun i => s.ctxVal asid (regPeers e + 2 * i) 2

/-- The slot that a capture of a region writes, the one that does not hold STABLE, is discarded at every peer that answers: a
fragment without data and trailer says so (R297, R300, R301, log 61). -/
def State.discardSlot (s : State) (asid r step : Nat) : State :=
  ((s.regionPeers asid r).filter s.peerUp).foldl (fun s p =>
    s.send (.fragment p (s.jobOf asid) r step 0 0 (1 - s.stableSlot asid r) [] [])) s

/-- A capture fails: ERR := 1, CAPT all ones, STABLE unchanged; its slot is discarded, and the writes that wait for its chunks do
so no longer (R300). -/
def State.captureFail (s : State) (asid r : Nat) : State :=
  match s.captureOf asid r with
  | none => s
  | some c =>
    let s : State := { s with captures := s.captures.filter fun d => !(d.asid = asid && d.region = r) }
    ((s.putErr asid r true).putRegion asid r 48 8 noStep).discardSlot asid r c.step

/-- Lines that hold bytes of the region that a capture would read: dirty stash lines of the package (R161, R299). -/
def State.regionDirty (s : State) (c : Capture) : List StashLine :=
  (s.dirtyAmong s.stashBound).filter fun l => s.spaceOf l.leaf = 0 && (s.chunkOf c l.pa).isSome

/-- The capture of a region that a steptag starts (R297, R299, R302). -/
def State.newCapture (s : State) (asid r step : Nat) : Capture :=
  { asid := asid, region := r, step := step, start := s.now, captured := [], onWrite := [], stripes := [], lagOver := false
    slot := 1 - s.stableSlot asid r, halves := s.currentHalves asid }

/-- A capture starts (R302): CAPT := the step, DONE := 0. Partial sums of the region's lines are merged first, as the
engine's reads would (R233). -/
def State.startCapture (s : State) (asid r step : Nat) : State :=
  let c := s.newCapture asid r step
  let s := s.partials.foldl (fun s p =>
    if (s.chunkOf c (128 * p.line)).isSome then (s.tryMerge (128 * p.line)).getD s else s) s
  let s := (s.putRegion asid r 48 8 step).putRegion asid r 20 4 0
  { s with captures := s.captures ++ [c] }

/-- n bytes of a list of bytes other than zero by offset, from offset i. -/
def dense : Nat → Nat → Map Byte → List Byte
  | 0, _, _ => []
  | n + 1, i, [] => 0 :: dense n (i + 1) []
  | n + 1, i, (k, b) :: m => if k = i then b :: dense n (i + 1) m else 0 :: dense n (i + 1) ((k, b) :: m)

/-- Bytes other than zero by offset. -/
def sparse (bs : List Byte) : Map Byte := ((span 0 bs.length).zip bs).filter fun p => p.2 ≠ 0

/-- The bytes of one 64 KiB page of a chunk, in the half that was current when the capture started (R253), or none where the data
cannot be corrected (R372). -/
def State.chunkPage (s : State) (c : Capture) (va : Nat) : Option (List Byte) :=
  match s.hubLeaf c.asid va with
  | none => some (List.replicate 65536 0)
  | some l =>
    let pa := l.pa va (halfOf c.halves l)
    if s.bad pa 65536 then none else some (bytesAt s.memory pa 65536)

/-- The bytes of a chunk other than zero, by offset. -/
def State.chunkData (s : State) (c : Capture) (base : Nat) : Option (Map Byte) :=
  ((span 0 16).mapM fun i => s.chunkPage c (base + 65536 * i)).map fun l => sparse l.flatten

/-- The words of a chunk whose data no code corrects are entered in ARRLOG (R372). -/
def State.logChunk (s : State) (c : Capture) (base : Nat) : State :=
  (span 0 16).foldl (fun s i =>
    match s.hubLeaf c.asid (base + 65536 * i) with
    | some l =>
      let pa := l.pa (base + 65536 * i) (halfOf c.halves l)
      s.logWords ((s.poison.filter fun w => pa / 32 ≤ w.1 && w.1 < pa / 32 + 2048).map Prod.fst)
    | none => s) s

/-- All eight chunks of a stripe are captured. -/
def Capture.stripeDone (c : Capture) (t : Nat) : Bool :=
  (span (8 * t) 8).all fun k => c.captured.any fun p => p.1 = k

/-- The data of a captured chunk. -/
def Capture.data (c : Capture) (k : Nat) : Map Byte := ((c.captured.find? fun p => p.1 = k).map Prod.snd).getD []

/-- The union of the offsets of some sparse chunks. -/
def offsets (l : List (Map Byte)) : List Nat :=
  (l.foldl (fun (m : Map Byte) d => d.foldl (fun (m : Map Byte) p => Map.ins m p.1 p.2) m) ([] : Map Byte)).map Prod.fst

/-- P or Q of eight data chunks (R297). -/
def codeOf (f : List Byte → Byte) (l : List (Map Byte)) : Map Byte :=
  ((offsets l).map fun o => (o, f (l.map fun d => d.lookD o 0))).filter fun p => p.2 ≠ 0

/-- The trailer of a fragment (R298), with the digests of the stripe's eight data chunks. -/
def trailerOf (job step frag r t pkg : Nat) (digests : List Byte) : List Byte :=
  let head := toBytes 8 job ++ toBytes 8 step ++ toBytes 4 (frag * 2 ^ 24 + r * 2 ^ 20 + t) ++ toBytes 2 pkg ++
    List.replicate 10 0 ++ digests ++ List.replicate 192 0
  head ++ sm3 head

/-- Ten fragments of a complete stripe go to their peers (R297 to R299). -/
def State.sendStripe (s : State) (c : Capture) (t : Nat) : State :=
  let peers := s.regionPeers c.asid c.region
  let job := s.jobOf c.asid
  let chunks := (span (8 * t) 8).map c.data
  let digests := chunks.flatMap fun d => sm3 (dense (2 ^ 20) 0 d)
  let all := chunks ++ [codeOf codeP chunks, codeOf codeQ chunks]
  ((span 0 10).zip all).foldl (fun s p =>
    let peer := (peers[(t + p.1) % max 1 peers.length]?).getD 0
    s.send (.fragment peer job c.region c.step t p.1 c.slot p.2
      (trailerOf job c.step p.1 c.region t s.pkg digests))) s

/-- A chunk is captured whole (R299): DONE advances, the writes that wait for it can go on, and a complete stripe is sent.
Data that no code corrects fails the capture (R372). -/
def State.captureChunk (s : State) (c : Capture) (k : Nat) : State :=
  let e := s.regionEntry c.asid c.region
  let base := regBase e + 2 ^ 20 * k
  match s.chunkData c base with
  | none => (s.logChunk c base).captureFail c.asid c.region
  | some d =>
    let c' : Capture := { c with captured := c.captured ++ [(k, d)], onWrite := c.onWrite.filter fun x => x ≠ k }
    let s := (s.updCapture c fun _ => c').putRegion c.asid c.region 20 4 (c.captured.length + 1)
    if c'.stripeDone (k / 8) then s.sendStripe c' (k / 8) else s

/-- The collective engine reads some bytes: chunks under capture that hold them are captured in passing (R299). -/
def State.capturePassing (s : State) (pa : Nat) : State :=
  s.captures.foldl (fun s c =>
    match s.chunkOf c pa with
    | some k => if c.captured.any fun p => p.1 = k then s else s.captureChunk c k
    | none => s) s

/-- CHUNK_CAPTURE_LAG_EXPIRY: LAG µs after the steptag the engine reads every chunk not captured yet (R299). -/
def execChunkCaptureLagExpiry (asid region : Nat) (s : State) : Host.Outcome State Fault Refusal :=
  event (fun s =>
    match s.captureOf asid region with
    | none => s
    | some c =>
      if c.start + regLag (s.regionEntry asid region) ≤ s.now then s.updCapture c fun c => { c with lagOver := true } else s) s

/-- Physical addresses that writes waiting somewhere are to: those of the accesses that wait, and dirty stash lines (R161, R290). -/
def State.waitingWrites (s : State) : List Nat :=
  (s.ops.flatMap fun x => if x.isRead then [] else x.pieces.filterMap fun p => if s.spaceOf p.leaf = 0 then some p.pa else none) ++
  (s.dirtyAmong s.stashBound).filterMap fun l => if s.spaceOf l.leaf = 0 then some l.pa else none

/-- CHUNK_CAPTURE_ON_WRITE: a write waits for a chunk, so the engine captures it (R299). -/
def execChunkCaptureOnWrite (asid region chunk : Nat) (s : State) : Host.Outcome State Fault Refusal :=
  event (fun s =>
    match s.captureOf asid region with
    | none => s
    | some c =>
      match s.waitingWrites.find? fun pa => s.chunkOf c pa = some chunk with
      | some pa => s.noteWrite pa
      | none => s) s

/-- CHUNK_CAPTURE_COMPLETE: a chunk that the engine reads, because the lag is over or a write waits for it, is captured
(R299). -/
def execChunkCaptureComplete (asid region chunk : Nat) (s : State) : Host.Outcome State Fault Refusal :=
  event (fun s =>
    match s.captureOf asid region with
    | none => s
    | some c =>
      if (c.lagOver || c.onWrite.contains chunk) && chunk < regChunks (s.regionEntry asid region) &&
          !(c.captured.any fun p => p.1 = chunk) then s.captureChunk c chunk
      else s) s

/-- STRIPE_FRAGMENTS_DURABLE: the ten fragments of a stripe are durable at their peers; with the last stripe the capture
is complete: STABLE := s, CAPT all ones, ERR := 0 (R299). A fragment that its store refuses fails the capture (R300). -/
def execStripeFragmentsDurable (asid region stripe : Nat) (stored : Bool) (s : State) : Host.Outcome State Fault Refusal :=
  event (fun s =>
    match s.captureOf asid region with
    | none => s
    | some c =>
      if !(c.stripeDone stripe) || c.stripes.contains stripe then s
      else if !stored then s.captureFail asid region
      else if 8 * (c.stripes.length + 1) < regChunks (s.regionEntry asid region) then
        s.updCapture c fun c => { c with stripes := c.stripes ++ [stripe] }
      else
        let s : State := { s with captures := s.captures.filter fun d => !(d.asid = asid && d.region = region) }
        let s : State := { s with stableSlots := s.stableSlots.put 0 (regionKey asid region) c.slot }
        ((s.putRegion asid region 56 8 c.step).putRegion asid region 48 8 noStep).putErr asid region false) s

/-- FRAGMENT_STORE_WRITE: a fragment from a peer is held in this package's store, in its slot of the region, where it replaces what
the slot held of its stripe; without a trailer the slot is discarded (R297, R298, R300, log 61). Fragments of this package itself
are those that a restore reads back from its peers, and the Stitcher reads those of a lost package from others (log 31). -/
def execFragmentStoreWrite (pkg job slot step stripe frag : Nat) (data trailer : List Byte) (s : State) :
    Host.Outcome State Fault Refusal :=
  let region := slot / 2
  let slot := slot % 2
  arrivalAny 5 (fun s =>
    let same (f : Fragment) : Bool := f.pkg = pkg && f.job = job && f.region = region && f.slot = slot
    if trailer.isEmpty then { s with fragments := s.fragments.filter fun f => !(same f) }
    else
      let others := s.fragments.filter fun f => !(same f && f.stripe = stripe && f.frag = frag)
      { s with fragments := others ++ [⟨pkg, job, region, step, stripe, frag, slot, sparse data, trailer⟩] }) s

/-- Captures that a context's region table names when the context is created or resumed are failed: ERR := 1, CAPT all
ones (R301). -/
def State.failStale (s : State) (asid : Nat) : State :=
  (span 0 16).foldl (fun s r =>
    let e := s.regionEntry asid r
    if regV e && regCapt e ≠ noStep then
      let s : State := { s with captures := s.captures.filter fun d => !(d.asid = asid && d.region = r) }
      ((s.putErr asid r true).putRegion asid r 48 8 noStep).discardSlot asid r (regCapt e)
    else s) s

/-! ### steptag and snap -/

/-- steptag in one thread, a release (R302). Dirty stash lines of the regions that it captures are written back first, since the
capture reads as engines do (R161, R299). -/
def steptagBody (i : Instr) (h : Head) (k : Nat) (t : Thread) (s : State) : State :=
  let asid := s.asidOf k
  let m := t.rdB h.b 32
  let named := (span 0 16).filter fun r => bit m r
  if 2 ^ 16 ≤ m || named.any fun r => !(regV (s.regionEntry asid r)) then s.trap k 0x0C 0x01 m
  else
    s.releasing k t.bid fun s =>
      let snaps := named.filter fun r => regSnap (s.regionEntry asid r)
      if snaps.any fun r => regCapt (s.regionEntry asid r) ≠ noStep || (s.captureOf asid r).isSome then
        s.answer k t i h noStep
      else
        let step := s.stepWord asid
        let lines (s : State) : List StashLine := snaps.flatMap fun r => s.regionDirty (s.newCapture asid r step)
        let s := s.flushSome (lines s)
        if !(lines s).isEmpty then s.holdReplay k
        else
          let s := s.ctxPut asid (s.trbase asid + 1024) 8 ((step + 1) % 2 ^ 64)
          let s := snaps.foldl (fun s r => s.startCapture asid r step) s
          s.answer k t i h ((step + 1) % 2 ^ 64)

/-- steptag (R302). -/
def execSteptag (h : Head) (s : State) : Host.Outcome State Fault Refusal :=
  perLane (.steptag h) (steptagBody (.steptag h)) s

/-- snap on a region that is registered (R303). -/
def snapBody (i : Instr) (f : Nat → Nat → Option Capture → State → Nat × State) (h : Head) (k : Nat) (t : Thread)
    (s : State) : State :=
  let asid := s.asidOf k
  let r := t.rdB h.b 32
  if 16 ≤ r || !(regV (s.regionEntry asid r)) then s.trap k 0x0C 0x02 r
  else
    let (v, s) := f asid r (s.captureOf asid r) s
    s.answer k t i h v

/-- snap.stat (R303). -/
def execSnapStat (h : Head) (s : State) : Host.Outcome State Fault Refusal :=
  perLane (.snapStat h) (snapBody (.snapStat h) fun asid r _ s => (regStable (s.regionEntry asid r), s)) s

/-- snap.go (R303). -/
def execSnapGo (h : Head) (s : State) : Host.Outcome State Fault Refusal :=
  perLane (.snapGo h) (snapBody (.snapGo h) fun asid r c s =>
    match c with
    | none => (0xFFFFFFFF, s)
    | some c => (regChunks (s.regionEntry asid r) - c.captured.length, s.updCapture c fun c => { c with lagOver := true })) s

/-- snap.abort (R303). -/
def execSnapAbort (h : Head) (s : State) : Host.Outcome State Fault Refusal :=
  perLane (.snapAbort h) (snapBody (.snapAbort h) fun asid r c s =>
    match c with
    | none => (0, s)
    | some _ => (1, s.captureFail asid r)) s

/-! ### digest (R304) -/

/-- digest in one thread. -/
def digestBody (i : Instr) (h : Head) (k : Nat) (t : Thread) (s : State) : State :=
  let addr := t.rd h.a 64
  let n := t.rdB h.b 32
  let dst := t.rd h.c 64
  if 2 ^ 52 < addr + n || 2 ^ 52 ≤ addr then s.trap k 0x08 0x01 addr
  else if 2 ^ 52 ≤ dst then s.trap k 0x08 0x01 dst
  else if dst % 32 ≠ 0 then s.trap k 0x08 0x02 dst
  else if 256 ≤ s.digests.length then s.answer k t i h 0
  else
    let (wid, s) := s.newWid i h
    let (serial, s) := ((s.setThread k (t.sendOff i h wid)).signRequest k
      (toBytes 8 addr ++ toBytes 4 n ++ toBytes 8 dst)).fresh
    { s with digests := s.digests ++ [⟨serial, s.asidOf k, t.bid, coreOf k, addr, n, dst, wid, s.currentHalves (s.asidOf k), none, [], []⟩] }

/-- digest (R304). -/
def execDigest (h : Head) (s : State) : Host.Outcome State Fault Refusal :=
  perLane (.digest h) (digestBody (.digest h)) s

/-- Pieces of a range that each lie in one 32-byte word, up to `count` of them. -/
def wordPieces : Nat → Nat → Nat → List (Nat × Nat × Nat)
  | 0, _, _ => []
  | c + 1, va, n => if n = 0 then [] else
    let m := min n (32 - va % 32)
    (va, 0, m) :: wordPieces c (va + m) (n - m)

/-- Change a digest request. -/
def State.updDigest (s : State) (serial : Nat) (f : DigestReq → DigestReq) : State :=
  { s with digests := s.digests.map fun d => if d.serial = serial then f d else d }

/-- A digest request ends with a value of D. -/
def State.endDigest (s : State) (d : DigestReq) (v : Nat) : State :=
  { s with digests := s.digests.filter fun x => x.serial ≠ d.serial }.setIncoming d.wid v

/-- What stops the snapshot engine's access for a digest, at a byte offset (R246, R304, R314, R372). -/
def State.stopDigest (s : State) (d : DigestReq) (ofs : Nat → Nat) : EStop → State
  | .trans va r l e b z =>
    let (n, s) := s.engineTicket 192 d.asid (ofs va) va r l e b z
    s.updDigest d.serial fun d => { d with ticket := some n }
  | .bad l => (s.logWords l).endDigest d 2
  | .need l pa va n => s.needPeer d.serial d.asid d.bid l pa va n
  | .put l pa va bs => s.putPeer d.serial d.asid d.bid l pa va bs
  | .held pa => s.noteWrite pa
  | .reason _ | .fetch _ | .wait => s

/-- The 32 bytes a digest is written to. -/
def State.digestWrite (s : State) (d : DigestReq) (bs : List Byte) : Except EStop State :=
  match s.engineWalk 192 d.asid d.dst .engineWrite with
  | .fault r l e b z => .error (.trans d.dst r l e b z)
  | .leaf l =>
    let pa := l.pa d.dst (s.leafHalf d.asid l)
    if 2 ≤ s.spaceOf l then if d.acked.contains d.dst then .ok s else .error (.put l pa d.dst bs)
    else orHeld pa (s.tryStore .hub 0 (hubDie pa) d.asid d.bid pa l bs (.written d.serial d.dst))

/-- DIGEST_COMPLETE: the range is read, its digest written, and D receives 1; an uncorrectable error gives 2 (R304). -/
def execDigestComplete (serial : Nat) (uncorrectable : Bool) (s : State) : Host.Outcome State Fault Refusal :=
  event (fun s =>
    match s.digests.find? fun d => d.serial = serial with
    | none => s
    | some d =>
      if d.ticket.isSome || !(s.engineRuns d.asid) then s
      else if uncorrectable then s.endDigest d 2
      else
        match s.engineRead 192 d.asid d.halves d.got (wordPieces (d.len / 32 + 2) d.addr d.len) with
        | .error x => s.stopDigest d (fun va => va - d.addr) x
        | .ok (bs, s) =>
          match s.digestWrite d (sm3 bs) with
          | .error x => s.stopDigest d (fun _ => d.len) x
          | .ok s => s.endDigest d 1) s

/-! ### Restore (R305) -/

/-- The value of RSTCTL with a status and a chunk index of the first failure. -/
def rstctlWith (v status failed : Nat) : BitVec 64 :=
  BitVec.ofNat 64 (status % 8 * 2 ^ 60 + field v 27 25 * 2 ^ 27 + failed % 2 ^ 16)

/-- A write of RSTCTL starts a restore; while BUSY is 1 it is ignored. -/
def State.writeRstctl (s : State) (v : Nat) : State :=
  if bit s.regs.rstctl.toNat 63 then s
  else
    let w := BitVec.ofNat 64 (2 ^ 63 + 2 ^ 60 + field v 27 25 * 2 ^ 27)
    { s with regs := { s.regs with rstctl := w } }

/-- RSTCTL (R305). -/
def execRstctl (value : Nat) (s : State) : Host.Outcome State Fault Refusal := event (fun s => s.writeRstctl value) s

/-- A fragment is accepted: its trailer's digest is correct, and job, step, indices and package match (R298, R305). -/
def Fragment.accepted (f : Fragment) (pkg job region step t i : Nat) : Bool :=
  let head := f.trailer.take 0x1E0
  f.trailer.length = 512 && f.trailer.drop 0x1E0 = sm3 head &&
  ofBytes (head.take 8) = job && ofBytes ((head.drop 8).take 8) = step &&
  ofBytes ((head.drop 16).take 4) = i * 2 ^ 24 + region * 2 ^ 20 + t && ofBytes ((head.drop 20).take 2) = pkg

/-- The accepted fragment i of a stripe. One that is not accepted counts as missing (R305, R372). -/
def State.fragmentFor (s : State) (pkg job region step t i : Nat) : Option Fragment :=
  s.fragments.find? fun f => f.pkg = pkg && f.region = region && f.step = step && f.stripe = t && f.frag = i &&
    f.accepted pkg job region step t i

/-- Data chunk i of a stripe from the fragments known (R297). -/
def rebuildChunk (known : List (Option (Map Byte))) (i : Nat) : Map Byte :=
  match (known[i]?).getD none with
  | some d => d
  | none =>
    let l := known.filterMap id
    ((offsets l).filterMap fun o =>
      (rebuildByte (fun j => ((known[j]?).getD none).map fun d => d.lookD o 0) i).map fun b => (o, b)).filter fun p => p.2 ≠ 0

/-- Indices of the data chunks whose digest differs from the trailers' (R298, R305). -/
def badChunks (digests : List Byte) (chunks : List (Map Byte)) : List Nat :=
  (span 0 8).filter fun i => sm3 (dense (2 ^ 20) 0 ((chunks[i]?).getD [])) ≠ (digests.drop (32 * i)).take 32

/-- The eight data chunks of a stripe, or the status and the index of the failure (R305). -/
def State.rebuildStripe (s : State) (pkg job region step t : Nat) : Except (Nat × Nat) (List (Map Byte)) :=
  let found := (span 0 10).map fun i => s.fragmentFor pkg job region step t i
  let known := found.map fun f => f.map Fragment.data
  let present := found.filterMap id
  if present.length < 8 then .error (3, 8 * t)
  else
    let digests := ((present.head?).map fun f => (f.trailer.drop 0x20).take 256).getD []
    let chunks := (span 0 8).map (rebuildChunk known)
    match badChunks digests chunks with
    | [] => .ok chunks
    | i :: _ =>
      if present.length < 10 then .error (2, 8 * t + i)
      else
        let fixed := (span 0 8).map (rebuildChunk (setAt known i none))
        match badChunks digests fixed with
        | [] => .ok fixed
        | j :: _ => .error (2, 8 * t + j)

/-- Restore the stripes of a region, as pages of it (R305). -/
def State.restoreStripes (asid pkg job region step base : Nat) : List Nat → State → Except (Nat × Nat × State) State
  | [], s => .ok s
  | t :: rest, s =>
    match s.rebuildStripe pkg job region step t with
    | .error (st, k) => .error (st, k, s)
    | .ok chunks =>
      State.restoreStripes asid pkg job region step base rest
        (((span 0 8).zip chunks).foldl (fun s p =>
          s.ctxStoreUnits asid (base + 2 ^ 20 * (8 * t + p.1)) (units64 (dense (2 ^ 20) 0 p.2))) s)

/-- Restore regions of a context at a step. -/
def State.restoreRegions (asid pkg job step : Nat) : List Nat → State → Except (Nat × Nat × State) State
  | [], s => .ok s
  | r :: rest, s =>
    let e := s.regionEntry asid r
    match State.restoreStripes asid pkg job r step (regBase e) (span 0 (regChunks e / 8)) s with
    | .error x => .error x
    | .ok s => State.restoreRegions asid pkg job step rest s

/-- The contents of the regions that a failed restore names are undefined (R305): every byte of them is drawn. -/
def State.undefineRegions (s : State) (asid : Nat) (regions : List Nat) : State :=
  let tick := s.tick
  regions.foldl (fun s r =>
    let e := s.regionEntry asid r
    (span 0 (regChunks e)).foldl (fun s k =>
      let a := regBase e + 2 ^ 20 * k
      s.ctxStoreUnits asid a (units64 ((span a (2 ^ 20)).map (Config.freeByte tick)))) s) { s with tick := tick + 1 }

/-- The attempt to restore the regions of a mask from fragments of a package (R305): status, chunk of the first failure,
state. -/
def State.restoreTry (s : State) (asid pkg mask : Nat) : Nat × Nat × State :=
  let regions := (span 0 16).filter fun r => bit mask r
  let steps := (regions.map fun r => regStable (s.regionEntry asid r)).eraseDups
  match steps with
  | [] => (0, 0, s)
  | [step] =>
    if step = noStep || (s.ctx? asid).isNone then (5, 0, s)
    else
      match State.restoreRegions asid pkg (s.jobOf asid) step regions s with
      | .error x => x
      | .ok s => (0, 0, s.ctxPut asid (s.trbase asid + 1024) 8 step)
  | _ => (4, 0, s)

/-- A restore (R305): the contents of the regions are undefined when it fails. -/
def State.restoreRun (s : State) (asid pkg mask : Nat) : Nat × Nat × State :=
  let x := s.restoreTry asid pkg mask
  if x.1 = 0 then x else (x.1, x.2.1, x.2.2.undefineRegions asid ((span 0 16).filter fun r => bit mask r))

/-- A restore whose writes have been handed over ends once they are performed (R305). -/
def State.endRestore (s : State) : State :=
  match s.regs.restored with
  | none => s
  | some (status, failed) =>
    if (s.opsOf .hub).isEmpty then
      { s with regs := { s.regs with rstctl := rstctlWith s.regs.rstctl.toNat status failed, restored := none } }
    else s

/-- RESTORE_COMPLETE (R305). -/
def execRestoreComplete (s : State) : Host.Outcome State Fault Refusal :=
  event (fun s =>
    let v := s.regs.rstctl.toNat
    if !(bit v 63) then s
    else if s.regs.restored.isSome then s.endRestore
    else
      let (status, failed, s) := s.restoreRun (field v 27 9) s.pkg (field v 36 16)
      ({ s with regs := { s.regs with restored := some (status, failed) } } : State).endRestore) s

end Sys2Proof.Machine
end

