-- ==== Sys2Proof/Machine/Events.lean ====
section
/-! DEFINITION. Steps of the device that threads and records wait for: incoming writes (R129), parks on pending registers
(R71), replays (R209), timers and watched words (R136, R139, R146), walks, tickets and invalidations (R205, R211 to R214),
room in the fault queue (R361), and memory requests of the host and of peer packages (R314, R396). -/

namespace Sys2Proof.Machine

/-! ### Incoming writes -/

/-- The data of an incoming write that has returned is written to the registers it still writes (R72, R129). -/
def Thread.land (t : Thread) (wid : Nat) : Thread :=
  match t.incoming.find? fun i => i.wid = wid with
  | none => t
  | some i =>
    match i.data with
    | none => t
    | some v => { t with regs := landRegs t.regs i.live i.reg (regWords i.width) v
                         incoming := t.incoming.filter fun j => j.wid ≠ wid }

/-- The same in a record's register area (R129, R131). -/
def Record.land (r : Record) (wid : Nat) : Record :=
  match r.incoming.find? fun i => i.wid = wid && r.awaits i with
  | none => r
  | some i =>
    match i.data with
    | none => r
    | some v => { r with regs := landRegs r.regs (i.live.filter fun n => n ≤ r.keep) i.reg (regWords i.width) v
                         landed := r.landed ++ [wid] }

/-- INCOMING_WRITE_COMPLETE: a register, or a record's register area, receives the data; miss-status entries are freed
(R71, R72, R129, R135, R209). -/
def execIncomingWriteComplete (wid : Nat) (s : State) : Host.Outcome State Fault Refusal :=
  event (fun s =>
    let waits (i : Incoming) : Bool := i.wid = wid && i.data.isNone
    if (s.threads.any fun p => p.2.incoming.any waits) || (s.records.any fun p => p.2.incoming.any waits) then s
    else
      let hit := s.records.filter fun p => p.2.incoming.any fun i => i.wid = wid && p.2.awaits i
      let s : State := { s with threads := s.threads.map fun p => (p.1, p.2.land wid)
                                records := s.records.map fun p => (p.1, p.2.land wid) }
      let s := hit.foldl (fun s p => (s.syncRecord p.1).settleUnit p.2.unit) s
      s.freeMiss wid) s

/-! ### Parks before an instruction issues -/

/-- The range that the walk of an access ends on: the page or the entry's range of its first byte without a TLB entry (R205,
R211). -/
def State.walkRange (s : State) (x : Pending) : Nat × Nat :=
  let va := (((piecesOf x.acc.va x.acc.n).find? fun p => (s.tlbLook x.core x.asid p.1).isNone).map Prod.fst).getD x.acc.va
  match s.walkEnd (dieOf x.core) x.asid va with
  | .leaf l => (l.base, l.size)
  | .fault _ _ _ base size => (base, size)

/-- Accesses that miss on the same page share one walk of their die's walker (R205). -/
def State.sharesWalk (s : State) (w x : Walk) : Bool :=
  dieOf w.x.core = dieOf x.x.core && w.x.asid = x.x.asid && s.walkRange w.x = s.walkRange x.x

/-- The walk runs: of the walks of its die it is among the 256 that began first (R3, R205). -/
def State.walkRuns (s : State) (w : Walk) : Bool :=
  let mine := s.walks.filter fun x => dieOf x.x.core = dieOf w.x.core && x.x.no < w.x.no && !(s.sharesWalk x w)
  (mine.map fun x => (x.x.asid, s.walkRange x.x)).eraseDups.length < 256

/-- A thread whose access awaits translation parks (R214): MODE 2, on a ticket that the walker resolves by itself, which the
threads of a core that wait for one walk share. -/
def State.parkWalk (s : State) (k cycle : Nat) (t : Thread) (w : Walk) : State :=
  let have? := (s.walks.find? fun x => x.x.core = w.x.core && x.ticket ≠ 0 && s.sharesWalk x w).map Walk.ticket
  let (n, s) : Nat × State := match have? with
    | some n => (n, s)
    | none =>
      let n := s.nextTicket
      let r := s.walkRange w.x
      (n, { s with nextTicket := (n + 1) % 2 ^ 32
                   tickets := s.tickets ++ [⟨n, w.x.asid, 0, r.1, r.2, w.x.core, false, true⟩] })
  let s : State := { s with walks := s.walks.map fun x => if x.x.no = w.x.no then { x with ticket := n } else x }
  (s.setThread k { t with walk := none, park := none }).parkThread k
    { mode := 2, event := eventKey 0xA n, keep := s.regCount k - 1, resume := t.pc.toNat, log := some w.log, wid := w.x.wid
      satisfied := false, cycle := cycle }

/-- A thread whose next instruction waits for a register that is not due, or for the oldest of the incoming writes that leave no
room for its own, parks before it (R71, R129), or as R214 says when its access awaits translation. A thread in privileged mode
stays in its slot (R358). -/
def State.parkPending (s : State) (k cycle : Nat) : State :=
  match s.thread? k with
  | none => s
  | some t =>
    if t.hold ≠ .none || t.priv then s
    else
      match s.instrAt k t with
      | none => s
      | some i =>
        let pending := i.sources.any t.awaited.contains
        match t.walk.bind fun n => s.walks.find? fun w => w.x.no = n with
        | some w => if pending || heldByWalk i then s.parkWalk k cycle t w else s
        | none =>
          if pending || (t.writesFull i && (t.incoming.head?.map fun j => j.data.isNone).getD false) then
            s.parkThread k
              { mode := 0, event := eventKey 0x4 0, keep := s.regCount k - 1, resume := t.pc.toNat, log := none, wid := 0
                satisfied := true, cycle := cycle }
          else s

/-- PENDING_REGISTER_PARK: threads of a group park together before the instruction they wait at (R71, R129, R138,
R214). -/
def execPendingRegisterPark (group : Nat) (lanes : List Nat) (s : State) : Host.Outcome State Fault Refusal :=
  event (fun s =>
    let (cycle, s) := s.fresh
    (lanes.foldl (fun s l => s.parkPending (threadNo group l) cycle) s).settleCycle cycle) s

/-- MISS_STATUS_REPLAY: the participants of a replayed access issue it again (R209). -/
def execMissStatusReplay (group : Nat) (lanes : List Nat) (s : State) : Host.Outcome State Fault Refusal :=
  event (fun s =>
    lanes.foldl (fun s l => s.updThread (threadNo group l) fun t =>
      if t.hold = .replay then { t with hold := .none } else t) s) s

/-! ### Timers and watched words -/

/-- CROCK_TIMER_EXPIRY: a bin whose timer has run out launches its head composition as it stands; the pass queue moves up
(R139, R140). -/
def execCrockTimerExpiry (core bin : Nat) (s : State) : Host.Outcome State Fault Refusal :=
  event (fun s =>
    if ((s.bin? core bin).map s.binExpired).getD false then
      let s := s.launchBin core bin
      s.pressBins core (4 * s.records.length + 4)
    else s) s

/-- A record's event is satisfied. -/
def State.satisfyRecord (s : State) (rid : Nat) (r : Record) : State :=
  (s.updRecord rid fun r => { r with satisfied := true }).settleUnit r.unit

/-- TIME_EVENT_EXPIRY: the deadline of a parked thread is reached (R136). -/
def execTimeEventExpiry (rid : Nat) (s : State) : Host.Outcome State Fault Refusal :=
  event (fun s =>
    match s.records.look rid with
    | none => s
    | some r =>
      if r.event / 2 ^ 60 = 0x8 && !r.satisfied && s.reached ((r.log.map OpLog.aux).getD 0) then s.satisfyRecord rid r
      else s) s

/-- The condition of park.ne is evaluated again for a record, and the reason of the wake is kept (R146). The answer of a peer
has been looked at then. -/
def State.evaluateWatch (s : State) (rid : Nat) : State :=
  match s.records.look rid with
  | none => s
  | some r =>
    let who := Party.thread r.bid r.lin
    if r.event / 2 ^ 60 ≠ 0x9 || r.satisfied then s
    else
      match r.log.bind fun l => (s.watchReason who r.core r.asid l).map fun v => { l with aux := 2 + v } with
      | none => s.dropWatch who
      | some l => ((s.dropWatch who).updRecord rid fun r => { r with log := some l }).satisfyRecord rid r

/-- WATCHED_WORD_EVALUATE: the condition of park.ne is evaluated again (R146); a word of a peer's page is asked for, and the
condition evaluated with the answer (R314). -/
def execWatchedWordEvaluate (rid : Nat) (s : State) : Host.Outcome State Fault Refusal :=
  event (fun s =>
    match s.records.look rid with
    | none => s
    | some r =>
      let who := Party.thread r.bid r.lin
      match r.log.bind fun l => s.watchPiece r.core r.asid l.ea with
      | none => s.evaluateWatch rid
      | some p =>
        if r.event / 2 ^ 60 = 0x9 && !r.satisfied && s.watchAway who p && !(r.log.any fun l => l.aux = 1 && s.reached l.c) then
          s.askWatch who r.asid p
        else s.evaluateWatch rid) s

/-! ### Walks, tickets, invalidations -/

/-- A ticket is resolved (R213, R246): records and threads that wait on it go on, engines stopped at it restart. -/
def State.resolveTicket (s : State) (n : Nat) : State :=
  let clear (t : Option Nat) : Option Nat := if t = some n then none else t
  let s : State :=
    { s with tickets := s.tickets.filter fun t => t.number ≠ n
             copies := s.copies.map fun c => { c with ticket := clear c.ticket }
             digests := s.digests.map fun d => { d with ticket := clear d.ticket }
             dumps := s.dumps.map fun d => { d with ticket := clear d.ticket }
             runs := s.runs.map fun r => { r with tickets := r.tickets.filter fun p => p.2 ≠ n }
             collLoads := s.collLoads.map fun c => { c with ticket := clear c.ticket }
             repartIssues := s.repartIssues.map fun r => { r with ticket := clear r.ticket }
             threads := s.threads.map fun p =>
               match p.2.hold with
               | .ticket m (some log) => if m = n then (p.1, { p.2 with hold := .resume 2 log }) else p
               | .ticket m none => if m = n then (p.1, { p.2 with hold := .none }) else p
               | _ => p }
  s.wake fun key _ => key = eventKey 0xA n

/-- A write of TRES; a ticket that is not outstanding is ignored (R213). -/
def State.writeTres (s : State) (v : Nat) : State :=
  if s.tickets.any fun t => t.number = v % 2 ^ 32 && !t.self then (s.resolveTicket (v % 2 ^ 32)).runDumps else s

/-- TRES (R213). -/
def execTres (value : Nat) (s : State) : Host.Outcome State Fault Refusal := event (fun s => s.writeTres value) s

/-- What waits for one ticket waits for another, which is outstanding for the same fault (R211). -/
def State.joinTicket (s : State) (n m : Nat) : State :=
  { s with tickets := s.tickets.filter fun t => t.number ≠ n }.reaim (fun key _ => key = eventKey 0xA n) (eventKey 0xA m)

/-- The walk of an access of a thread that has parked ends in a fault: its ticket is reported, or taken into one that is
outstanding for the same fault (R211, R212, R214). -/
def State.failTicket (s : State) (w : Walk) (va reason level entry base size waiters : Nat) : State :=
  let same (t : Ticket) : Bool := t.asid = w.x.asid && t.reason = reason && t.base = base && t.size = size && !t.engine &&
    t.core = w.x.core && !t.self
  if !(s.tickets.any fun t => t.number = w.ticket && t.self) then s
  else
    match s.tickets.find? same with
    | some t => s.joinTicket w.ticket t.number
    | none =>
      let own (t : Ticket) : Ticket :=
        if t.number = w.ticket then { t with reason := reason, base := base, size := size, self := false } else t
      ({ s with tickets := s.tickets.map own } : State).report w.x.asid 0x23 reason
        (translationRecord va w.ticket w.x.core w.x.asid waiters reason w.x.acc.kind.kind level (if reason = 0x05 then 0 else entry)
          (((s.blocks.look w.x.who.bid).map Block.handle).getD 0) 0)

/-- The thread of a walk is still the one in the slot, and waits for it. -/
def State.walksFor (s : State) (w : Walk) : Bool :=
  (s.thread? w.thread).any fun t => w.x.who = .thread t.bid t.lin && t.walk = some w.x.no

/-- How the translation of a walk's access ends. -/
def State.walkPieces (s : State) (w : Walk) : Pieces :=
  s.translate w.x.core w.x.asid w.x.acc.kind (piecesOf w.x.acc.va w.x.acc.n)

/-- The end of a walk for one access: it is performed, or its fault is logged (R206, R210, R211); for a thread that has
parked meanwhile its ticket is resolved, or reported (R214). A store of a thread that has ended is performed (R60). -/
def State.endWalk (s : State) (w : Walk) (cycle waiters : Nat) : State :=
  let x := w.x
  let key := if x.wid = 0 then x.no else x.wid
  let done : State := { s with walks := s.walks.filter fun y => y.x.no ≠ x.no }
  let done := (piecesOf x.acc.va x.acc.n).foldl (fun s p => s.walkFill (dieOf x.core) x.asid p.1) done
  match s.walkPieces w with
  | .all l =>
    let t := done.fillPieces x.core x.asid l
    if w.ticket ≠ 0 then t.resolveTicket w.ticket
    else
      let t := if s.walksFor w then t.updThread w.thread fun t => { t with walk := none } else t
      if straddles l then
        if s.walksFor w then
          let live := ((((s.thread? w.thread).map Thread.incoming).getD []).find? fun i => i.wid = x.wid && x.wid ≠ 0).map Incoming.live
          ((t.freeMiss key).updThread w.thread fun t =>
            { t with incoming := t.incoming.filter fun i => i.wid ≠ x.wid || x.wid = 0 }).trapWith w.thread 0x09 0x01 x.acc.va
              w.log.words (some { w.log with live := live.getD [] })
        else t.freeMiss key
      else t.admitPaired w.thread { x with pieces := l }
  | .fault va r lv e b z =>
    if w.ticket ≠ 0 then done.failTicket w va r lv e b z waiters
    else if s.walksFor w then
      ((done.freeMiss x.no).logFault w.thread x.wid x.acc.kind w.log va r lv e b z waiters).settleAsync w.thread cycle
    else done.freeMiss key

/-- Threads of a core among those that share a walk whose accesses fault alike: they hold the ticket when it is reported
(R212). -/
def State.walkWaiters (s : State) (all : List Walk) (w : Walk) : Nat :=
  match s.walkPieces w with
  | .all _ => 0
  | .fault _ r _ _ b z =>
    (all.filter fun x => x.x.core = w.x.core &&
      match s.walkPieces x with
      | .all _ => false
      | .fault _ r' _ _ b' z' => r' = r && b' = b && z' = z).length

/-- WALK_COMPLETE: one of the up to 256 walks of a die ends, for every access that shares it, in issue order and so in ascending
lane order (R205, R211, R225). With nowhere to put the report of a fault it ends later (R361). -/
def execWalkComplete (serial : Nat) (s : State) : Host.Outcome State Fault Refusal :=
  event (fun s =>
    match s.walks.find? fun w => w.x.no = serial with
    | none => s
    | some w =>
      if !(s.canReport w.x.asid) || !(s.walkRuns w) then s
      else
        let all := s.walks.filter fun x => s.sharesWalk x w
        let shares := all.map fun x => (x, s.walkWaiters all x)
        let (cycle, s) := s.fresh
        (shares.foldl (fun s x => s.endWalk x.1 cycle x.2) s).settleCycle cycle) s

/-- A translation covers a byte of the range that a TLBINV value names (R205). -/
def dropped (v : Nat) (t : Transl) : Bool :=
  let va := field v 16 36 * 65536
  let n := field v 0 16 * 65536
  bit v 62 || (t.asid = field v 52 9 && (n = 0 || (t.base < va + n && va < t.base + t.size)))

/-- A write of TLBINV: every TLB and walker cache drops what it names; while BUSY is 1 it is ignored (R205). -/
def State.writeTlbinv (s : State) (v : Nat) : State :=
  if bit s.regs.tlbinv.toNat 63 then s
  else
    let keep (l : List Transl) : List Transl := l.filter fun t => !(dropped v t)
    { s with regs := { s.regs with tlbSince := s.serial, tlbinv := BitVec.ofNat 64 (2 ^ 63 + field v 62 1 * 2 ^ 62 + v % 2 ^ 61) }
             cores := s.cores.map fun p => (p.1, { p.2 with tlb := keep p.2.tlb })
             walkCaches := s.walkCaches.map fun p => (p.1, keep p.2) }

/-- TLBINV (R205). -/
def execTlbinv (value : Nat) (s : State) : Host.Outcome State Fault Refusal := event (fun s => s.writeTlbinv value) s

/-- A TLBINV value names the page of a leaf in an address space (R205). -/
def droppedLeaf (v asid : Nat) (l : Leaf) : Bool := dropped v ⟨asid, l.level, l.base, l.size, l.entry⟩

/-- Accesses that used a translation which the running invalidation drops are not performed yet: they wait, are held by a paired
copy, or are at a peer (R205, R290, R314). -/
def State.usesDropped (s : State) : Bool :=
  let v := s.regs.tlbinv.toNat
  let held := s.blocks.flatMap fun b => (b.2.pairing.map Pairing.held).getD []
  ((s.ops ++ held).any fun x => x.no < s.regs.tlbSince && x.pieces.any fun p => droppedLeaf v x.asid p.leaf) ||
  s.peers.any fun p => p.tag < s.regs.tlbSince && p.got.isNone && droppedLeaf v p.asid p.leaf

/-- TLBINV_COMPLETE: BUSY is 0 once every access that used a dropped translation has been performed (R205). -/
def execTlbinvComplete (s : State) : Host.Outcome State Fault Refusal :=
  event (fun s =>
    if bit s.regs.tlbinv.toNat 63 && !s.usesDropped then
      { s with regs := { s.regs with tlbinv := BitVec.ofNat 64 (s.regs.tlbinv.toNat % 2 ^ 63) } }
    else s) s

/-- A write of TEPC, of any value, discards the operand log (R357). -/
def Thread.writeTepc (t : Thread) (v : Nat) : Thread := { t with tepc := BitVec.ofNat 64 v, keptLog := none }

/-- TEPC_WRITE, in a thread in privileged mode (R357). -/
def execTepcWrite (thread value : Nat) (s : State) : Host.Outcome State Fault Refusal :=
  event (fun s => s.updThread thread fun t => if t.priv then t.writeTepc value else t) s

/-! ### The fault queue -/

/-- Held reports of a context enter its ring while it has room (R361). -/
def State.flushReports (asid : Nat) : List HeldReport → State → State
  | [], s => s
  | h :: rest, s =>
    match s.ctx? asid with
    | none => s
    | some c =>
      if h.asid = asid && s.fqRoom asid c then
        State.flushReports asid rest ({ s with heldReports := s.heldReports.erase h }.putReport asid c h.entry)
      else State.flushReports asid rest s

/-- A thread that waited to report does so, and ends or is held for its record (R134, R359, R361). -/
def State.retryReport (s : State) (k : Nat) : State :=
  match s.thread? k with
  | none => s
  | some t =>
    match t.hold with
    | .report entry after =>
      let asid := s.asidOf k
      if !(s.canReport asid) then s
      else
        match after with
        | .ends => (s.fileReport asid entry).endThread k
        | .holds cycle p =>
          let s := s.updThread k fun t => { t with hold := .overflow cycle p }
          if ((s.ctx? asid).map Context.ovFault).getD true then s
          else (s.updCtx asid fun c => { c with ovFault := true }).fileReport asid entry
    | _ => s

/-- FAULT_QUEUE_SPACE: software has freed entries; threads and dumps that waited for room go on (R361). -/
def execFaultQueueSpace (asid : Nat) (s : State) : Host.Outcome State Fault Refusal :=
  event (fun s =>
    let s := State.flushReports asid s.heldReports s
    (s.threads.foldl (fun s p => if s.asidOf p.1 = asid then s.retryReport p.1 else s) s).runDumps) s

/-! ### The host and peer packages -/

/-- A byte of device memory lies in a populated range (R200, R396). -/
def populated (pa : Nat) : Bool := isHbm pa || isScm pa

/-- The leaf under which a party outside the cores reaches device memory: the tier of the address, and the persist domain of a
write to the storage-class tier (R314, R396). -/
def outsideLeaf (pa pdom : Nat) : Leaf := ⟨0, 0, 0, if isScm pa then 2 ^ 59 + pdom * 2 ^ 57 else 0⟩

/-- An access of device memory by the host or a peer, in pieces by granule (R207). Bytes in reserved ranges are left out. -/
def State.outsideOp (s : State) (who : Party) (op : GOp) (pa n b c pdom : Nat) (reply : Option Nat) : State :=
  let (no, s) := s.fresh
  s.accept
    { no := no, who := who, core := 192, asid := 0, launch := 0, wid := 0, reply := reply, cycle := 0
      acc := ⟨op, pa, n, b, c, false, false, 0⟩
      pieces := ((wordPieces (n / 32 + 2) pa n).filter fun p => populated p.1).map fun p =>
        ⟨p.1, p.1 - pa, p.2.2, outsideLeaf p.1 pdom, p.1⟩ }

/-- HOST_BAR2_READ: a reserved range completes as an unsupported request (R396); host accesses keep their order (R227). -/
def execHostBar2Read (addr len : Nat) (s : State) : Host.Outcome State Fault Refusal :=
  event (fun s =>
    if (span addr len).all populated then s.outsideOp .host (.load .n32) addr len 0 0 0 (some 0)
    else s.send (.hostReply none)) s

/-- HOST_BAR2_WRITE: a write to the storage-class range is a persist write of package domain (R396); in the reduced stage that tier is
read-only, and such a write is discarded (R380, log 67). -/
def execHostBar2Write (addr : Nat) (bytes : List Byte) (s : State) : Host.Outcome State Fault Refusal :=
  event (fun s =>
    if isScm addr && s.regs.bootstage.toNat % 16 = 2 then s
    else s.outsideOp .host .store addr bytes.length (ofBytes bytes) 0 2 none) s

/-- A peer's access is performed in the granule order of this package's memory, and answered with the data read or the old
value (R314). -/
def State.peerRequest (s : State) (pkg tag : Nat) (req : MemReq) : State :=
  match req with
  | .read pa n => s.outsideOp (.peer pkg) (.load .n32) pa n 0 0 0 (some tag)
  | .write pa bytes pdom => s.outsideOp (.peer pkg) .store pa bytes.length (ofBytes bytes) 0 pdom (some tag)
  | .atom op ty pa b c pdom => s.outsideOp (.peer pkg) (.atom op ty) pa (tyBytes ty) b c pdom (some tag)
  | .red op ty pa b pdom => s.outsideOp (.peer pkg) (.red op ty) pa (tyBytes ty) b 0 pdom (some tag)

/-- PEER_MEMORY_REQUEST (R314). -/
def execPeerMemoryRequest (pkg tag : Nat) (req : MemReq) (s : State) : Host.Outcome State Fault Refusal :=
  arrival 0 pkg (fun s => s.peerRequest pkg tag req) s

/-- The peer accesses that carry the pieces of one access. -/
def State.peersOf (s : State) (no : Nat) : List PeerAccess :=
  s.peers.filter fun p =>
    match p.use with
    | .piece x _ => x.no = no
    | _ => false

/-- The value of an access whose pieces peers have answered. -/
def peersValue (l : List PeerAccess) : Nat :=
  (l.map fun p =>
    match p.use with
    | .piece _ ofs => ofBytes ((p.got.getD []).take p.n) * 2 ^ (8 * ofs)
    | _ => 0).sum

/-- A peer has answered a piece of an access. With the last of them the access is performed: its value goes to its register, its
events are counted, the old value of a paired atom goes to the other copy (R217, R220, R314, R368). -/
def State.settlePeer (s : State) (x : Pending) : State :=
  let l := s.peersOf x.no
  if l.any fun p => p.got.isNone then s
  else
    let v := peersValue l
    let s : State := { s with peers := s.peers.filter fun p => !(l.contains p) }
    match x.acc.op with
    | .load ty => (s.setIncoming x.wid (loadValue ty v)).acknowledge x []
    | .atom op ty =>
      (((s.setIncoming x.wid v).countFor x.core x.launch x.acc.tid (atomCombine op ty v x.acc.b x.acc.c).2).giveOld x.who
        v).acknowledge x []
    | .red op ty => (s.countFor x.core x.launch x.acc.tid (redCombine op ty v x.acc.b).2).acknowledge x []
    | .store | .fence => s.acknowledge x []

/-- Engines receive the bytes that a peer has returned for them (R314). -/
def State.giveEngine (s : State) (serial va : Nat) (data : List Byte) : State :=
  let put (m : List Host.Cell) : List Host.Cell := ((span va data.length).zip data).foldl (fun m p => Map.ins m p.1 p.2) m
  { s with copies := s.copies.map fun c => if c.serial = serial then { c with got := put c.got } else c
           digests := s.digests.map fun d => if d.serial = serial then { d with got := put d.got } else d
           runs := s.runs.map fun r => if r.serial = serial then { r with got := put r.got } else r
           collLoads := s.collLoads.map fun c => if c.serial = serial then { c with got := put c.got } else c
           repartIssues := s.repartIssues.map fun r => if r.serial = serial then { r with got := put r.got } else r
           successors := s.successors.map fun x => if x.no = serial then { x with got := put x.got } else x }

/-- Engines learn that a peer has answered a write of theirs (R314). -/
def State.ackEngine (s : State) (serial va : Nat) : State :=
  { s with copies := s.copies.map fun c => if c.serial = serial then { c with acked := c.acked ++ [va] } else c
           digests := s.digests.map fun d => if d.serial = serial then { d with acked := d.acked ++ [va] } else d
           repartIssues := s.repartIssues.map fun r => if r.serial = serial then { r with acked := r.acked ++ [va] } else r
           runs := s.runs.map fun r => if r.serial = serial then { r with acked := r.acked ++ [va] } else r }

/-- A thread that waits for a slot of a queue of another package has one (R136, R251). -/
def State.wakePacket (s : State) (who : Party) : State :=
  let hit := s.records.filter fun r =>
    who = .thread r.2.bid r.2.lin && r.2.event / 2 ^ 60 = 0x6 && !r.2.satisfied
  let s : State :=
    { s with threads := s.threads.map fun p =>
        match p.2.hold with
        | .event key log =>
          if who = .thread p.2.bid p.2.lin && key / 2 ^ 60 = 0x6 then (p.1, { p.2 with hold := .resume 1 log }) else p
        | _ => p }
  hit.foldl (fun s r => s.satisfyRecord r.1 r.2) s

/-- What an answer of a peer does by what was asked for (R314). -/
def State.peerAnswer (s : State) (p : PeerAccess) (data : List Byte) : State :=
  let gone : State := { s with peers := s.peers.filter fun q => q.tag ≠ p.tag }
  let kept : State := { s with peers := s.peers.map fun q => if q.tag = p.tag then { q with got := some data } else q }
  match p.use with
  | .piece x _ => kept.settlePeer x
  | .fetch no =>
    match s.ownerOf (no / 16384) (no % 16384) with
    | some (bid, _, a, ea) => if (s.line no).fetching && a.stash.isSome then gone.landStash bid no ea data else gone
    | none => gone
  | .writeBack _ => gone
  | .read serial va => gone.giveEngine serial va data
  | .written serial va => gone.ackEngine serial va
  | .watch who =>
    match s.records.find? fun r => who = .thread r.2.bid r.2.lin && r.2.event / 2 ^ 60 = 0x9 && !r.2.satisfied with
    | some r => kept.evaluateWatch r.1
    | none => kept
  | .packet who => kept.wakePacket who
  | .code launch => { gone with code := gone.code ++ [⟨launch, p.pkg, p.pa, ofBytes (data.take 4)⟩] }

/-- The access that an answer belongs to: one that has none yet, or one that waits for a slot of a queue (R256, R314). -/
def State.awaits (s : State) (tag : Nat) : Option PeerAccess :=
  s.peers.find? fun p => p.tag = tag && p.pkg ≠ s.pkg && (p.got.isNone || match p.use with
    | .packet _ => true
    | _ => false)

/-- PEER_MEMORY_RESPONSE (R314). -/
def execPeerMemoryResponse (tag : Nat) (data : List Byte) (s : State) : Host.Outcome State Fault Refusal :=
  match s.awaits tag with
  | none => event id s
  | some p => arrival 1 p.pkg (fun s => s.peerAnswer p data) s

end Sys2Proof.Machine
end

