-- ==== Sys2Proof/Machine/Queues.lean ====
section
/-! DEFINITION. User-mode queues (R247 to R252): descriptors, the ring and the spill region, enq (R255, R256), and the
checks of a packet's own conditions (R339). -/

namespace Sys2Proof.Machine

/-! ### Packets -/

/-- A RES0 bit of a packet's layout is set (R239, R337, R338, R343). -/
def packetRes0 (p : Nat) : Bool :=
  match packetType p with
  | 1 => if bit p 471 then field p 464 7 ≠ 0 || field p 432 3 ≠ 0 || field p 384 15 ≠ 0 else field p 432 3 ≠ 0 || field p 320 31 ≠ 0
  | 2 => bit p 384 || field p 320 16 ≠ 0
  | 3 => bit p 471 || field p 445 3 ≠ 0
  | _ => false

/-- The detail of the engine-request trap for a packet that fails R247 or its type's layout (R255, R256). -/
def packetTrap (p : Nat) : Option Nat :=
  if packetType p = 0 || 3 < packetType p then some 0x01 else if packetRes0 p then some 0x02 else none

/-! ### Descriptors (R249) -/

/-- A queue descriptor that meets R249. -/
structure QDesc where
  at_ : Nat
  widx : Nat
  ridx : Nat
  ring : Nat
  spill : Nat
  spillN : Nat
  prio : Nat
  n : Nat
  deriving DecidableEq, Repr

/-- The address of the descriptor of a queue. -/
def State.qAddr (s : State) (asid q : Nat) : Nat := ((s.ctx? asid).map Context.qbase).getD 0 + 512 * q

/-- The descriptor of a queue; none when it is not in use or breaks R249. -/
def State.qdesc (s : State) (asid q : Nat) : Option QDesc :=
  let a := s.qAddr asid q
  let v := s.ctxVal asid a 512
  let cfg := field v 0x8C0 64
  let log2n := field cfg 0 5
  let ring := field v 0x840 64
  let spill := field v 0x880 64
  if field v 64 1984 ≠ 0 || field v 0x900 1792 ≠ 0 || log2n < 2 || 20 < log2n || field cfg 5 3 ≠ 0 || field cfg 11 21 ≠ 0 ||
      1048576 < field cfg 32 32 || ring % 64 ≠ 0 || spill % 64 ≠ 0 then none
  else some ⟨a, field v 0 64, field v 0x800 64, ring, spill, field cfg 32 32, field cfg 8 3, 2 ^ log2n⟩

/-- LOG2N of a queue's descriptor: 0 when it is not in use (R249). -/
def State.qInUse (s : State) (asid q : Nat) : Bool := field (s.ctxVal asid (s.qAddr asid q + 0x118) 8) 0 5 ≠ 0

/-- The address of the ring slot of an index. -/
def QDesc.slot (d : QDesc) (w : Nat) : Nat := d.ring + 64 * (w % d.n)

/-- SEQ of a slot. -/
def State.slotSeq (s : State) (asid va : Nat) : Nat := s.ctxVal asid (va + 60) 4

/-- The slot for the packet of a claimed index: its ring slot, else the lowest spill slot whose SEQ is zero (R251). -/
def State.slotFor (s : State) (asid : Nat) (d : QDesc) (w : Nat) : Option Nat :=
  if w < d.ridx + d.n then some (d.slot w)
  else if d.spill = 0 then none
  else (lowestFree d.spillN 0 fun i => s.slotSeq asid (d.spill + 64 * i) = 0).map fun i => d.spill + 64 * i

/-- Write bytes 0 to 59 of a packet to a slot, then SEQ (R250). -/
def State.putPacket (s : State) (asid va p w : Nat) : State := s.ctxStore asid va (toBytes 60 p ++ toBytes 4 (seqOf w))

/-- Claim an index: the atomic add of 1 to WIDX, if nothing delays it (R250). -/
def State.claimIndex (s : State) (asid : Nat) (d : QDesc) : Option State :=
  match s.hubLeaf asid d.at_ with
  | none => some s
  | some l =>
    let pa := l.pa d.at_ (s.leafHalf asid l)
    if (s.opsOf .hub).isEmpty then
      s.tryStore .hub 0 (hubDie pa) asid 0 pa l (toBytes 8 ((d.widx + 1) % 2 ^ 64)) (.written 0 d.at_)
    else none

/-- The index at or after RIDX with a sequence value. -/
def indexOf (ridx seq : Nat) : Nat := ridx + (seq + 2 ^ 32 - seqOf ridx) % 2 ^ 31

/-- The dispatcher moves spilled packets whose index now has a ring slot (R251). -/
def State.moveSpills (s : State) (asid : Nat) (d : QDesc) : State :=
  if d.spill = 0 then s
  else
    (span 0 d.spillN).foldl (fun s i =>
      let va := d.spill + 64 * i
      let seq := s.slotSeq asid va
      let w := indexOf d.ridx seq
      if seq = 0 || d.ridx + d.n ≤ w then s
      else (s.putPacket asid (d.slot w) (s.ctxVal asid va 60) w).ctxPut asid (va + 60) 4 0) s

/-- The queue selector's package (R255). -/
def selPkg (sel : Nat) : Nat := field sel 12 10

/-- A thread waits for a slot of a queue of this package: by the key of its event and the selector in its log (R136). -/
def waitsQueue (pkg q key : Nat) (log : Option OpLog) : Bool :=
  key = eventKey 0x6 q && (log.map fun l => selPkg l.b) = some pkg

/-- Threads of a context that wait for a slot of a queue of this package complete their enq (R136). -/
def State.wakeEnq (s : State) (asid q : Nat) : State :=
  let hit (bid key : Nat) (log : Option OpLog) : Bool :=
    waitsQueue s.pkg q key log && (s.blocks.look bid).map Block.asid = some asid
  let s := s.satisfyRecords fun r => hit r.bid r.event r.log
  { s with threads := s.threads.map fun p =>
      match p.2.hold with
      | .event key log => if hit p.2.bid key (some log) then (p.1, { p.2 with hold := .resume 1 log }) else p
      | .overflow c (some x) =>
        if hit p.2.bid x.event x.log then (p.1, { p.2 with hold := .overflow c (some { x with satisfied := true }) }) else p
      | .report e (.holds c (some x)) =>
        if hit p.2.bid x.event x.log then (p.1, { p.2 with hold := .report e (.holds c (some { x with satisfied := true })) }) else p
      | _ => p }

/-- The answer to a packet of another package: the claimed index, and 1 when the packet stands in its slot, 0 while there is none
for it, 2 when there may be one now; nothing where the queue's descriptor breaks R249 (R256, log 19). -/
def enqAnswer (w flag : Nat) : List Byte := toBytes 8 w ++ [BitVec.ofNat 8 flag]

/-- A slot of a queue or of its spill region may be free: threads that wait for one complete their enq, those of other packages
too (R136, R251). -/
def State.wakeQueue (s : State) (asid q : Nat) : State :=
  let far := s.remoteClaims.filter fun c => c.asid = asid && c.queue = q
  let s : State := { s.wakeEnq asid q with remoteClaims := s.remoteClaims.filter fun c => !(far.contains c) }
  far.foldl (fun s c => s.send (.memoryReply c.pkg c.tag (enqAnswer 0 2))) s

/-- A packet of another package for a queue of this one: it claims an index, or comes again for the index it has, and takes a slot if
there is one (R250, R251). A record that a successor enqueue places comes with its template (R343). `none` while the claim has to
wait. -/
def State.remoteEnqueue (s : State) (pkg tag asid q p template : Nat) (claim : Option Nat) : Option State :=
  match s.qdesc asid q with
  | none => some (s.send (.memoryReply pkg tag []))
  | some d =>
    let w := claim.getD d.widx
    (if claim.isNone then s.claimIndex asid d else some s).map fun s =>
      match s.slotFor asid d w with
      | some va =>
        let s := s.putPacket asid va p w
        let s := if template = 0 then s else { s with placed := s.placed ++ [⟨asid, q, w, template⟩] }
        s.send (.memoryReply pkg tag (enqAnswer w 1))
      | none => { s with remoteClaims := s.remoteClaims ++ [RemoteClaim.mk pkg tag asid q] }.send (.memoryReply pkg tag (enqAnswer w 0))

/-! ### enq -/

/-- The packet that a party has sent to a queue of another package. -/
def State.packetOf (s : State) (who : Party) : Option PeerAccess := s.peers.find? fun p => p.use = .packet who

/-- The packet of a party has been answered. -/
def State.dropPacket (s : State) (who : Party) : State := { s with peers := s.peers.filter fun p => p.use ≠ .packet who }

/-- Send a packet to a queue of another package, with the index claimed if it has one, and the template of a successor's record
(R250, R345). -/
def State.sendPacket (s : State) (who : Party) (asid sel p template : Nat) (claim : Option Nat) : State :=
  let (tag, s) := s.fresh
  let x : PeerAccess := ⟨tag, selPkg sel, asid, who.bid, 0, 9, ⟨0, 0, 0, 0⟩, .packet who, none, s.ns⟩
  { s with peers := s.peers ++ [x] }.send (.enqueue (selPkg sel) tag asid (field sel 0 12) p template claim)

/-- enq to a queue of another package, whose answer says what becomes of it: a trap, its result, a wait for a slot with the claim
kept, or another attempt (R251, R256). Until the answer comes the thread issues nothing else. -/
def State.enqRemote (s : State) (k : Nat) (st : Stage) (i : Instr) (h : Head) (keep asid : Nat) (who : Party) (sel p : Nat)
    (log : OpLog) (claim : Option Nat) : State :=
  match s.packetOf who with
  | none => ((if claim.isNone then s.signRequest k (toBytes 64 p) else s).sendPacket who asid sel p 0 claim).retryStage k st
  | some q =>
    match q.got with
    | none => s.retryStage k st
    | some [] => (s.dropPacket who).stageTrap k st 0x0A 0x07 log.ea
    | some bs =>
      let w := ofBytes (bs.take 8)
      match (bs.drop 8).map BitVec.toNat with
      | 1 :: _ =>
        let (wid, s) := (s.dropPacket who).advance k st i h
        s.setIncoming wid (w % 2 ^ 32)
      | 0 :: _ =>
        let s : State := { s with peers := s.peers.map fun x => if x.use = .packet who then { x with got := none } else x }
        s.parkOn k (eventKey 0x6 (field sel 0 12)) keep { log with aux := w + 1 }
      | _ => ((s.dropPacket who).sendPacket who asid sel p 0 claim).retryStage k st

/-- Write the packet of a claimed index, or wait for a slot with the claim kept (R251): `log.aux` holds it, plus 1. -/
def State.enqPlace (s : State) (k : Nat) (st : Stage) (i : Instr) (h : Head) (keep : Nat) (d : QDesc) (p q w : Nat)
    (log : OpLog) : State :=
  let asid := s.asidOf k
  match s.slotFor asid d w with
  | none => s.parkOn k (eventKey 0x6 q) keep { log with aux := w + 1 }
  | some va =>
    let (wid, s) := s.advance k st i h
    (s.putPacket asid va p w).setIncoming wid (w % 2 ^ 32)

/-- enq in one thread at a stage, for a packet that has been read (R256): an index is claimed once, by the add of 1 to WIDX, which is
a release. -/
def State.enqPacket (s : State) (k : Nat) (st : Stage) (i : Instr) (h : Head) (keep : Nat) (t : Thread) (asid sel p : Nat)
    (log : OpLog) : State :=
  let claim := if log.aux = 0 then none else some (log.aux - 1)
  let q := field sel 0 12
  let who := Party.thread t.bid t.lin
  if 2 ^ 22 ≤ sel || !(selPkg sel = s.pkg || s.domain.contains (selPkg sel)) then s.stageTrap k st 0x0A 0x07 log.ea
  else
    match claim, if selPkg sel = s.pkg then s.qdesc asid q else none with
    | none, none =>
      if selPkg sel = s.pkg then s.stageTrap k st 0x0A 0x07 log.ea
      else
        let s := s.releaseStash t.bid
        if s.stashHeld t.bid then s.retryStage k st else s.enqRemote k st i h keep asid who sel p log none
    | none, some d =>
      let s := s.releaseStash t.bid
      if s.stashHeld t.bid then s.retryStage k st
      else
        match s.claimIndex asid d with
        | none => s.retryStage k st
        | some s => (s.signRequest k (toBytes 64 p)).enqPlace k st i h keep d p q d.widx log
    | some w, some d => s.enqPlace k st i h keep d p q w log
    | some w, none =>
      if selPkg sel = s.pkg then s.stageTrap k st 0x0A 0x07 log.ea
      else s.enqRemote k st i h keep asid who sel p log (some w)

/-- enq in one thread at a stage (R255, R256): the packet is read, from a stash line that is fetched first if need be, and checked. -/
def State.enqAt (s : State) (k : Nat) (st : Stage) (i : Instr) (h : Head) (keep ea sel : Nat) : State :=
  match s.blockOf k, s.thread? k with
  | some b, some t =>
    let log := st.log s i ea sel
    match s.blockTrap b ea 64 with
    | some (c, x) => s.stageTrap k st c x ea
    | none =>
      match s.waitParked k st b ea log with
      | some s => s
      | none =>
        let p := s.blockBits b ea 64
        match packetTrap p with
        | some x => s.stageTrap k st 0x0A x ea
        | none => s.enqPacket k st i h keep t (s.asidOf k) sel p log
  | _, _ => s

/-- enq in one thread at its issue (R256). -/
def enqBody (i : Instr) (ofs : Int) (keep : Nat) (h : Head) (k : Nat) (t : Thread) (s : State) : State :=
  s.enqAt k .issue i h keep (larEa h ofs t) (t.rdB h.b 32)

/-- enq completes after its wake: the packet is read again, and written at the index claimed at issue (R251, R256); with
no slot free it waits again (log 28). -/
def State.completeEnq (s : State) (k : Nat) (i : Instr) (h : Head) (keep : Nat) (log : OpLog) : State :=
  s.enqAt k (.complete log) i h keep log.ea log.b

/-- enq (R255, R256). -/
def execEnq (h : Head) (ofs : Int) (keep : Nat) (s : State) : Host.Outcome State Fault Refusal :=
  perLanePark (.enq h ofs keep) (enqBody (.enq h ofs keep) ofs keep) s

/-! ### Queue copies (R252) -/

/-- The detail that refuses a queue copy: of R255, or the rules of R252. -/
def State.queueCopyBad (s : State) (asid r : Nat) : Option Nat :=
  match s.reqTrap asid r with
  | some d => some d
  | none => if reqSl r || reqDl r then some 0x04 else if reqCplen r && field (reqCpl r) 22 32 = 0 then some 0x05 else none

/-- QUEUE_COPY: the hub die's engine accepts a queue copy, of at most 64 at a time and in consumption order, or refuses it
with REASON 0x10 + d (R248, R252). -/
def execQueueCopy (serial : Nat) (s : State) : Host.Outcome State Fault Refusal :=
  event (fun s =>
    match s.packets.find? fun p => packetType p.data = 3 with
    | none => s
    | some p =>
      if p.serial ≠ serial || 64 ≤ s.engineLoad 192 || !(s.canReport p.asid) then s
      else
        let s : State := { s with packets := s.packets.filter fun x => x.serial ≠ serial }
        match s.queueCopyBad p.asid p.data with
        | some d => s.report p.asid 0x24 (0x10 + d) (engineRecord 0 p.slot 0 192 (0x10 + d))
        | none => s.acceptCopy 192 p.asid 0 0 p.slot p.data) s

end Sys2Proof.Machine
end

