-- ==== Sys2Proof/Machine/Complete.lean ====
section
/-! DEFINITION. The first action of a relaunched thread, and of a privileged thread whose wait is over: the instruction
at its pc completes from its park point (MODE 1), or its logged access is replayed (MODE 2) (R78, R142, R358). -/

namespace Sys2Proof.Machine

/-- Complete an instruction from the line after its `park_on`, by its operand log (R142). -/
def State.completeInstr (s : State) (k : Nat) (i : Instr) (h : Head) (log : OpLog) : State :=
  match i with
  | .parkNow .. | .parkUntil .. | .parkNe .. => s.completePark k i h log
  | .ldl .. | .stl .. =>
    match lAccessOf i log.ea log.b with
    | some x => s.larAccess k (.complete log) i h x
    | none => s
  | .bwait .. | .barrw .. | .mmwait .. => s.completeObj k i h log
  | .hwait .. => (s.advance k (.complete log) i h).2
  | .copy _ _ keep => s.kickCopy k (.complete log) i h log.ea keep
  | .enq _ _ keep => s.completeEnq k i h keep log
  | _ => s.updThread k fun t => { t with hold := .none }

/-- Complete or replay from the operand log. -/
def State.complete (s : State) (k mode : Nat) (log : OpLog) : State :=
  match instrOfLog log with
  | none => s.updThread k fun t => { t with hold := .none }
  | some i =>
    match i.head with
    | none => s.updThread k fun t => { t with hold := .none }
    | some h => if mode = 2 then s.replay k i log else s.completeInstr k i h log

/-- The first action that is due in a thread: MODE and log. A privileged thread that waits in its slot for a time or a watched
word goes on once the time has come or the word differs (R136, R146, R358). -/
def State.dueAction (s : State) (k : Nat) (t : Thread) : Option (Nat × OpLog) :=
  match t.hold with
  | .resume mode log => some (mode, log)
  | .event key log =>
    if key / 2 ^ 60 = 0x8 && s.reached log.aux then some (1, log)
    else if key / 2 ^ 60 = 0x9 then
      (s.watchReason (.thread t.bid t.lin) (coreOf k) (s.asidOf k) log).map fun r => (1, { log with aux := 2 + r })
    else none
  | _ => none

end Sys2Proof.Machine
end

