-- ==== Sys2Proof/Machine/Launch.lean ====
section
/-! DEFINITION. Launch packets and task records (R337 to R343), kernel headers (R52, R53), starting blocks (R48 to R50, R55,
R340 to R342), admission of groups (R41, R42, R141, R142), retirement (R51), successors (R344, R345), completion (R346) and
the order in which packets are taken (R250, R347). -/

namespace Sys2Proof.Machine

/-! ### Kernel headers -/

/-- The highest register that each PL bit loads, PL_LIN first (R52). -/
def preloadTop : List Nat := [1, 3, 4, 5, 6, 7, 8, 9, 10, 11, 12, 13, 15]

/-- The condition of R53 that 512 bits of a header break, by its number in the list. -/
def headerBad (v : Nat) : Option Nat :=
  let regs := field v 256 8
  let addrs := [field v 0 64, field v 64 64, field v 128 64]
  if field v 267 5 ≠ 0 || field v 285 3 ≠ 0 || field v 320 192 ≠ 0 then some 1
  else if regs < 8 || 248 < regs || regs % 8 ≠ 0 then some 2
  else if ((span 0 13).zip preloadTop).any fun p => bit v (272 + p.1) && regs ≤ p.2 then some 3
  else if 2097152 < field v 288 32 || field v 288 32 % 4096 ≠ 0 then some 4
  else if field v 0 2 ≠ 0 || field v 64 2 ≠ 0 || addrs.any fun a => 2 ^ 52 ≤ a then some 5
  else if field v 128 6 ≠ 0 then some 6
  else none

/-- The header that 512 bits at an address describe (R52). -/
def headerOfBits (addr v : Nat) : Header :=
  { addr := addr, entry := field v 0 64, handler := field v 64 64, dump := field v 128 64, expect := field v 192 64
    regs := field v 256 8, larder := field v 288 32, preload := field v 272 13, idem := bit v 264, paired := bit v 265
    mayPre := bit v 266 }

/-! ### Packets (R337, R338, R343) -/

/-- MODE of a launch packet. -/
def pkMask (p : Nat) : Bool := packetType p = 1 && bit p 471
/-- HDR. -/
def pkHdr (p : Nat) : Nat := if packetType p = 2 then field p 128 64 else field p 0 64
/-- ARG. -/
def pkArg (p : Nat) : Nat := field p 64 64
/-- CADDR. -/
def pkCaddr (p : Nat) : Nat := if packetType p = 2 then field p 0 64 else field p 128 64
/-- ENTRY of a task record, 0 for a launch packet. -/
def pkEntry (p : Nat) : Nat := if packetType p = 2 then field p 192 64 else 0
/-- CNTR of a task record. -/
def pkCntr (p : Nat) : Nat := field p 256 64
/-- ELINE. -/
def pkEline (p : Nat) : Nat := if packetType p = 2 then field p 422 14 else field p 450 14
/-- ECNT. -/
def pkEcnt (p : Nat) : Nat := if packetType p = 2 then field p 407 15 else field p 435 15
/-- BX, BY, BZ. -/
def pkShape (p : Nat) : Nat × Nat × Nat :=
  if packetType p = 2 then (field p 458 11, field p 447 11, field p 436 11)
  else if bit p 471 then (field p 421 11, field p 410 11, field p 399 11)
  else (field p 373 11, field p 362 11, field p 351 11)
/-- Threads of a block. -/
def pkThreads (p : Nat) : Nat := (pkShape p).1 * (pkShape p).2.1 * (pkShape p).2.2
/-- GX. -/
def pkGx (p : Nat) : Nat := field p 416 16
/-- GY. -/
def pkGy (p : Nat) : Nat := field p 400 16
/-- GZ. -/
def pkGz (p : Nat) : Nat := field p 384 16
/-- Blocks of a grid per stage. -/
def pkBlocks (p : Nat) : Nat := pkGx p * pkGy p * pkGz p
/-- CSZ: 1 but for a grid. -/
def pkCsz (p : Nat) : Nat := if packetType p = 1 && !(bit p 471) then field p 464 4 else 1
/-- NSTG. -/
def pkNstg (p : Nat) : Nat := field p 468 3
/-- PVd, with PV4 the block count. -/
def pkPv (p d : Nat) : Nat := if 4 ≤ d then pkBlocks p else field p (192 + 32 * d) 32
/-- The cores that CMASK names. -/
def pkCores (p : Nat) : List Nat := (span 0 192).filter fun c => bit p (192 + c)

/-- A core that is not fenced, by a fault in service or by a defect map (R371, R383). -/
def State.coreOk (s : State) (c : Nat) : Bool := c < 192 && !((s.core c).fenced) && s.defects 6 c = []

/-- Start-up lets a core run contexts: every core at stage 3, those of CD0 at stage 2 (R380). -/
def State.stageRuns (s : State) (c : Nat) : Bool :=
  s.regs.bootstage.toNat % 16 = 3 || (s.regs.bootstage.toNat % 16 = 2 && c < 48)

/-- A die has a hardware cluster with enough cores that are not fenced (R339, R340). -/
def State.hasCluster (s : State) (die csz : Nat) : Bool :=
  (span (4 * die) 4).any fun cl => csz ≤ ((span (12 * cl) 12).filter s.coreOk).length

/-- An extent or a product of extents is broken (R339, detail 0x03, without the comparison with LARDER). -/
def extentsBad (p : Nat) : Bool :=
  pkThreads p = 0 || 1024 < pkThreads p ||
  (packetType p = 1 && !(bit p 471) &&
    (pkBlocks p = 0 || 2 ^ 28 < pkBlocks p || pkCsz p = 0 || 12 < pkCsz p || pkBlocks p % pkCsz p ≠ 0 || pkPv p 0 ≠ 0 ||
     (span 0 4).any fun d => pkPv p (d + 1) < pkPv p d || pkPv p d % pkCsz p ≠ 0))

/-- An address is misaligned or has bits [63:52] set (R339, detail 0x04). -/
def addressBad (p : Nat) : Bool :=
  pkHdr p % 64 ≠ 0 || pkCaddr p % 16 ≠ 0 || pkEntry p % 4 ≠ 0 ||
  [pkHdr p, pkCaddr p, pkEntry p, pkArg p].any fun a => 2 ^ 52 ≤ a

/-- The first of a packet's own conditions that is broken, by its detail (R339). -/
def State.packetBad (s : State) (p : Nat) : Option Nat :=
  if packetType p = 0 || 2 < packetType p then some 0x01
  else if packetRes0 p then some 0x02
  else if extentsBad p then some 0x03
  else if addressBad p then some 0x04
  else if pkMask p && (pkCores p = [] || (pkCores p).any fun c => !(s.coreOk c)) then some 0x06
  else if packetType p = 1 && !(pkMask p) &&
      (span 0 4).any fun d => pkPv p d < pkPv p (d + 1) && !(s.hasCluster d (pkCsz p)) then some 0x07
  else none

/-- Report a packet fault (R339, R362). -/
def State.packetFault (s : State) (asid detail at_ index queue ty : Nat) : State :=
  s.report asid 0x25 detail (recordOf [(0, 8, at_), (8, 8, index), (16, 2, queue), (18, 1, ty)])

/-- Blocks of a launch in the order in which they start, as (linear index, stage), or as (rank, core) for a mask (R50,
R340, R341, R343). -/
def blocksOf (p : Nat) : List (Nat × Nat) :=
  if packetType p = 2 then [(0, field p 469 3)]
  else if pkMask p then (span 0 (pkCores p).length).zip (pkCores p)
  else
    (span 0 (pkBlocks p / pkCsz p)).flatMap fun c =>
      (span 0 (pkNstg p + 1)).flatMap fun st => (span (c * pkCsz p) (pkCsz p)).map fun b => (b, st)

/-- The dispatcher processes a packet it has taken (R339): it is discarded with one fault, or becomes a launch. -/
def State.acceptPacket (s : State) (x : Packet) : State :=
  let p := x.data
  let gone : State := { s with packets := s.packets.filter fun y => y.serial ≠ x.serial }
  match s.packetBad p with
  | some d => gone.packetFault x.asid d x.slot x.index x.queue (packetType p)
  | none =>
    let v := s.ctxVal x.asid (pkHdr p) 64
    match headerBad v with
    | some n =>
      gone.report x.asid 0x21 n (recordOf [(0, 8, pkHdr p), (8, 8, x.slot), (16, 2, x.queue), (18, 1, n)])
    | none =>
      let hdr := headerOfBits (pkHdr p) v
      if hdr.larder / 128 < pkEline p + pkEcnt p then gone.packetFault x.asid 0x03 x.slot x.index x.queue (packetType p)
      else
        let hdr : Header := if pkEntry p = 0 then hdr else { hdr with entry := pkEntry p }
        let kind : LaunchKind := if packetType p = 2 then .task else if pkMask p then .mask else .grid
        let todo := blocksOf p
        let (n, s) := gone.fresh
        let l : Launch :=
          { asid := x.asid, queue := x.queue, prio := x.prio, slot := x.slot, index := x.index, kind := kind, packet := p
            hdr := hdr, template := x.template, todo := todo, cores := [], total := todo.length, ended := 0, failed := 0
            fenceFault := false }
        { s with launches := s.launches.ins n l }

/-- A packet that waits to be processed is processed, if it is of the kind of this step. -/
def packetStep (serial : Nat) (f : Nat → Bool) (s : State) : Host.Outcome State Fault Refusal :=
  event (fun s =>
    match s.packets.find? fun x => x.serial = serial with
    | none => s
    | some x => if f x.data && s.canReport x.asid then s.acceptPacket x else s) s

/-- LAUNCH_PACKET_GRID (R337, R339, R340). -/
def execLaunchPacketGrid (serial : Nat) (s : State) : Host.Outcome State Fault Refusal :=
  packetStep serial (fun p => packetType p ≠ 2 && packetType p ≠ 3 && !(pkMask p)) s

/-- LAUNCH_PACKET_MASK (R338, R339, R341). -/
def execLaunchPacketMask (serial : Nat) (s : State) : Host.Outcome State Fault Refusal := packetStep serial pkMask s

/-- TASK_RECORD (R339, R343). -/
def execTaskRecord (serial : Nat) (s : State) : Host.Outcome State Fault Refusal :=
  packetStep serial (fun p => packetType p = 2) s

/-! ### Starting blocks -/

/-- A rail of a core's die is being margined: no block may be resident there meanwhile (R384, log 64). -/
def State.margining (s : State) (c : Nat) : Bool :=
  let rail := field s.regs.raised 58 4
  bit s.regs.vmctl.toNat 62 && rail < 8 && rail % 4 = c / 48

/-- A core can start a block of a kernel now: it is not fenced, and has the larder units and a counter set (R48, R101). -/
def State.canStart (s : State) (lid : Nat) (hdr : Header) (c : Nat) : Bool :=
  s.coreOk c && s.stageRuns c && !(s.margining c) && (hdr.larder = 0 || hdr.larder / 4096 ≤ (s.freePhys c).length) && s.setFree c lid hdr

/-- The context lets blocks start: it is live and neither pre-empted nor frozen (R336). -/
def State.serves (s : State) (asid : Nat) : Bool :=
  match s.ctx? asid with
  | none => false
  | some c => !c.preempted && !c.leaving && !c.frozen

/-- The die whose share of a grid holds a linear index (R340). -/
def shareOf (p b : Nat) : Nat := (((span 0 4).filter fun d => pkPv p d ≤ b && b < pkPv p (d + 1)).getLast?).getD 0

/-- The die that starts the clusters of a die's share (R340): that die, or, when it has no hardware cluster left for them, the
lowest-numbered die that has. -/
def State.dieOfShare (s : State) (p d : Nat) : Option Nat :=
  if s.hasCluster d (pkCsz p) then some d else (span 0 4).find? fun e => s.hasCluster e (pkCsz p)

/-- The die that starts a linear index of a grid (R340). -/
def State.startDie (s : State) (p b : Nat) : Option Nat := s.dieOfShare p (shareOf p b)

/-- Distinct cores of one hardware cluster. -/
def oneCluster (cores : List Nat) : Bool :=
  match cores with
  | [] => false
  | c :: _ => (cores.all fun x => x / 12 = c / 12) && cores.eraseDups.length = cores.length

/-- The next blocks of a launch that a choice of cores starts: of a grid the first cluster to do of the die's share, all its blocks
of one stage (R49, R50, R340); of a mask the block of the core (R341). -/
def State.nextCluster (s : State) (l : Launch) (core : Nat) : List (Nat × Nat) :=
  match l.kind with
  | .grid =>
    let csz := pkCsz l.packet
    match l.todo.find? fun q => s.startDie l.packet q.1 = some (core / 48) with
    | none => []
    | some q => l.todo.filter fun r => r.1 / csz = q.1 / csz && r.2 = q.2
  | .mask => l.todo.filter fun q => q.2 = core
  | .task => l.todo.take 1

/-- Cores that the blocks of the stage before have been started on, block for block (R50). -/
def Launch.stageCores (l : Launch) (items : List (Nat × Nat)) : List Nat :=
  items.filterMap fun q => if q.2 = 0 then none else l.cores.look (8 * q.1 + (q.2 - 1))

/-- Group slots of a die that hold no group (R343). -/
def State.freeSlots (s : State) (die : Nat) : Nat :=
  48 * 4 * 16 - (s.groups.filter fun g => g.1 / 64 / 48 = die).length

/-- The cores of a hardware cluster that can start a block of a kernel now. -/
def State.able (s : State) (lid : Nat) (hdr : Header) (cl : Nat) : List Nat := (span (12 * cl) 12).filter (s.canStart lid hdr)

/-- A hardware cluster can start n blocks of a kernel now, and for a paired one another of its die their second copies (R49, R368). -/
def State.clusterFits (s : State) (lid : Nat) (hdr : Header) (n cl : Nat) : Bool :=
  n ≤ (s.able lid hdr cl).length &&
  (!hdr.paired || (span (cl / 4 * 4) 4).any fun c => c ≠ cl && n ≤ (s.able lid hdr c).length)

/-- A die can start n blocks of one cluster now. -/
def State.dieFits (s : State) (lid : Nat) (hdr : Header) (n die : Nat) : Bool := (span (4 * die) 4).any (s.clusterFits lid hdr n)

/-- A core can start a block now, and for a paired kernel a core of another cluster of its die the second copy. -/
def State.coreFits (s : State) (lid : Nat) (hdr : Header) (core : Nat) : Bool :=
  s.canStart lid hdr core &&
  (!hdr.paired || (span (core / 48 * 4) 4).any fun c => c ≠ core / 12 && s.able lid hdr c ≠ [])

/-- The die preferred for a task record: of those with a core that can start it, the one with the most free group slots,
the lowest among equals (R343). -/
def State.taskDie (s : State) (lid : Nat) (hdr : Header) : Option Nat :=
  let dies := (span 0 4).filter (s.dieFits lid hdr 1)
  dies.find? fun d => dies.all fun e => s.freeSlots e ≤ s.freeSlots d

/-- Cores for the first copies and for the second copies of paired blocks: on two clusters of one die (R368). -/
def pairOk (hdr : Header) (first second : List Nat) : Bool :=
  if hdr.paired then
    first.length = second.length && oneCluster second &&
    match first, second with
    | c :: _, d :: _ => c / 48 = d / 48 && c / 12 ≠ d / 12
    | _, _ => false
  else second = []

/-- The blocks that start when the dispatcher chooses these cores, with their cores; none where the choice is not one that
it may make (R48 to R50, R340, R341, R343, R368). -/
def State.placement (s : State) (lid : Nat) (l : Launch) (cores : List Nat) : Option (List ((Nat × Nat) × Nat)) :=
  let core := (cores.head?).getD 0
  let items := s.nextCluster l core
  let first := cores.take items.length
  let second := cores.drop items.length
  let fits := items ≠ [] && first.length = items.length && cores.all (s.canStart lid l.hdr) && pairOk l.hdr first second
  let ok : Bool := match l.kind with
    | .grid =>
      let before := l.stageCores items
      oneCluster first &&
      (!(before.length = items.length && before.all (s.canStart lid l.hdr)) || first = before)
    | .mask => (items.map Prod.snd) = first
    | .task => s.taskDie lid l.hdr = some (core / 48)
  if fits && ok then some (items.zip first) else none

/-- A block of a launch cannot be placed now (R348): the next cluster of some die's share, a block of a mask, or a task's block. -/
def State.unplaced (s : State) (lid : Nat) (l : Launch) : Bool :=
  match l.kind with
  | .grid => (span 0 4).any fun d =>
      s.nextCluster l (48 * d) ≠ [] && !(s.dieFits lid l.hdr (pkCsz l.packet) d)
  | .mask => l.todo.any fun q => !(s.coreFits lid l.hdr q.2)
  | .task => l.todo ≠ [] && (s.taskDie lid l.hdr).isNone

/-- v7 to v11 and v14:v15 of a block (R55, R340, R341, R343). -/
def Launch.preloads (l : Launch) (linear stage : Nat) : List Nat :=
  let p := l.packet
  match l.kind with
  | .grid =>
    let csz := max 1 (pkCsz p)
    [linear % pkGx p, linear / pkGx p % pkGy p, linear / (pkGx p * pkGy p), linear / csz * 16 + linear % csz, stage, 0, 0]
  | .mask => [linear, 0, 0, 16 * linear, 0, 0, 0]
  | .task => [field p 368 16, field p 352 16, field p 336 16, 0, stage, l.template % 2 ^ 32, l.template / 2 ^ 32]

/-- Lines of a block's static allocation become empty (R342). -/
def State.emptyLines (s : State) (bid eline ecnt : Nat) : State :=
  match (s.blocks.look bid).bind fun b => (b.allocAt 0).map fun a => (b, a) with
  | none => s
  | some (b, a) =>
    (span eline ecnt).foldl (fun s i =>
      let no := a.lineAt b.core (128 * i)
      s.setLine no { s.line no with full := false }) s

/-- Start one copy of a block on a core (R48, R55, R151, R342): its handle is the number its first copy has. -/
def State.startCopy (s : State) (lid : Nat) (l : Launch) (core linear stage bid handle : Nat) (pairing : Option Pairing) :
    State :=
  let n := pkThreads l.packet
  let b : Block :=
    { asid := l.asid, launch := lid, core := core, handle := handle, linear := linear, stage := stage
      pre := l.preloads linear stage, succ := [], failed := false, threads := n, issued := 0, alive := n
      waiting := span 0 ((n + 31) / 32), allocs := [], pairing := pairing, state := .running, byPre := false }
  let s := { s with blocks := s.blocks.ins bid b }.bindSet core lid l.hdr
  let s := if l.hdr.larder = 0 then s else s.giveAlloc bid 0 (l.hdr.larder / 4096) 0 true
  s.emptyLines bid (pkEline l.packet) (pkEcnt l.packet)

/-- A block's handle: 32 bits, not zero, and not that of a block that has not retired; counted on from the block's number (R55). -/
def State.newHandle (s : State) (bid : Nat) : Nat :=
  let used := s.blocks.map fun b => b.2.handle
  (((span bid (used.length + 2)).map (· % 2 ^ 32)).find? fun h => h ≠ 0 && !(used.contains h)).getD 0

/-- Start a block on a core, and its second copy on another when the kernel runs paired (R368). -/
def State.startBlock (s : State) (lid : Nat) (l : Launch) (core : Nat) (second : Option Nat) (linear stage mismatches : Nat) :
    State :=
  let (bid, s) := s.fresh
  let handle := s.newHandle bid
  let s := if l.kind = .grid then s.updLaunch lid fun l => { l with cores := l.cores.ins (8 * linear + stage) core } else s
  match second with
  | none => s.startCopy lid l core linear stage bid handle none
  | some core2 =>
    let (bid2, s) := s.fresh
    (s.startCopy lid l core linear stage bid handle (some ⟨bid2, true, 0, [], mismatches⟩)).startCopy lid l core2 linear stage bid2
      handle (some ⟨bid, false, 0, [], mismatches⟩)

/-- BLOCK_START: the dispatcher starts the next cluster of a launch on cores of its choice (R48 to R50, R340 to R343). -/
def execBlockStart (launch : Nat) (cores : List Nat) (s : State) : Host.Outcome State Fault Refusal :=
  event (fun s =>
    match s.launches.look launch with
    | none => s
    | some l =>
      match s.serves l.asid, s.placement launch l cores with
      | true, some places =>
        let second := cores.drop places.length
        let s := ((span 0 places.length).zip places).foldl (fun s q =>
          s.startBlock launch l q.2.2 (second[q.1]?) q.2.1.1 (if l.kind = .mask then 0 else q.2.1.2) 0) s
        let started := places.map Prod.fst
        s.updLaunch launch fun l => { l with todo := l.todo.filter fun q => !(started.contains q) }
      | _, _ => s) s

/-- No core can start a block of a launch any more because cores have been fenced (R340, R341). -/
def State.unstartable (s : State) (l : Launch) (linear core : Nat) : Bool :=
  match l.kind with
  | .grid => (s.startDie l.packet linear).isNone
  | .mask => !(s.coreOk core)
  | .task => false

/-- Blocks that no core can start, or start again, any more count as failed, with one packet fault for the launch (R340,
R341, R350). -/
def State.failUnstartable (s : State) (lid : Nat) : State :=
  match s.launches.look lid with
  | none => s
  | some l =>
    let lost := l.todo.filter fun q => s.unstartable l q.1 q.2
    let gone := (s.blocks.filter fun b => b.2.launch = lid && b.2.state = .flushed && s.unstartable l b.2.linear b.2.core).map
      Prod.fst
    let n := lost.length + gone.length
    if n = 0 then s
    else
      let s := s.updLaunch lid fun l =>
        { l with todo := l.todo.filter fun q => !(lost.contains q), ended := l.ended + n, failed := l.failed + n
                 fenceFault := true }
      let s : State := { s with blocks := s.blocks.filter fun b => !(gone.contains b.1) }
      if l.fenceFault then s
      else s.packetFault l.asid (if l.kind = .mask then 0x06 else 0x07) l.slot l.index l.queue 1

/-! ### Admission of groups -/

/-- Registers that the groups of a unit take (R41). -/
def State.unitRegs (s : State) (u : Nat) : Nat :=
  ((s.groups.filter fun g => g.1 / 16 = u).map fun g => g.2.hdr.regs).sum

/-- The slot at which a unit can accept a group of a kernel (R41): the lowest free one, if the unit takes groups (R367). -/
def State.freeSlot (s : State) (u regs : Nat) : Option Nat :=
  let v := s.unit u
  let bad := v.fenced || (s.defects 2 (u / 4)).any fun l => l % 4 = u % 4
  if v.emptying || bad || 2048 < s.unitRegs u + regs then none
  else (lowestFree 16 0 fun i => (s.groups.look (16 * u + i)).isNone).map fun i => 16 * u + i

/-- Put a group with its threads into a slot; it counts as having last issued now (R44). -/
def State.putGroup (s : State) (g asid : Nat) (hdr : Header) (ts : List (Nat × Thread)) : State :=
  let (n, s) := s.fresh
  let s : State := { s with groups := s.groups.ins g ⟨asid, hdr, n, 0, false⟩ }
  ts.foldl (fun s p => s.setThread (threadNo g p.1) p.2) s

/-- What a relaunched thread starts with (R64, R142). -/
def threadOf (r : Record) : Thread :=
  let t := Thread.fresh (BitVec.ofNat 64 r.resume) r.lin r.bid
  { t with regs := r.regs, rep := r.rep.map fun x => { x with fetched := false }
           hold := match r.log with
             | some l => if r.mode = 0 then .none else .resume r.mode l
             | none => .none }

/-- Preloaded registers of a thread that the dispatcher starts, as (PL bit, register, value) (R55). -/
def preloadList (l : Launch) (b : Block) (lin : Nat) : List (Nat × Nat × Nat) :=
  let (x, y, _) := pkShape l.packet
  let pre (i : Nat) : Nat := (b.pre[i]?).getD 0
  [(0, 1, lin), (1, 2, pkArg l.packet % 2 ^ 32), (1, 3, pkArg l.packet / 2 ^ 32), (2, 4, lin % x), (3, 5, lin / x % y),
   (4, 6, lin / (x * y)), (5, 7, pre 0), (6, 8, pre 1), (7, 9, pre 2), (8, 10, pre 3), (9, 11, pre 4), (10, 12, b.handle),
   (11, 13, lin % 32), (12, 14, pre 5), (12, 15, pre 6)]

/-- A thread that the dispatcher starts (R42, R55). -/
def startThread (l : Launch) (b : Block) (bid lin : Nat) : Thread :=
  let t := Thread.fresh (BitVec.ofNat 64 l.hdr.entry) lin bid
  { t with regs := (preloadList l b lin).foldl (fun m p =>
      if bit l.hdr.preload p.1 then Map.put 0 m p.2.1 (BitVec.ofNat 32 p.2.2) else m) [] }

/-- Threads that must park as soon as they may: those of a frozen context, and of a block being saved (R144, R355). -/
def State.mustPark (s : State) (b : Block) : Option Nat :=
  if b.state = .saving then some (eventKey 0xB 0)
  else if ((s.ctx? b.asid).map Context.frozen).getD false then some (eventKey 0xB 1)
  else none

/-- Ask a thread that has just been admitted to park, where it must. -/
def State.parkAdmitted (s : State) (k cycle : Nat) : State :=
  match (s.blockOf k).bind s.mustPark with
  | some e => (s.askPark k 0 e 0 none).settleAsync k cycle
  | none => s

/-- Admit the launched group at the head of a core's list (R141, R142): the records of its threads are freed. -/
def State.admitLaunched (s : State) (core u : Nat) (x : Launching) : State :=
  match s.freeSlot u x.hdr.regs with
  | none => s
  | some g =>
    let rs := x.rids.filterMap s.records.look
    let s := s.updCore core fun c => { c with launching := c.launching.drop 1 }
    let s : State := { s with records := x.rids.foldl (fun m r => m.del r) s.records }
    let s := s.putGroup g x.asid x.hdr (rs.map fun r => (r.lane, threadOf r))
    let (cycle, s) := s.fresh
    (rs.foldl (fun s r => s.parkAdmitted (threadNo g r.lane) cycle) s).settleCycle cycle

/-- The lowest-numbered block of a core whose next initial group waits, in a context that lets groups in (R48). -/
def State.waitingBlock (s : State) (core : Nat) : Option (Nat × Block) :=
  s.blocks.find? fun p => p.2.core = core && p.2.waiting ≠ [] &&
    (match p.2.state with
     | .running => true
     | .draining _ => true
     | .late => true
     | _ => false) && !(((s.ctx? p.2.asid).map Context.frozen).getD false)

/-- Admit the next initial group of a block (R48). -/
def State.admitInitial (s : State) (u bid : Nat) (b : Block) : State :=
  match s.launches.look b.launch, b.waiting with
  | some l, w :: rest =>
    match s.freeSlot u l.hdr.regs with
    | none => s
    | some g =>
      let n := pkThreads l.packet
      let s := s.updBlock bid fun b => { b with waiting := rest }
      s.putGroup g b.asid l.hdr ((span 0 (min 32 (n - 32 * w))).map fun i => (i, startThread l b bid (32 * w + i)))
  | _, _ => s

/-- GROUP_ADMISSION: a SIMD unit admits a group of its core: the launched group that has waited longest, and, where none
waits, the next initial group of a block (R41, R42, R48, R141). -/
def execGroupAdmission (core unit : Nat) (s : State) : Host.Outcome State Fault Refusal :=
  event (fun s =>
    let u := 4 * core + unit
    match (s.core core).launching with
    | x :: _ => s.admitLaunched core u x
    | [] =>
      match s.waitingBlock core with
      | some (bid, b) => s.admitInitial u bid b
      | none => s) s

/-! ### Retirement, successors, completion -/

/-- Everything that a block's threads issued has completed (R51): accesses, held here, at a peer or awaiting translation; engine
requests, array operations, collective and Harness messages, publish swaps, fences and write-backs that sflush waits for. -/
def State.idle (s : State) (bid : Nat) : Bool :=
  !(s.ops.any fun x => x.who.bid = bid) && !(s.walks.any fun w => w.x.who.bid = bid) &&
  !(s.harnessWaits.any fun w => w.bid = bid) && !(s.swaps.any fun w => w.bid = bid) &&
  !(s.sflushes.any fun w => w.bid = bid) && !(s.lrenews.any fun w => w.bid = bid) &&
  !(s.copies.any fun c => c.bid = bid) && !(s.queuesMat.any fun q => q.2.any fun m => m.bid = bid) &&
  !(s.digests.any fun d => d.bid = bid) && !(s.runs.any fun r => r.bid = bid) && !(s.collLoads.any fun c => c.bid = bid) &&
  !(s.repartIssues.any fun r => r.bid = bid) && !(s.peers.any fun p => p.bid = bid) &&
  !(s.pfences.any fun p => p.who.bid = bid)

/-- The block is on a core: it is neither in an image nor flushed. -/
def Block.onCore (b : Block) : Bool :=
  match b.state with
  | .saved _ => false
  | .flushed => false
  | _ => true

/-- The block has had its last exit and is on a core (R51). -/
def State.finished (s : State) (bid : Nat) (b : Block) : Bool :=
  b.alive = 0 && b.waiting = [] && s.idle bid && b.onCore && !(s.records.any fun r => r.2.bid = bid)

/-- A block's resources on its core end (R162, R163, R277): allocations, with their dirty stash lines written back, and
claims. -/
def State.freeResources (s : State) (bid : Nat) (b : Block) : State :=
  let s := b.allocs.foldl (fun s a => s.endAlloc bid a) s
  s.updCore b.core fun c => { c with claims := c.claims.filter fun q => q.2 ≠ bid
                                     freeing := c.freeing.filter fun q => c.claims.look q ≠ some bid }

/-- Partial sums of reductions of a launch are merged, if no capture holds one of their lines (R222, R299, R326). -/
def State.tryMergeLaunch (s : State) (lid : Nat) : Option State :=
  tryAll (fun l s => s.tryMerge (128 * l)) ((s.partials.filter fun p => p.launch = lid).map Partial.line).eraseDups s

/-- The same, as far as may be now; the completion signal waits for the rest (R326). -/
def State.mergeLaunch (s : State) (lid : Nat) : State :=
  ((s.partials.filter fun p => p.launch = lid).map Partial.line).eraseDups.foldl (fun s l => (s.tryMerge (128 * l)).getD s) s

/-- A block leaves its core: the counter set goes with the last block of its launch there (R103). -/
def State.leaveCore (s : State) (lid core : Nat) : State :=
  if s.blocks.any fun b => b.2.launch = lid && b.2.core = core && b.2.onCore then s else s.releaseSet core lid

/-- CTXCTL with an action and its outcome; GO reads 1 as long as BUSY does (R8, R336, log 36). -/
def ctxctlWith (v status : Nat) (busy : Bool) : BitVec 64 :=
  BitVec.ofNat 64 (b2n busy * (2 ^ 63 + 2 ^ 62) + status * 2 ^ 59 + field v 56 3 * 2 ^ 56 + v % 2 ^ 9)

/-- ACTION 2 on a context completes once every block of it has left its core: the context is then pre-empted (R336). -/
def State.settleLeaving (s : State) (asid : Nat) (c : Context) : State :=
  if !c.leaving || s.blocks.any (fun b => b.2.asid = asid && b.2.onCore) then s
  else
    let s := s.updCtx asid fun c => { c with leaving := false, preempted := true }
    { s with regs := { s.regs with ctxctl := ctxctlWith s.regs.ctxctl.toNat (if c.saveFull then 4 else 0) false } }

/-- PRECTL is busy until every block it named has left its core (R348), CTXCTL until ACTION 2 is complete (R336). -/
def State.settlePre (s : State) : State :=
  let left := s.preempting.filter fun x => (s.blocks.look x).any Block.onCore
  let v := s.regs.prectl.toNat
  let s : State := { s with preempting := left
                            regs := { s.regs with prectl := BitVec.ofNat 64 (if left = [] then v % 2 ^ 62 else v) } }
  s.contexts.foldl (fun s c => s.settleLeaving c.1 c.2) s

/-- Add to a 16-bit count of PRESTAT at a bit position (R348). -/
def State.countPre (s : State) (pos : Nat) : State :=
  let v := s.regs.prestat.toNat
  let n := min 0xFFFF (field v pos 16 + 1)
  { s with regs := { s.regs with prestat := BitVec.ofNat 64 (v - field v pos 16 * 2 ^ pos + n * 2 ^ pos) } }

/-- The successors of a block are due (R345). -/
def State.dueSuccessors (s : State) (b : Block) : State :=
  b.succ.foldl (fun s t =>
    let (n, s) := s.fresh
    { s with successors := s.successors ++ [⟨n, b.asid, t, b.handle, none, [], 0, none, false, none⟩] }) s

/-- A block retires (R51, R163, R194, R277): its resources end, its successors are due unless it failed, and its launch
counts it, once for two copies. -/
def State.retire (s : State) (bid : Nat) (b : Block) : State :=
  let counts := (b.pairing.map Pairing.first).getD true
  let s := (s.freeResources bid b).mergeLaunch b.launch
  let s := if counts then s.endMemberships b.asid s.pkg b.handle else s
  let s : State := { s with blocks := s.blocks.del bid, preempting := s.preempting.filter fun x => x ≠ bid
                            signals := s.signals.filter fun x => x.bid ≠ bid }
  let s := if counts && !b.failed then s.dueSuccessors b else s
  let s := if counts then
      s.updLaunch b.launch fun l => { l with ended := l.ended + 1, failed := l.failed + b2n b.failed }
    else s
  (s.leaveCore b.launch b.core).settlePre

/-- BLOCK_RETIRE (R51). -/
def execBlockRetire (bid : Nat) (s : State) : Host.Outcome State Fault Refusal :=
  event (fun s =>
    match s.blocks.look bid with
    | none => s
    | some b => if s.finished bid b then s.retire bid b else s) s

/-- Change a successor that is due. -/
def State.updSuccessor (s : State) (n : Nat) (f : Successor → Successor) : State :=
  { s with successors := s.successors.map fun x => if x.no = n then f x else x }

/-- A successor has been dealt with. -/
def State.dropSuccessor (s : State) (n : Nat) : State := { s with successors := s.successors.filter fun x => x.no ≠ n }

/-- A successor's record goes to a queue of another package (R345), which claims an index for it, and has it again when there is a
slot. -/
def State.successorRemote (s : State) (x : Successor) (sel p : Nat) : State :=
  let who := Party.thread 0 x.no
  match s.packetOf who with
  | none => s.sendPacket who x.asid sel p x.template x.claim
  | some q =>
    match q.got with
    | none => s
    | some bs =>
      let w := ofBytes (bs.take 8)
      match (bs.drop 8).map BitVec.toNat with
      | 0 :: _ =>
        let s : State := { s with peers := s.peers.map fun y => if y.use = .packet who then { y with got := none } else y }
        s.updSuccessor x.no fun x => { x with claim := some w }
      | 2 :: _ => (s.dropPacket who).sendPacket who x.asid sel p x.template (some (x.claim.getD w))
      | _ => (s.dropPacket who).dropSuccessor x.no

/-- Put a successor's record into its queue (R345), or leave it held with its claim while no slot is free (R356). -/
def State.enqueueSuccessor (s : State) (x : Successor) (p : Nat) : State :=
  let q := field p 395 12
  let pkg := field p 385 10
  if pkg ≠ s.pkg then s.successorRemote x (pkg * 2 ^ 12 + q) p
  else
    match s.qdesc x.asid q with
    | none => s.dropSuccessor x.no
    | some d =>
      let w := x.claim.getD d.widx
      match if x.claim.isNone then s.claimIndex x.asid d else some s with
      | none => s
      | some s =>
        match s.slotFor x.asid d w with
        | some va =>
          let s := (s.dropSuccessor x.no).putPacket x.asid va p w
          { s with placed := s.placed ++ [⟨x.asid, q, w, x.template⟩] }
        | none => s.updSuccessor x.no fun x => { x with claim := some w }

/-- What the decrement of a counter found says of the record (R345): it is enqueued by the decrement that finds 1. -/
def State.judgeSuccessor (s : State) (x : Successor) (p old : Nat) : State :=
  if old = 1 then (s.updSuccessor x.no fun x => { x with ready := true }).enqueueSuccessor { x with ready := true } p
  else if old = 0 then
    (s.dropSuccessor x.no).report x.asid 0x2B 0 (recordOf [(0, 8, x.template), (8, 8, pkCntr p), (16, 4, x.handle)])
  else s.dropSuccessor x.no

/-- The counter of a template is decremented, as atom.add.n32 −1 does with acquire and release (R345). An unmapped one reads as
zero (log 22). -/
def State.countSuccessor (s : State) (x : Successor) (p : Nat) : State :=
  match s.hubLeaf x.asid (pkCntr p) with
  | none => s.judgeSuccessor x p 0
  | some l =>
    let (wid, s) := s.fresh
    let (no, s) := s.fresh
    let s := (s.updSuccessor x.no fun x => { x with wid := wid }).accept
      { no := no, who := .hub, core := 192, asid := x.asid, launch := 0, wid := wid, reply := none, cycle := 0
        acc := ⟨.atom (.red .add) .n32, pkCntr p, 4, 2 ^ 32 - 1, 0, true, true, 0⟩
        pieces := [⟨pkCntr p, 0, 4, l, l.pa (pkCntr p) (s.leafHalf x.asid l)⟩] }
    match (s.successors.find? fun y => y.no = x.no).bind Successor.old with
    | some old => s.judgeSuccessor { x with wid := wid } p old
    | none => s

/-- A template that has been read is checked as a task record; a bad one is skipped with a fault (R345). -/
def State.checkSuccessor (s : State) (x : Successor) (p : Nat) : State :=
  if packetType p ≠ 2 || (s.packetBad p).isSome then
    (s.dropSuccessor x.no).packetFault x.asid 0x05 x.template 0 0 (packetType p)
  else
    let s := s.updSuccessor x.no fun x => { x with data := some p, ready := x.ready || pkCntr p = 0 }
    if pkCntr p = 0 then s.enqueueSuccessor { x with ready := true } p else s.countSuccessor x p

/-- The dispatcher goes on with a successor (R345): it reads the template, decrements its counter, enqueues the record. A template on
an unmapped page reads as zeros (log 22). -/
def State.stepSuccessor (s : State) (x : Successor) : State :=
  match x.data with
  | some p =>
    if x.ready then s.enqueueSuccessor x p
    else
      match x.old with
      | some old => s.judgeSuccessor x p old
      | none => s
  | none =>
    match s.engineRead 192 x.asid (s.currentHalves x.asid) x.got (wordPieces 4 x.template 64) with
    | .ok (bs, s) => s.checkSuccessor x (ofBytes bs)
    | .error (.need l pa va n) => s.needPeer x.no x.asid 0 l pa va n
    | .error .wait | .error (.held _) => s
    | .error _ => s.checkSuccessor x 0

/-- A successor can make progress: it waits for no answer and for no slot. -/
def State.successorMoves (s : State) (x : Successor) : Bool :=
  match x.data with
  | none => !(s.peers.any fun p => match p.use with
      | .read n _ => n = x.no
      | _ => false)
  | some p =>
    if x.ready then
      if field p 385 10 = s.pkg then
        match x.claim, s.qdesc x.asid (field p 395 12) with
        | some w, some d => (s.slotFor x.asid d w).isSome
        | _, _ => true
      else ((s.packetOf (.thread 0 x.no)).map fun q => q.got.isSome).getD true
    else x.old.isSome

/-- SUCCESSOR_ENQUEUE: the dispatcher decrements the counter of the next template, or enqueues its record (R345). -/
def execSuccessorEnqueue (s : State) : Host.Outcome State Fault Refusal :=
  event (fun s =>
    match s.successors.find? s.successorMoves with
    | none => s
    | some x => if s.canReport x.asid then s.stepSuccessor x else s) s

/-- Every block of a launch has retired or failed, every flushed block has been rerun, every dump is done, every access has been
performed, and the stash lines of its blocks are written back (R163, R346). -/
def State.launchDone (s : State) (lid : Nat) (l : Launch) : Bool :=
  l.todo = [] && l.total ≤ l.ended && !(s.blocks.any fun b => b.2.launch = lid) && !(s.dumpsLeft lid) &&
  !((s.ops ++ s.atPeers).any fun x => x.launch = lid) && !(s.freed.any fun f => f.launch = lid && s.stashHeld f.bid)

/-- The dispatcher adds to a 64-bit word of a context, as red.add.n64 does with release; on an unmapped page the add is lost (R346,
log 22). -/
def State.hubAdd (s : State) (asid va v : Nat) : State :=
  match s.hubLeaf asid va with
  | none => s
  | some l =>
    let (no, s) := s.fresh
    s.accept
      { no := no, who := .hub, core := 192, asid := asid, launch := 0, wid := 0, reply := none, cycle := 0
        acc := ⟨.red .add .n64, va, 8, v, 0, false, true, 0⟩, pieces := [⟨va, 0, 8, l, l.pa va (s.leafHalf asid l)⟩] }

/-- The completion signal of a launch: FAILED is added to, then COUNT is incremented (R346). -/
def State.signalLaunch (s : State) (l : Launch) : State :=
  let a := pkCaddr l.packet
  if a = 0 then s else (if l.failed = 0 then s else s.hubAdd l.asid (a + 8) l.failed).hubAdd l.asid a 1

/-- LAUNCH_COMPLETION_SIGNAL (R346): once, when the launch is done and its partial sums are merged (R326). -/
def execLaunchCompletionSignal (launch : Nat) (s : State) : Host.Outcome State Fault Refusal :=
  event (fun s =>
    match s.launches.look launch with
    | none => s
    | some l =>
      match if s.launchDone launch l then s.tryMergeLaunch launch else none with
      | none => s
      | some s => { s with launches := s.launches.del launch }.signalLaunch l) s

/-! ### Taking packets (R250, R347) -/

/-- A launch of a queue has blocks to start, or a packet of it waits to be processed: the queue has had its turn (R341,
R347). -/
def State.queueBusy (s : State) (asid q : Nat) : Bool :=
  (s.packets.any fun x => x.asid = asid && x.queue = q) ||
  s.launches.any fun l => l.2.asid = asid && l.2.queue = q && l.2.todo ≠ []

/-- The packet at RIDX of a queue, once it is written (R250). -/
def State.headPacket (s : State) (asid q : Nat) : Option (QDesc × Nat) :=
  match s.qdesc asid q with
  | none => none
  | some d =>
    let p := ofBytes (s.ctxBytes asid (d.slot d.ridx) 64)
    if d.ridx < d.widx && field p 480 32 = seqOf d.ridx then some (d, p) else none

/-- A first block of a packet's launch can be placed now: of a mask one on its core, of a task record one on any die, of a grid a
cluster of some die's share (R49, R340, R341, R343). -/
def State.packetFits (s : State) (p : Nat) (hdr : Header) : Bool :=
  if pkMask p then (pkCores p).any (s.coreFits 0 hdr)
  else if packetType p = 2 then (span 0 4).any (s.dieFits 0 hdr 1)
  else (span 0 4).any fun d => pkPv p d < pkPv p (d + 1) && (s.dieOfShare p d).any (s.dieFits 0 hdr (pkCsz p))

/-- A packet could start something now (R347): a packet that is discarded could, a copy when its engine has room, a launch
when a block of it can be placed. -/
def State.couldStart (s : State) (asid p : Nat) : Bool :=
  if packetType p = 3 then s.engineLoad 192 < 64
  else if (s.packetBad p).isSome then true
  else
    let v := s.ctxVal asid (pkHdr p) 64
    (headerBad v).isSome || s.packetFits p (headerOfBits (pkHdr p) v)

/-- Queues with a packet that could start now, as (priority, queue, ASID), in ascending order of (queue, ASID) (R336, R347):
a packet that cannot be placed yet waits in its slot without blocking other queues. -/
def State.served (s : State) : List (Nat × Nat × Nat) :=
  let all := s.contexts.flatMap fun c => if s.serves c.1 then c.2.queues.map fun q => (q, c.1) else []
  ((all.foldl (fun (m : Map (Nat × Nat)) q => m.ins (q.1 * 512 + q.2) q) []).map Prod.snd).filterMap fun q =>
    match s.headPacket q.2 q.1 with
    | some (d, p) => if s.queueBusy q.2 q.1 || !(s.couldStart q.2 p) then none else some (d.prio, q.1, q.2)
    | none => none

/-- A core can take a saved block: units, tiles, B units and queue entries of array and engine are free, and, with the other copy of a
pair on a core, it is of another cluster of that core's die (R164, R245, R278, R354, R368). -/
def State.canRestore (s : State) (bid : Nat) (b : Block) (l : Launch) (x : SavedBlock) (core : Nat) : Bool :=
  s.coreOk core && s.stageRuns core && !(s.margining core) && (x.allocs.map SavedAlloc.units).sum ≤ (s.freePhys core).length && s.setFree core b.launch l.hdr &&
  (x.claims.all fun q => ((s.core core).claims.look q).isNone) && (s.arrayQueue core).length + x.ops.length ≤ 8 &&
  s.engineLoad core + (s.copies.filter fun c => c.bid = bid).length ≤ 64 &&
  match b.pairing.bind fun p => s.blocks.look p.other with
  | some o => !o.onCore || (o.core / 48 = core / 48 && o.core / 12 ≠ core / 12)
  | none => true

/-- A saved block that waits to be restored precedes packets of a level (R347), when a core could take it. -/
def State.restoreFirst (s : State) (level : Nat) : Bool :=
  s.blocks.any fun b =>
    match b.2.state, s.launches.look b.2.launch with
    | .saved _, some l =>
      level ≤ l.prio && s.serves b.2.asid &&
      (s.saved.look b.1).any fun x => (span 0 192).any (s.canRestore b.1 b.2 l x)
    | _, _ => false

/-- The queue of a level whose turn it is: the first after the one served last that has a packet (R347). -/
def State.turnOf (s : State) (level : Nat) : Option (Nat × Nat) :=
  let l := (s.served.filter fun q => q.1 = level).map Prod.snd
  let last := s.lastServed.lookD level (4096 * 512)
  match l.find? fun q => last < q.1 * 512 + q.2 with
  | some q => some q
  | none => l.head?

/-- The dispatcher may take the packet of a queue now: no higher level has one that it could start, no saved block goes
first, and it is the queue's turn (R347). -/
def State.mayTake (s : State) (level asid q : Nat) : Bool :=
  !(s.served.any fun x => level < x.1) && !(s.restoreFirst level) && s.turnOf level = some (q, asid)

/-- The template of the record that a successor enqueue placed at an index (R343). -/
def State.placedAt (s : State) (asid q w : Nat) : Nat :=
  ((s.placed.find? fun x => x.asid = asid && x.queue = q && x.index = w).map Placed.template).getD 0

/-- QUEUE_PACKET_TAKE: the packet at RIDX is taken, RIDX advances, spilled packets move up, and threads that wait for a slot
go on (R250, R251, R347). -/
def execQueuePacketTake (asid queue : Nat) (s : State) : Host.Outcome State Fault Refusal :=
  event (fun s =>
    match s.headPacket asid queue with
    | none => s
    | some (d, p) =>
      if !(s.mayTake d.prio asid queue) then s
      else
        let (n, s) := s.fresh
        let x : Packet := ⟨n, asid, queue, d.prio, d.ridx, d.slot d.ridx, p, s.placedAt asid queue d.ridx⟩
        let s := { s with packets := s.packets ++ [x]
                          placed := s.placed.filter fun y => !(y.asid = asid && y.queue = queue && y.index = d.ridx)
                          lastServed := s.lastServed.ins d.prio (queue * 512 + asid) }.ctxPut asid (d.at_ + 0x100) 8 (d.ridx + 1)
        (s.moveSpills asid { d with ridx := d.ridx + 1 }).wakeQueue asid queue) s

end Sys2Proof.Machine
end

