-- ==== Sys2Proof/Machine/Preempt.lean ====
section
/-! DEFINITION. Contexts (R335, R336), pre-emption (R348 to R351, R355), save images and restore (R144, R164, R278, R352 to
R354, R397), queue deadlock (R356), and the check points of paired blocks (R368, R369). -/

namespace Sys2Proof.Machine

/-! ### Discarding records and threads -/

/-- Keep in a list of units the records that pass a test, and the units that still have one. -/
def keepUnits (f : Nat → Bool) (l : List (List Nat)) : List (List Nat) := (l.map fun u => u.filter f).filter fun u => u ≠ []

/-- Take records out of a core's bins, pass queue and launched groups (R144). -/
def Core.without (c : Core) (f : Nat → Bool) : Core :=
  { c with
      bins := (c.bins.map fun p => (p.1, { p.2 with units := keepUnits f p.2.units })).filter fun p => p.2.units ≠ []
      passQueue := keepUnits f c.passQueue
      launching := (c.launching.map fun x => { x with rids := x.rids.filter f }).filter fun x => x.rids ≠ [] }

/-- Take records out of every crock; bins that are freed go to the pass queues (R140). -/
def State.uncrock (s : State) (f : Nat → Bool) : State :=
  let s : State := { s with cores := s.cores.map fun p => (p.1, p.2.without f) }
  s.cores.foldl (fun s p => s.pressBins p.1 (4 * s.records.length + 4)) s

/-- A thread is discarded: the loads it has in flight have nowhere to go (R60, R350). -/
def State.dropThread (s : State) (k : Nat) (t : Thread) : State :=
  (t.incoming.foldl (fun s i => s.freeMiss i.wid) s).leaveSlot k

/-- Discard the threads and records of some blocks. Accesses that have issued complete (R350); one that a record logs has not
(R214). A unit that other blocks share goes on without the records that are gone (R135). -/
def State.discard (s : State) (f : Nat → Bool) : State :=
  let s := (s.threads.filter fun p => f p.2.bid).foldl (fun s p => s.dropThread p.1 p.2) s
  let gone := s.records.filter fun r => f r.2.bid
  let rids := gone.map Prod.fst
  let s : State := { s with records := s.records.filter fun r => !(f r.2.bid)
                            walks := s.walks.filter fun w => w.ticket = 0 || !(f w.x.who.bid) }
  if rids = [] then s
  else ((gone.map fun r => r.2.unit).eraseDups).foldl State.settleUnit (s.uncrock fun r => !(rids.contains r))

/-- Ask a thread to park with a resumption event (R79, R144). A thread that is to park already parks with its own event. -/
def State.askResume (s : State) (k event cycle : Nat) : State :=
  match s.thread? k with
  | none => s
  | some t => if t.park.isSome then s else (s.askPark k 0 event 0 none).settleAsync k cycle

/-- Ask every thread of some blocks to park. -/
def State.askAll (s : State) (event : Nat) (f : Nat → Bool) : State :=
  let (cycle, s) := s.fresh
  ((s.threads.filter fun p => f p.2.bid).foldl (fun s p => s.askResume p.1 event cycle) s).settleCycle cycle

/-- A unit is emptied: it admits no group, and its threads park at their latch-safe points with kind 0x0 (R367). -/
def State.emptyUnit (s : State) (u : Nat) : State :=
  let (cycle, s) := (s.setUnit u { s.unit u with emptying := true }).fresh
  ((s.threads.filter fun p => unitOf p.1 = u).foldl (fun s p => s.askResume p.1 0 cycle) s).settleCycle cycle

/-- The address space of a block. -/
def State.asidOfBlock (s : State) (bid : Nat) : Option Nat := (s.blocks.look bid).map Block.asid

/-! ### FLUSH-RESTART (R350) -/

/-- Copies that a block's threads have had accepted complete, as far as nothing stops them (R350). -/
def State.finishCopies (s : State) (bid : Nat) : State :=
  (s.copies.filter fun c => c.bid = bid && c.ticket.isNone).foldl (fun s c => s.runCopy c.serial (reqCount c.req - c.done)) s

/-- The copies of a pair hold the writes and reductions that they have issued, those that await translation among them: these are
discarded with them (R368, R369). -/
def Walk.heldBack (w : Walk) : Bool :=
  !w.x.acc.release && match w.x.acc.op with
    | .store => true
    | .red .. => true
    | _ => false

/-- A block is flushed (R163, R194, R277, R350): threads and records are discarded, its queued operations too, and its
resources end; it will start again with a new handle. The second copy of a paired block is gone. -/
def State.flush (s : State) (bid : Nat) : State :=
  match s.blocks.look bid with
  | none => s
  | some b =>
    let s := (s.discard fun x => x = bid).finishCopies bid
    let s := if b.pairing.isNone then s
      else (s.walks.filter fun w => w.x.who.bid = bid && w.heldBack).foldl State.dropWalk s
    let s := s.setArrayQueue b.core ((s.arrayQueue b.core).filter fun o => o.bid ≠ bid)
    let s := ((s.freeResources bid b).mergeLaunch b.launch).endMemberships b.asid s.pkg b.handle
    let s : State := { s with signals := s.signals.filter fun x => x.bid ≠ bid }
    let s := match b.pairing with
      | some p => if p.first then s else { s with blocks := s.blocks.del bid }
      | none => s
    let s := s.updBlock bid fun b =>
      { b with state := .flushed, handle := 0, allocs := [], alive := 0, waiting := [], succ := [], failed := false, issued := 0
               pairing := b.pairing.map fun p => { p with signature := 0, held := [] } }
    (s.leaveCore b.launch b.core).settlePre

/-- Both copies of a paired block, or the block alone. -/
def copiesOf (bid : Nat) (b : Block) : List Nat :=
  match b.pairing with
  | some p => [bid, p.other]
  | none => [bid]

/-- A core that a flushed block can start on again (R350): its die's for a grid, the one named for a mask, any for a task
record; and for a block of a larger cluster one of the hardware cluster of the blocks that are resident, where no other
block of the cluster is. -/
def State.restartOk (s : State) (b : Block) (l : Launch) (core : Nat) : Bool :=
  s.canStart b.launch l.hdr core &&
  match l.kind with
  | .mask => core = b.core
  | .task => true
  | .grid =>
    let csz := pkCsz l.packet
    let mates := s.blocks.filter fun x => x.2.launch = b.launch && x.2.linear / csz = b.linear / csz && x.2.stage = b.stage && x.2.onCore
    s.startDie l.packet b.linear = some (core / 48) &&
    mates.all fun x => x.2.core / 12 = core / 12 && x.2.core ≠ core

/-- The second core of a paired block that starts again: the lowest-numbered one of another cluster of the die (R368). -/
def State.secondCore (s : State) (b : Block) (l : Launch) (core : Nat) : Option Nat :=
  (span (core / 48 * 48) 48).find? fun c => c / 12 ≠ core / 12 && s.canStart b.launch l.hdr c

/-- Start a flushed block again on a core (R350). -/
def State.restart (s : State) (bid core : Nat) : State :=
  match s.blocks.look bid with
  | none => s
  | some b =>
    match s.launches.look b.launch with
    | none => s
    | some l =>
      let second := if b.pairing.isSome then s.secondCore b l core else none
      if b.state ≠ .flushed || !(s.restartOk b l core) || (b.pairing.isSome && second.isNone) then s
      else
        { s with blocks := s.blocks.del bid }.startBlock b.launch l core second b.linear b.stage
          ((b.pairing.map Pairing.mismatches).getD 0)

/-- FLUSHED_BLOCK_RESTART: a flushed block starts again; where its whole cluster has been flushed, the rest of it starts on
other cores of the hardware cluster (R49, R350). -/
def execFlushedBlockRestart (bid core : Nat) (s : State) : Host.Outcome State Fault Refusal :=
  event (fun s =>
    match s.blocks.look bid with
    | none => s
    | some b =>
      match s.launches.look b.launch with
      | none => s
      | some l =>
        let csz := pkCsz l.packet
        let mates := s.blocks.filter fun x => x.1 ≠ bid && x.2.launch = b.launch && x.2.linear / csz = b.linear / csz &&
          x.2.stage = b.stage && x.2.state = .flushed && l.kind = .grid
        let cores := ((span (core / 12 * 12) 12).filter fun c => c ≠ core && s.canStart b.launch l.hdr c).take mates.length
        if !(s.serves b.asid) || cores.length < mates.length then s
        else (mates.zip cores).foldl (fun s p => s.restart p.1.1 p.2) (s.restart bid core)) s

/-! ### SAVE (R144, R164, R278, R352, R353, R397) -/

/-- A block begins to be saved: every thread parks at its latch-safe point with kind 0xB (R350). -/
def State.startSave (s : State) (bid : Nat) : State :=
  (s.updBlock bid fun b => { b with state := .saving }).askAll (eventKey 0xB 0) fun x => x = bid

/-- The records of a block, oldest first. -/
def State.blockRecords (s : State) (bid : Nat) : List (Nat × Record) := s.records.filter fun r => r.2.bid = bid

/-- Bytes rounded up to whole pages. -/
def pagesOf (n : Nat) : Nat := (n + 4095) / 4096

/-- Pages of the sections of an image (R397): records of given sizes, allocations, claims, operations, stopped requests. -/
def State.imagePages (s : State) (bid : Nat) (b : Block) (sizes : List Nat) : Nat :=
  let records := 64 + (sizes.map fun n => (n + 63) / 64 * 64 + 64).sum
  let larder := (b.allocs.map fun a => 32 + 4 * (32 * a.phys.length) + if a.stash.isNone then a.size else 0).sum
  let keys := ((s.core b.core).claims.filter fun q => q.2 = bid).map Prod.fst
  let ops := ((s.arrayQueue b.core).filter fun o => o.bid = bid).length
  let matrix := 64 + (keys.map fun q => if q < 2 then 131136 else 524288).sum + 128 * ops
  let engine := 64 + 128 * (s.copies.filter fun c => c.bid = bid).length
  let n := 1 + pagesOf records + pagesOf larder + pagesOf matrix + pagesOf engine
  n + pagesOf (8 * n)

/-- The sizes of a block's records, those of its resident threads as if they parked with all registers. -/
def State.recordSizes (s : State) (bid : Nat) : List Nat :=
  ((s.blockRecords bid).map fun r => r.2.size) ++
  (s.threads.filter fun p => p.2.bid = bid).map fun p =>
    recordSize (s.regCount p.1 - 1) p.2.rep.isSome (if p.2.walk.isSome then 2 else 0)

/-- The first of n adjacent free pages of a context's save area (log 12). -/
def Context.freePages (c : Context) (n : Nat) : Option Nat :=
  lowestFree (c.svsize / 4096 + 1 - n) 0 fun i => (span i n).all fun p => !(c.savePages.contains p)

/-- The save area has room for the block's image (R349). -/
def State.saveRoom (s : State) (bid : Nat) (b : Block) : Bool :=
  ((s.ctx? b.asid).bind fun c => c.freePages (s.imagePages bid b (s.recordSizes bid))).isSome

/-- What a thread that is held for want of room for its record asks for: it can be saved (R134). One that waits to report stays in
its slot until it can (R361). -/
def heldPark (t : Thread) : Option ParkReq :=
  match t.hold with
  | .overflow _ (some p) => some p
  | _ => none

/-- The block can enter its image now: no thread of it is resident but those held for a record; its records' incoming
writes have completed, none is on its way to a group; its copies are stopped, and no operation but an mma has started
(R144, R246, R278, R351). -/
def State.saveReady (s : State) (bid : Nat) (b : Block) : Bool :=
  b.state = .saving &&
  (s.threads.all fun p => p.2.bid ≠ bid || (heldPark p.2).isSome) &&
  ((s.blockRecords bid).all fun r => r.2.incoming.all fun i => !(r.2.awaits i)) &&
  !((s.core b.core).launching.any fun x => x.rids.any fun r => (s.records.look r).map Record.bid = some bid) &&
  (s.copies.all fun c => c.bid ≠ bid || c.ticket.isSome) &&
  (s.arrayQueue b.core).all fun o => o.bid ≠ bid || !o.started || o.op = 0xB0

/-- Threads held for a record go into the image as the records they wait to write. -/
def State.recordHeld (s : State) (bid : Nat) : State :=
  (s.threads.filter fun p => p.2.bid = bid).foldl (fun s p =>
    match heldPark p.2, s.blocks.look bid, s.headerOf p.1 with
    | some q, some b, some hdr => s.writeRecord p.1 p.2 b hdr q .image
    | _, _, _ => s) s

/-- The allocations of a block in increasing window address (R164). -/
def Block.inOrder (b : Block) : List Alloc := (b.allocs.foldl (fun (m : Map Alloc) a => m.ins a.base a) []).map Prod.snd

/-- Lines of a block's stash allocations, by number; they are saved as not present (R164). -/
def Block.stashNos (b : Block) : List Nat :=
  b.allocs.flatMap fun a => if a.stash.isSome then (a.lines b.core).map Prod.snd else []

/-- What the image holds of an allocation (R164): REMAIN, and each line's age, state, and data if it is no stash line. A fetch of a
stash line that was due is due again after the restore. -/
def State.saveAlloc (s : State) (b : Block) (a : Alloc) : SavedAlloc :=
  { base := a.base, tag := a.tag, stash := a.stash, units := a.phys.length
    remain := if liveTag s.now a.tag && a.tag ≠ 0 then some ((a.tag + 2 ^ 40 - s.now % 2 ^ 40) % 2 ^ 40) else none
    lines := (a.lines b.core).map fun p =>
      (s.ageOf (s.line p.2), { s.line p.2 with stale := s.isStale b.core p.2 a },
        if a.stash.isSome then [] else bytesAt s.larder (p.2 * 128) 128) }

/-- The units of a core's crock that hold records of a block, in the order of its bins and its pass queue (R144). -/
def State.crockOrder (s : State) (core bid : Nat) : List (List Nat) :=
  let mine (r : Nat) : Bool := (s.records.look r).map Record.bid = some bid
  keepUnits mine (((s.core core).bins.flatMap fun p => p.2.units) ++ (s.core core).passQueue)

/-- The contents of a block's image. -/
def State.contents (s : State) (bid : Nat) (b : Block) (page pages serial : Nat) : SavedBlock :=
  let keys := ((s.core b.core).claims.filter fun q => q.2 = bid).map Prod.fst
  { page := page, pages := pages, serial := serial, allocs := b.inOrder.map (s.saveAlloc b), claims := keys
    freeing := keys.filter fun q => (s.core b.core).freeing.contains q
    tiles := (keys.filter fun q => q < 2).map fun q =>
      let lo := cellNo b.core q 0 0
      (q, s.tileWord b.core q, (s.tiles.filter fun p => lo ≤ p.1 && p.1 < lo + 16384).map fun p => (p.1 - lo, p.2))
    banks := (keys.filter fun q => 2 ≤ q).map fun q =>
      (q, (s.bank.filter fun p => p.1 / 2 ^ 23 = b.core && p.1 % 65536 / 4096 = q - 2).map fun p => (p.1 % 2 ^ 23, p.2))
    ops := ((s.arrayQueue b.core).filter fun o => o.bid = bid).map fun o => { o with started := false }
    order := s.crockOrder b.core bid }

/-- Bytes padded with zeros to a multiple of n. -/
def padTo (n : Nat) (bs : List Byte) : List Byte := bs ++ List.replicate ((n - bs.length % n) % n) 0

/-- The record section. -/
def recordSection (rs : List Record) : List Byte := toBytes 64 rs.length ++ rs.flatMap fun r => padTo 64 r.bytes ++ toBytes 64 r.unit

/-- The larder section: allocation descriptor, line words, data (R164). -/
def State.larderSection (s : State) (b : Block) (l : List SavedAlloc) : List Byte :=
  (l.zip b.inOrder).flatMap fun p =>
    let x := p.1
    let remain := if x.tag = 0 then 2 ^ 64 - 1 else x.remain.getD 0
    toBytes 32 (b2n x.stash.isSome * 2 ^ 176 + x.units * 2 ^ 160 + x.base * 2 ^ 128 + remain * 2 ^ 64 + x.stash.getD 0) ++
    ((p.2.lines b.core).flatMap fun q => toBytes 4 (s.lineWord b.core q.2 p.2)) ++
    (if x.stash.isNone then x.lines.flatMap fun q => q.2.2 else [])

/-- The matrix section (R278). -/
def matrixSection (x : SavedBlock) : List Byte :=
  let cells (l : List (Nat × Nat)) : List Byte := (span 0 16384).flatMap fun i => toBytes 8 (Map.lookD l i 0)
  let unit (q : Nat) (l : List (Nat × Byte)) : List Byte :=
    (span 0 128).flatMap fun j => (span 0 4096).map fun o => Map.lookD l (j * 65536 + 4096 * (q - 2) + o) 0
  toBytes 64 ((x.claims.map fun q => 2 ^ q).sum) ++ (x.tiles.flatMap fun t => toBytes 64 t.2.1 ++ cells t.2.2) ++
  (x.banks.flatMap fun u => unit u.1 u.2) ++
  x.ops.flatMap fun o => toBytes 64 o.blk ++ toBytes 8 o.op ++ toBytes 8 o.x ++ toBytes 8 o.addr ++ toBytes 8 o.cpl ++
    toBytes 8 o.token ++ toBytes 24 o.steps

/-- The engine section (R246). -/
def engineSection (l : List CopyReq) : List Byte :=
  toBytes 64 l.length ++ l.flatMap fun c => toBytes 64 c.req ++ toBytes 8 (reqEsz c.req * c.done) ++ toBytes 56 c.addr

/-- The header page of an image (R352). -/
def imageHeader (x : SavedBlock) (b : Block) (l : Launch) (ofs : List Nat) : List Byte :=
  let origin := if l.kind = .task then l.template else pkCaddr l.packet
  let o (i : Nat) : List Byte := toBytes 8 ((ofs[i]?).getD 0)
  toBytes 8 x.pages ++ toBytes 8 x.serial ++ toBytes 8 l.hdr.addr ++ toBytes 8 origin ++ toBytes 4 b.handle ++
  toBytes 4 b.threads ++ toBytes 8 b.issued ++ ((span 0 7).flatMap fun i => toBytes 4 ((b.pre[i]?).getD 0)) ++
  toBytes 1 l.prio ++ toBytes 3 0 ++ ((span 0 4).flatMap fun i => toBytes 8 ((b.succ[i]?).getD 0)) ++
  o 0 ++ o 1 ++ o 2 ++ o 3 ++ o 4

/-- The integrity tag of a page at an offset (R353): the first eight bytes of the digest. -/
def pageTag (page : List Byte) (ofs serial : Nat) : List Byte := (sm3 (page ++ toBytes 8 ofs ++ toBytes 8 serial)).take 8

/-- Page i of some bytes. -/
def pageAt (bs : List Byte) (i : Nat) : List Byte := (bs.drop (4096 * i)).take 4096

/-- The whole image of a block: header page, sections, tag table (R352, R353, R397). -/
def State.image (s : State) (x : SavedBlock) (bid : Nat) (b : Block) (l : Launch) : List Byte :=
  let sections := [recordSection ((s.blockRecords bid).map Prod.snd), s.larderSection b x.allocs, matrixSection x,
    engineSection (s.copies.filter fun c => c.bid = bid)].map (padTo 4096)
  let ofs := (span 0 5).map fun i => 4096 + ((sections.take i).map List.length).sum
  let body := padTo 4096 (imageHeader x b l ofs) ++ sections.flatten
  let tags := (span 0 (body.length / 4096)).flatMap fun i => pageTag (pageAt body i) (4096 * i) x.serial
  body ++ padTo 4096 tags

/-- Block enters its image and leaves its core (R350): stash lines are not present, its stopped requests leave the engine (R164,
R246). -/
def State.enterImage (s : State) (bid page pages : Nat) (b : Block) (c : Context) (l : Launch) : State :=
  let s := b.stashNos.foldl State.dropLine s
  let x := s.contents bid b page pages (c.saves + 1)
  let bytes := s.image x bid b l
  let s := s.ctxStoreUnits b.asid (c.svbase + 4096 * page) (units64 bytes)
  let mine (r : Nat) : Bool := (s.records.look r).map Record.bid = some bid
  let s := s.uncrock fun r => !(mine r)
  let nos := b.stashNos
  let s := nos.foldl (fun s n => s.setLine n { s.line n with fetching := false }) s
  let s : State :=
    { s with
        peers := s.peers.filter fun p => match p.use with
          | .fetch n => !(nos.contains n)
          | _ => true
        records := s.records.map fun r => if r.2.bid = bid then (r.1, { r.2 with place := .image }) else r
        copies := s.copies.map fun c => if c.bid = bid then { c with core := 255 } else c
        saved := s.saved.ins bid x }
  let s := s.setArrayQueue b.core ((s.arrayQueue b.core).filter fun o => o.bid ≠ bid)
  let s := s.updCore b.core fun k => { k with claims := k.claims.filter fun q => q.2 ≠ bid
                                              freeing := k.freeing.filter fun q => !(x.claims.contains q) }
  let s := s.updCtx b.asid fun c => { c with saves := c.saves + 1, savePages := c.savePages ++ span page pages }
  let s := s.updBlock bid fun b => { b with state := .saved page, allocs := [] }
  ((s.wakeEngine b.core).leaveCore b.launch b.core).settlePre

/-- BLOCK_SAVE_COMPLETE: dirty stash lines are written back, partial sums merged, and then the block enters its image (R103, R162,
R164, R350). Where the save area has lost its room meanwhile the block drains on, and is saved later. -/
def execBlockSaveComplete (bid : Nat) (s : State) : Host.Outcome State Fault Refusal :=
  event (fun s =>
    match s.blocks.look bid with
    | none => s
    | some b =>
      if !(s.saveReady bid b) then s
      else
        let s := s.releaseStash bid
        if s.stashHeld bid then s
        else
          match s.ctx? b.asid, s.launches.look b.launch, s.tryMergeLaunch b.launch with
          | some c, some l, some s =>
            let n := s.imagePages bid b (s.recordSizes bid)
            match c.freePages n with
            | some page => (s.recordHeld bid).enterImage bid page n b c l
            | none =>
              (s.updBlock bid fun b => { b with state := .late }).wake fun key x => x = bid && key = eventKey 0xB 0
          | _, _, _ => s) s

/-! ### Restore (R354) -/

/-- The pages of an image whose tag does not match, and whether one of them cannot be read (R353, R354). -/
def State.badPage (s : State) (asid base : Nat) (x : SavedBlock) : Option (Nat × Nat) :=
  let tagPages := pagesOf (8 * x.pages)
  let n := x.pages - tagPages
  let poisoned (i : Nat) : Bool :=
    match s.hubLeaf asid (base + 4096 * i) with
    | some l => s.bad (l.pa (base + 4096 * i) 0) 4096
    | none => false
  match (span 0 x.pages).find? poisoned with
  | some i => some (0x02, i)
  | none =>
    ((span 0 n).find? fun i =>
      pageTag (s.ctxBytes asid (base + 4096 * i) 4096) (4096 * i) x.serial ≠
        s.ctxBytes asid (base + 4096 * n + 8 * i) 8).map fun i => (0x01, i)

/-- Map a saved allocation on a core again (R164): the remaining life of tag, lines and stale bits is unchanged. -/
def State.restoreAlloc (s : State) (bid core : Nat) (x : SavedAlloc) : State :=
  let phys := (s.freePhys core).take x.units
  let tag := match x.remain with
    | some r => (s.now + r) % 2 ^ 40
    | none => x.tag
  let a : Alloc := ⟨x.base, tag, x.tag ≠ 0 && x.remain.isNone, x.stash, phys⟩
  let s := (s.initUnits core phys true).updBlock bid fun b => { b with allocs := b.allocs ++ [a] }
  ((a.lines core).zip x.lines).foldl (fun s p =>
    let l : Line := { p.2.2.1 with stamp := (s.now + 2 ^ 16 - p.2.1 % 2 ^ 16) % 2 ^ 16 }
    let s := s.setLine p.1.2 l
    if x.stash.isSome then s else { s with larder := spliceMap 0 s.larder (p.1.2 * 128) 128 ((span (p.1.2 * 128) 128).zip p.2.2.2) }) s

/-- Write the tiles, B units and operations of an image to a core (R278). -/
def State.restoreMatrix (s : State) (bid core : Nat) (x : SavedBlock) : State :=
  let s := x.claims.foldl (fun s q => s.grant core bid q) s
  let s := s.updCore core fun c => { c with freeing := c.freeing ++ x.freeing }
  let s := x.tiles.foldl (fun s t =>
    let lo := cellNo core t.1 0 0
    let s : State := { s with tiles := spliceMap 0 s.tiles lo 16384 (t.2.2.map fun c => (lo + c.1, c.2)) }
    { s with tileWords := s.tileWords.put 0 (core * 2 + t.1) t.2.1 }) s
  let s := x.banks.foldl (fun s u => { s with bank := u.2.foldl (fun m c => Map.put 0 m (core * 2 ^ 23 + c.1) c.2) s.bank }) s
  s.setArrayQueue core (s.arrayQueue core ++ x.ops)

/-- Place the records of a restored block on a core, each unit a unit of its own; none where there is no room (R144). -/
def State.placeRecords (core : Nat) : List (Nat × Record) → State → Option State
  | [], s => some s
  | (rid, r) :: rest, s =>
    match s.placeFor core r.asid r.size with
    | none => none
    | some p =>
      State.placeRecords core rest
        ({ s with records := s.records.ins rid { r with core := core, place := p, entered := false } }.syncRecord rid)

/-- Number the units of a block's records afresh, by the first record of each. -/
def unitsApart (rs : List (Nat × Record)) : List (Nat × Record) :=
  rs.map fun r => (r.1, { r.2 with unit := ((rs.find? fun q => q.2.unit = r.2.unit).map Prod.fst).getD r.1 })

/-- A block is on a core again (R144, R197, R354): held signals are applied, and records that waited for the restore or for room in
an engine are ready; then units that were ready re-enter the crock in their order, and those that have become ready follow in
the order of the image. -/
def State.resumeBlock (s : State) (bid core : Nat) (b : Block) (l : Launch) (x : SavedBlock) : Option State :=
  let s := (s.updBlock bid fun b => { b with core := core, state := .running, byPre := false }).bindSet core b.launch l.hdr
  let s := x.allocs.foldl (fun s a => s.restoreAlloc bid core a) s
  let s := s.restoreMatrix bid core x
  let s : State := { s with copies := s.copies.map fun c => if c.bid = bid && c.core = 255 then { c with core := core } else c }
  let s := ((s.releaseSignals bid).wakeEngine core).wake fun key y => y = bid && key = eventKey 0xB 0
  match State.placeRecords core (unitsApart (s.blockRecords bid)) s with
  | none => none
  | some s =>
    let s := x.order.foldl (fun s u =>
      (u.foldl (fun s r => s.updRecord r fun r => { r with entered := true }) s).enterUnit core u) s
    let ready := ((s.blockRecords bid).filter fun r => r.2.ready && !r.2.entered).map fun r => r.2.unit
    some (ready.eraseDups.foldl State.settleUnit s)

/-- The image of a block is gone: its pages are free. -/
def State.freeImage (s : State) (bid asid : Nat) (x : SavedBlock) : State :=
  let s : State := { s with saved := s.saved.del bid }
  s.updCtx asid fun c => { c with savePages := c.savePages.filter fun p => !(x.page ≤ p && p < x.page + x.pages) }

/-- A failed restore (R354): an idempotent block is flushed and starts again, what its image held of it gone; any other raises the
restore-corrupt fault, and its context is frozen. -/
def State.restoreFails (s : State) (bid asid base : Nat) (b : Block) (l : Launch) (detail page : Nat) : State :=
  if l.hdr.idem then
    (copiesOf bid b).foldl (fun s y =>
      match s.saved.look y with
      | some x => ((s.freeImage y asid x).dropCopies fun c => c.bid = y).flush y
      | none => s.flush y) s
  else
    (s.updCtx asid fun c => { c with frozen := true }).report asid 0x2A detail
      (recordOf [(0, 8, base), (8, 4, b.handle), (12, 4, page)])

/-- BLOCK_RESTORE: the dispatcher checks an image's tags and restores the block on a core that can hold it (R354). -/
def execBlockRestore (bid core : Nat) (s : State) : Host.Outcome State Fault Refusal :=
  event (fun s =>
    match s.blocks.look bid, s.saved.look bid with
    | some b, some x =>
      match s.launches.look b.launch, s.ctx? b.asid with
      | some l, some c =>
        if !(s.serves b.asid) || !(s.canRestore bid b l x core) || !(s.canReport b.asid) then s
        else
          let base := c.svbase + 4096 * x.page
          match s.badPage b.asid base x with
          | some (d, i) =>
            let s := match s.hubLeaf b.asid (base + 4096 * i) with
              | some l => if d = 0x02 then s.logBad (l.pa (base + 4096 * i) 0) 4096 else s
              | none => s
            s.restoreFails bid b.asid base b l d i
          | none => ((s.resumeBlock bid core b l x).map fun s => s.freeImage bid b.asid x).getD s
      | _, _ => s
    | _, _ => s) s

/-! ### Pre-emption (R348 to R350, R355) -/

/-- What pre-emption does with a block. -/
inductive PreAction
  | completed
  | drain
  | flush
  | save
  deriving DecidableEq, Repr

/-- The choice of R349, and R355 for a block whose last thread has exited. -/
def State.choose (s : State) (force : Bool) (bid : Nat) (b : Block) (hdr : Header) (c : Context) : PreAction :=
  let done := b.issued / max 1 b.threads
  if b.alive = 0 && b.waiting = [] then .completed
  else if !hdr.mayPre then .drain
  else if !force && hdr.expect ≠ 0 && hdr.expect ≤ c.draint + done then .drain
  else if hdr.idem && done ≤ c.flusht then .flush
  else if s.saveRoom bid b then .save
  else .drain

/-- The choice of ACTION 2 (R336). -/
def State.chooseAll (s : State) (bid : Nat) (b : Block) (hdr : Header) : PreAction :=
  if b.alive = 0 && b.waiting = [] then .completed
  else if hdr.mayPre && s.saveRoom bid b then .save
  else .drain

/-- An action takes effect on the copies of a block (R348, R350, R355). -/
def State.act (s : State) (copies : List Nat) (a : PreAction) : State :=
  match a with
  | .completed => s.countPre 48
  | .drain => (copies.foldl (fun s x => s.updBlock x fun b => { b with state := .draining s.now }) s).countPre 0
  | .flush => (copies.foldl State.flush s).countPre 16
  | .save => (copies.foldl State.startSave s).countPre 32

/-- Pre-empt a block that runs; what is chosen for a copy of a paired block takes effect on both (R368). -/
def State.preempt (s : State) (force all : Bool) (bid : Nat) : State :=
  match s.blocks.look bid with
  | none => s
  | some b =>
    match s.launches.look b.launch, s.ctx? b.asid with
    | some l, some c =>
      if b.state ≠ .running then s
      else
        let a := if all then s.chooseAll bid b l.hdr else s.choose force bid b l.hdr c
        let s := if all && a = .drain && l.hdr.mayPre then s.updCtx b.asid fun c => { c with saveFull := true } else s
        ((copiesOf bid b).foldl (fun s x => s.updBlock x fun b => { b with byPre := true }) s).act (copiesOf bid b) a
    | _, _ => s

/-- A write of PRECTL (R348): GO pre-empts every block of the context on the named dies, and reads 1 as long as BUSY does (log
36). While BUSY is 1 it is ignored. -/
def State.writePrectl (s : State) (v : Nat) : State :=
  let kept := field v 61 1 * 2 ^ 61 + field v 52 4 * 2 ^ 52 + v % 2 ^ 9
  if bit s.regs.prectl.toNat 62 then { s with regs := { s.regs with prectl := BitVec.ofNat 64 (2 ^ 63 + 2 ^ 62 + kept) } }
  else
    if !(bit v 63) then { s with regs := { s.regs with prectl := BitVec.ofNat 64 kept } }
    else
      let named := (s.blocks.filter fun b => b.2.asid = v % 2 ^ 9 && bit v (52 + dieOf b.2.core) && b.2.onCore).map Prod.fst
      let s : State := { s with preempting := named
                                regs := { s.regs with prectl := BitVec.ofNat 64 (2 ^ 63 + 2 ^ 62 + kept), prestat := 0 } }
      (named.foldl (fun s x => s.preempt (bit v 61) false x) s).settlePre

/-- PRECTL_GO (R348). -/
def execPrectlGo (value : Nat) (s : State) : Host.Outcome State Fault Refusal := event (fun s => s.writePrectl value) s

/-- Blocks that the dispatcher may pre-empt for a launch: of a lower priority, with MAYPRE = 1, and running (R348). -/
def State.victims (s : State) (prio : Nat) : List (Nat × Nat) :=
  s.blocks.filterMap fun b =>
    match s.launches.look b.2.launch with
    | some l => if l.prio < prio && l.hdr.mayPre && b.2.state = .running then some (l.prio, b.1) else none
    | none => none

/-- DISPATCHER_PREEMPT: a block of a launch cannot be placed, so the youngest block of the lowest priority below it is
pre-empted (R348). -/
def execDispatcherPreempt (launch bid : Nat) (s : State) : Host.Outcome State Fault Refusal :=
  event (fun s =>
    match s.launches.look launch with
    | none => s
    | some l =>
      let all := s.victims l.prio
      let low := all.filter fun x => all.all fun y => x.1 ≤ y.1
      let chosen := (low.map Prod.snd).max?
      if chosen = some bid && s.serves l.asid && s.unplaced launch l then
        s.preempt false false bid
      else s) s

/-- The drain limit of a context in µs (R335). -/
def Context.limit (c : Context) : Nat := if c.drainlim = 0 then 10000 else c.drainlim

/-- The kernel of a block may be pre-empted. -/
def State.mayPre (s : State) (b : Block) : Bool := ((s.launches.look b.launch).map fun l => l.hdr.mayPre).getD false

/-- DRAINLIM_EXPIRY: a drained block that has not retired is saved, or drains on until there is room (R350). -/
def execDrainlimExpiry (bid : Nat) (s : State) : Host.Outcome State Fault Refusal :=
  event (fun s =>
    match s.blocks.look bid with
    | none => s
    | some b =>
      match b.state, s.ctx? b.asid with
      | .draining since, some c =>
        if !(s.mayPre b) || s.now < since + c.limit || (b.alive = 0 && b.waiting = []) then s
        else if s.saveRoom bid b then (s.countPre 32).startSave bid
        else s.updBlock bid fun b => { b with state := .late }
      | _, _ => s) s

/-- DEFERRED_SAVE: the save area has room for a block that drains beyond its limit, or that a fenced core still holds (R350,
R371). -/
def execDeferredSave (bid : Nat) (s : State) : Host.Outcome State Fault Refusal :=
  event (fun s =>
    match s.blocks.look bid with
    | none => s
    | some b =>
      if b.state = .late && (s.mayPre b || (s.core b.core).fenced) && s.saveRoom bid b && !(b.alive = 0 && b.waiting = []) then (s.countPre 32).startSave bid
      else s) s

/-! ### Contexts (R335, R336) -/

/-- A context descriptor breaks an alignment, a range or a RES0 field (R335, R336). -/
def descriptorBad (v : Nat) : Bool :=
  let q (o : Nat) : Nat := field v (8 * o) 64
  q 0x00 % 65536 ≠ 0 || q 0x08 % 512 ≠ 0 || q 0x10 % 16 ≠ 0 || q 0x18 % 64 ≠ 0 || q 0x20 % 64 ≠ 0 || q 0x28 % 64 ≠ 0 ||
  q 0x30 % 4096 ≠ 0 || q 0x38 % 4096 ≠ 0 || q 0x40 % 64 ≠ 0 ||
  ([0x08, 0x10, 0x18, 0x20, 0x30, 0x40].any fun o => 2 ^ 52 ≤ q o) || !(isHbm (q 0x00)) ||
  field v 0x33A 6 ≠ 0 || field v 0x340 8 < 4 || 16 < field v 0x340 8 || field v 0x351 7 ≠ 0 || field v 0x358 1192 ≠ 0

/-- A context as its descriptor gives it. -/
def contextOf (v : Nat) : Context :=
  let q (o : Nat) : Nat := field v (8 * o) 64
  { root := q 0x00, qbase := q 0x08, psbase := q 0x10, trbase := q 0x18, ovbase := q 0x20, ovsize := q 0x28, svbase := q 0x30
    svsize := q 0x38, fqbase := q 0x40, fqlog2n := field v 0x340 8, fqvec := field v 0x348 8, draint := field v 0x2C0 32
    flusht := field v 0x2E0 32, drainlim := field v 0x300 32, crtime := field v 0x320 16, home := field v 0x330 10
    sys := bit v 0x350, frozen := false, preempted := false, leaving := false, saveFull := false, saves := 0, savePages := []
    ovFault := false, fqwidx := q 0x50, queues := [], stalled := [], deadlocked := [], harness := [], reparts := [], graphs := []
    runCounts := [] }

/-- The 256 bytes of a context's descriptor, read without translation (R335). -/
def State.descriptor (s : State) (asid : Nat) : Nat := valueAt s.memory (s.ctxDescriptor asid) 256

/-- Queues in use of a live context (R249). -/
def State.queuesInUse (s : State) (asid : Nat) : List Nat := (span 0 4096).filter fun q => s.qInUse asid q

/-- Queues that the package watches for other contexts (R249). -/
def State.watched (s : State) (asid : Nat) : Nat := ((s.contexts.filter fun c => c.1 ≠ asid).map fun c => c.2.queues.length).sum

/-- Create a context (R301, R335, R336): its status, and the state after it. -/
def State.create (s : State) (asid : Nat) : Nat × State :=
  let v := s.descriptor asid
  if (s.ctx? asid).isSome then (2, s)
  else if descriptorBad v then (1, s)
  else
    let s' : State := { s with contexts := s.contexts.ins asid (contextOf v) }
    let qs := s'.queuesInUse asid
    if 4096 < s.watched asid + qs.length then (6, s)
    else (0, (s'.updCtx asid fun c => { c with queues := qs }).failStale asid)

/-- The fields that a resume reads again. -/
def Context.reread (c : Context) (v : Nat) : Context :=
  let n := contextOf v
  { n with preempted := c.preempted, frozen := c.frozen, saves := c.saves, savePages := c.savePages, fqwidx := c.fqwidx
           queues := c.queues, harness := c.harness, reparts := c.reparts, graphs := c.graphs, runCounts := c.runCounts }

/-- Parks that were held for want of room are completed, in hold order (R134). -/
def State.completeHeld (s : State) (asid : Nat) : State :=
  let held := s.threads.filterMap fun p =>
    match p.2.hold with
    | .overflow c q => if s.asidOf p.1 = asid then some (c, p.1, q) else none
    | _ => none
  let order := (held.foldl (fun (m : Map (Nat × Option ParkReq)) h => m.ins (h.1 * 2 ^ 20 + h.2.1) h.2) []).map Prod.snd
  order.foldl (fun s h =>
    match h.2 with
    | some q => ((s.updThread h.1 fun t => { t with hold := .none }).parkThread h.1 q).settleCycle q.cycle
    | none => s.updThread h.1 fun t => { t with hold := .none }) s

/-- Resume a context (R134, R301, R336). A context that is not pre-empted is left as it is, but for parks held for want of
room in its overflow area, whose new size is read. -/
def State.resumeCtx (s : State) (asid : Nat) : Nat × State :=
  let v := s.descriptor asid
  match s.ctx? asid with
  | none => (3, s)
  | some c =>
    if !c.preempted then
      if c.ovFault && !(descriptorBad v) then
        let n := contextOf v
        (0, (s.updCtx asid fun c => { c with ovbase := n.ovbase, ovsize := n.ovsize, ovFault := false }).completeHeld asid)
      else (0, s)
    else if descriptorBad v then (1, s)
    else
      let s' := s.updCtx asid fun c => c.reread v
      let qs := s'.queuesInUse asid
      if 4096 < s.watched asid + qs.length then (6, s)
      else (0, ((s'.updCtx asid fun c => { c with queues := qs, preempted := false }).failStale asid).completeHeld asid)

/-- Stash lines of a killed context: the dirty ones of persist domains are written back, at once or when nothing delays them, the
others discarded (R163). -/
def State.killStash (s : State) (asid : Nat) : State :=
  (s.stashBound.filter fun p => p.2.2.1 = asid).foldl (fun s p =>
    match s.stashLine p.1 p.2.1 p.2.2.1 p.2.2.2 with
    | some l =>
      if (s.line l.no).dirty && l.leaf.pdom ≠ 0 then
        let bs := bytesAt s.larder (l.no * 128) 128
        match s.tryWriteBack l with
        | some s => s.dropLine l.no
        | none => (s.dropLine l.no).hubStore l.asid l.va l.pa l.leaf bs
      else s.dropLine l.no
    | none => s.dropLine p.1) s

/-- What a peer's answer is for still matters when a context is killed: an access that has issued, a write-back. -/
def PeerUse.outlives : PeerUse → Bool
  | .piece .. => true
  | .writeBack _ => true
  | _ => false

/-- Kill a context (R144, R163, R194, R205, R277, R336): partial sums are merged, and everything of it is discarded. -/
def State.kill (s : State) (asid : Nat) : Nat × State :=
  match s.ctx? asid with
  | none => (3, s)
  | some _ =>
    let mine := s.blocks.filter fun b => b.2.asid = asid
    let bids := mine.map Prod.fst
    let lids := (s.launches.filter fun l => l.2.asid = asid).map Prod.fst
    let s : State := { s with captures := s.captures.filter fun c => c.asid ≠ asid }
    let s := ((lids.foldl State.mergeLaunch s).killStash asid).discard fun x => bids.contains x
    let s := (s.walks.filter fun w => w.x.asid = asid).foldl State.dropWalk s
    let s := s.dropCopies fun c => c.asid = asid
    let keepT (l : List Transl) : List Transl := l.filter fun t => t.asid ≠ asid
    let s : State :=
      { s with
          blocks := s.blocks.filter fun b => b.2.asid ≠ asid
          saved := s.saved.filter fun x => !(bids.contains x.1)
          launches := s.launches.filter fun l => l.2.asid ≠ asid
          packets := s.packets.filter fun p => p.asid ≠ asid
          successors := s.successors.filter fun x => x.asid ≠ asid
          placed := s.placed.filter fun x => x.asid ≠ asid
          remoteClaims := s.remoteClaims.filter fun x => x.asid ≠ asid
          lrenews := s.lrenews.filter fun x => !(bids.contains x.bid)
          sflushes := s.sflushes.filter fun x => !(bids.contains x.bid)
          code := s.code.filter fun x => !(lids.contains x.launch)
          queuesMat := (s.queuesMat.map fun q => (q.1, q.2.filter fun o => o.asid ≠ asid)).filter fun q => q.2 ≠ []
          swaps := s.swaps.filter fun w => w.asid ≠ asid || w.entry.isSome
          digests := s.digests.filter fun d => d.asid ≠ asid
          runs := s.runs.filter fun r => r.asid ≠ asid
          notices := s.notices.filter fun n => n.asid ≠ asid
          collLoads := s.collLoads.filter fun c => c.asid ≠ asid
          repartIssues := s.repartIssues.filter fun r => r.asid ≠ asid
          dumps := s.dumps.filter fun d => d.asid ≠ asid
          peers := s.peers.filter fun p => p.asid ≠ asid || p.use.outlives
          pfences := s.pfences.filter fun p => !(bids.contains p.who.bid)
          signals := s.signals.filter fun x => x.asid ≠ asid
          harnessWaits := s.harnessWaits.filter fun w => w.asid ≠ asid
          heldReports := s.heldReports.filter fun h => h.asid ≠ asid
          tickets := s.tickets.filter fun t => t.asid ≠ asid
          walkCaches := s.walkCaches.map fun p => (p.1, keepT p.2)
          freezeOrder := s.freezeOrder.filter fun f => f.2 ≠ asid
          cores := s.cores.map fun p =>
            (p.1, { p.2 with tlb := keepT p.2.tlb, claims := p.2.claims.filter fun q => !(bids.contains q.2)
                             freeing := p.2.freeing.filter fun q => !((p.2.claims.look q).any bids.contains)
                             counters := p.2.counters.filter fun k => !(lids.contains k.launch) })
          contexts := s.contexts.del asid }
    (0, s.settlePre)

/-- Freeze a context: every thread of it parks with kind 0xB (R79, R144, R336). -/
def State.freeze (s : State) (asid : Nat) : Nat × State :=
  match s.ctx? asid with
  | none => (3, s)
  | some _ => (0, (s.updCtx asid fun c => { c with frozen := true }).askAll (eventKey 0xB 1) fun x => s.asidOfBlock x = some asid)

/-- Thaw a context: records of the freeze become ready, and threads that have not parked for it go on (R144, R336). -/
def State.thaw (s : State) (asid : Nat) : Nat × State :=
  match s.ctx? asid with
  | none => (3, s)
  | some c =>
    if !c.frozen then (0, s)
    else
      let s := s.updCtx asid fun c => { c with frozen := false }
      let mine (x : Nat) : Bool := s.asidOfBlock x = some asid
      let s : State := { s with
        freezeOrder := s.freezeOrder.filter fun f => f.2 ≠ asid
        threads := s.threads.map fun p =>
          match p.2.park with
          | some a =>
            if mine p.2.bid && a.event = eventKey 0xB 1 then (p.1, { p.2 with park := none }) else p
          | none => p }
      (0, s.wake fun key x => key = eventKey 0xB 1 && mine x)

/-- Pre-empt every block of a context (R336). -/
def State.preemptAll (s : State) (asid : Nat) : Nat × State :=
  match s.ctx? asid with
  | none => (3, s)
  | some _ =>
    let s := s.updCtx asid fun c => { c with leaving := true, saveFull := false }
    let mine := (s.blocks.filter fun b => b.2.asid = asid && b.2.onCore).map Prod.fst
    (0, mine.foldl (fun s x => s.preempt false true x) s)

/-- A write of CTXCTL (R336): GO starts ACTION, and all but ACTION 2 end at once. GO is ignored while BUSY is 1, and before
contexts run (R380). -/
def State.writeCtxctl (s : State) (v : Nat) : State :=
  let asid := v % 2 ^ 9
  let done (r : Nat × State) : State := { r.2 with regs := { r.2.regs with ctxctl := ctxctlWith v r.1 false } }
  if bit s.regs.ctxctl.toNat 62 then
    { s with regs := { s.regs with ctxctl := ctxctlWith v (field s.regs.ctxctl.toNat 59 3) true } }
  else if !(bit v 63) || !(s.stageRuns 0) then { s with regs := { s.regs with ctxctl := ctxctlWith v (field s.regs.ctxctl.toNat 59 3) false } }
  else
    match field v 56 3 with
    | 1 => done (s.create asid)
    | 2 =>
      let r := s.preemptAll asid
      if r.1 ≠ 0 then done r
      else ({ r.2 with regs := { r.2.regs with ctxctl := ctxctlWith v 0 true } } : State).settlePre
    | 3 => done (s.resumeCtx asid)
    | 4 => done (s.kill asid)
    | 5 => done (s.freeze asid)
    | 6 => done (s.thaw asid)
    | _ => done (5, s)

/-- A write of CTXCTL whose ACTION is the given one. -/
def ctxStep (action value : Nat) (s : State) : Host.Outcome State Fault Refusal :=
  event (fun s => if field value 56 3 = action then s.writeCtxctl value else s) s

/-- CTX_CREATE (R336). -/
def execCtxCreate (value : Nat) (s : State) : Host.Outcome State Fault Refusal := ctxStep 1 value s
/-- CTX_PREEMPT_ALL (R336). -/
def execCtxPreemptAll (value : Nat) (s : State) : Host.Outcome State Fault Refusal := ctxStep 2 value s
/-- CTX_RESUME (R336). -/
def execCtxResume (value : Nat) (s : State) : Host.Outcome State Fault Refusal := ctxStep 3 value s
/-- CTX_KILL (R336). -/
def execCtxKill (value : Nat) (s : State) : Host.Outcome State Fault Refusal := ctxStep 4 value s
/-- CTX_FREEZE (R336). -/
def execCtxFreeze (value : Nat) (s : State) : Host.Outcome State Fault Refusal := ctxStep 5 value s
/-- CTX_THAW (R336). -/
def execCtxThaw (value : Nat) (s : State) : Host.Outcome State Fault Refusal := ctxStep 6 value s

/-- CTX_RESERVED_ACTION: ACTION 0 or 7 ends with STATUS 5 (R336). -/
def execCtxReservedAction (value : Nat) (s : State) : Host.Outcome State Fault Refusal :=
  event (fun s => if field value 56 3 = 0 || field value 56 3 = 7 then s.writeCtxctl value else s) s

/-! ### Full queues (R356) -/

/-- Threads parked on a queue of this package. -/
def State.parkedOn (s : State) (asid q : Nat) : Nat :=
  (s.records.filter fun r => r.2.asid = asid && waitsQueue s.pkg q r.2.event r.2.log && !r.2.satisfied).length

/-- A successor enqueue into a queue of this package is held (R345). -/
def State.heldOn (s : State) (asid q : Nat) : Bool :=
  s.successors.any fun x => x.asid = asid && x.claim.isSome && x.data.any fun p => field p 395 12 = q && field p 385 10 = s.pkg

/-- The cores that could place a packet's blocks: those that a mask names, those of the dies that start a grid's shares, any for a task
record (R340, R341, R343). -/
def State.coresFor (s : State) (p : Nat) : List Nat :=
  if pkMask p then pkCores p
  else if packetType p = 2 then span 0 192
  else ((span 0 4).filterMap fun d => if pkPv p d < pkPv p (d + 1) then s.dieOfShare p d else none).eraseDups.flatMap fun d =>
    span (48 * d) 48

/-- Every block of a context on some cores has all its threads parked on queues. -/
def State.allParked (s : State) (asid : Nat) (cores : List Nat) : Bool :=
  s.blocks.all fun b => b.2.asid ≠ asid || !(cores.contains b.2.core) || !b.2.onCore ||
    (b.2.waiting = [] && (s.threads.all fun t => t.2.bid ≠ b.1) &&
     s.records.all fun r => r.2.bid ≠ b.1 || (r.2.event / 2 ^ 60 = 0x6 && !r.2.satisfied))

/-- The conditions of R356 hold for a queue now: ring and spill region are full, a producer waits for it, and its packet cannot be placed,
every block on the cores that could place it being parked on queues. -/
def State.stuckQueue (s : State) (asid q : Nat) : Bool :=
  (s.parkedOn asid q ≠ 0 || s.heldOn asid q) &&
  match s.qdesc asid q, s.headPacket asid q with
  | some d, some (_, p) => (s.slotFor asid d d.widx).isNone && !(s.couldStart asid p) && s.allParked asid (s.coresFor p)
  | _, _ => false

/-- What a context knows of its queues after a step: since when the conditions of R356 have held for each, without a break, and which
of those have been reported. -/
def State.noteStalls (s : State) : State :=
  { s with contexts := s.contexts.map fun c =>
      let stuck := c.2.queues.filter (s.stuckQueue c.1)
      (c.1, { c.2 with stalled := stuck.map fun q => (q, c.2.stalled.lookD q s.ns)
                       deadlocked := c.2.deadlocked.filter stuck.contains }) }

/-- QUEUE_DEADLOCK_DETECT: the conditions of R356 have held for 100 µs; it is reported once until they end. -/
def execQueueDeadlockDetect (asid queue : Nat) (s : State) : Host.Outcome State Fault Refusal :=
  event (fun s =>
    match s.qdesc asid queue, s.ctx? asid with
    | some d, some c =>
      let long := (c.stalled.look queue).any fun since => since + 100000 ≤ s.ns
      if long && s.stuckQueue asid queue && !(c.deadlocked.contains queue) && s.canReport asid then
        (s.updCtx asid fun c => { c with deadlocked := c.deadlocked ++ [queue] }).report asid 0x29 0
          (recordOf [(0, 8, d.widx), (8, 8, d.ridx), (16, 2, queue), (20, 4, s.parkedOn asid queue)])
      else s
    | _, _ => s) s

/-! ### Paired blocks (R368, R369) -/

/-- The thread of a block with a linear index. -/
def State.threadIn (s : State) (bid lin : Nat) : Option (Nat × Thread) :=
  s.threads.find? fun p => p.2.bid = bid && p.2.lin = lin

/-- The signatures restart from zero. -/
def State.clearPair (s : State) (bid : Nat) : State :=
  s.updBlock bid fun b => { b with pairing := b.pairing.map fun p => { p with signature := 0, held := [] } }

/-- A targeted self-test of a core's array and of the lanes of its four units, whose result goes to no register (R369, R374). -/
def State.testCore (s : State) (core : Nat) : State :=
  let add (s : State) (x sel : Nat) : State := { s.fresh.2 with tests := s.tests ++ [⟨s.serial, x, sel, 0⟩] }
  (span (4 * core) 4).foldl (fun s u => (add s 0 u).emptyUnit u) (add s 4 core)

/-- A mismatch of a pair (R369): both copies are discarded, and the block starts again; the third mismatch fails it, and both cores are
tested. -/
def State.mismatch (s0 : State) (first second : Nat) (b : Block) (p : Pairing) : State :=
  let s := s0.logArray 7 3 (b.core * 2 ^ 50 + b.handle)
  let n := p.mismatches + 1
  let s := s.updBlock first fun b => { b with pairing := some { p with mismatches := n, signature := 0, held := [] } }
  let s := (s.flush second).flush first
  if n < 3 then s
  else
    let s : State := { s with blocks := s.blocks.del first }
    let other := ((s0.blocks.look second).map Block.core).getD b.core
    ((s.updLaunch b.launch fun l => { l with ended := l.ended + 1, failed := l.failed + 1 }).testCore b.core).testCore other

/-- The instruction at a thread's pc is an atom, which one copy performs for both (R368). -/
def State.atAtom (s : State) (k : Nat) (t : Thread) : Bool :=
  match s.instrAt k t with
  | some (.atom ..) => true
  | _ => false

/-- PAIRED_CHECK_POINT: the same thread of both copies is at a check point (R368): signatures that match let the writes and
reductions that the first copy held be performed, on the pages they were translated to, and both threads go on, the second one's atom once the first has performed it. -/
def execPairedCheckPoint (bid lin : Nat) (s : State) : Host.Outcome State Fault Refusal :=
  event (fun s =>
    match s.blocks.look bid with
    | none => s
    | some b0 =>
      match b0.pairing with
      | none => s
      | some p0 =>
        let first := if p0.first then bid else p0.other
        let second := if p0.first then p0.other else bid
        match s.blocks.look first, s.blocks.look second with
        | some b, some b2 =>
          match b.pairing, b2.pairing, s.threadIn first lin, s.threadIn second lin with
          | some p, some p2, some (k, t), some (k2, t2) =>
            if t.hold ≠ .checkPoint || t2.hold ≠ .checkPoint then s
            else if p.signature ≠ p2.signature || t.pc ≠ t2.pc then s.mismatch first second b p
            else
              let s := p.held.foldl State.accept ((s.clearPair first).clearPair second)
              let go (t : Thread) : Thread := { t with hold := .none, passed := true }
              if s.atAtom k t then s.updThread k go else (s.updThread k go).updThread k2 go
          | _, _, _, _ => s
        | _, _ => s) s

end Sys2Proof.Machine
end

