-- ==== Sys2Proof/Machine/Collect.lean ====
section
/-! DEFINITION. The collective engine: chunk graphs and their checks (R315 to R318), runs (R319 to R321), notices and clears
to send (R320), switch reductions and windowed sums (R322 to R324), and coll (R327, R328). -/

namespace Sys2Proof.Machine

/-! ### Nodes (R316 to R318) -/

/-- The successors of a node; a node named twice counts once. -/
def nodeSucc (n : Nat) : List Nat := (((span 0 4).map fun i => field n (208 + 12 * i) 12).filter fun x => x ≠ 0xFFF).eraseDups
/-- DEP. -/
def nodeDep (n : Nat) : Nat := field n 200 8
/-- OP: 0 NOP, 1 COPY, 2 SEND, 3 RECV, 4 SRED, 5 LRED. -/
def nodeOp (n : Nat) : Nat := field n 196 4
/-- DT. -/
def nodeDt (n : Nat) : Ty := (Ty.ofCode (field n 188 5)).getD .dflt
/-- PEER: the destination package of a SEND, NIN of a RECV. -/
def nodePeer (n : Nat) : Nat := field n 178 10
/-- ARG. -/
def nodeArg (n : Nat) : Nat := field n 162 16
/-- LEN. -/
def nodeLen (n : Nat) : Nat := field n 96 32
/-- BSRC. -/
def nodeBsrc (n : Nat) : Nat := field n 159 3
/-- BDST. -/
def nodeBdst (n : Nat) : Nat := field n 156 3
/-- SOFF. -/
def nodeSoff (n : Nat) : Nat := field n 48 48
/-- DOFF. -/
def nodeDoff (n : Nat) : Nat := field n 0 48

/-- The operation of a ROP code; none for 0 and 7. -/
def ropOf : Nat → Option RedOp
  | 1 => some .add
  | 2 => some .min
  | 3 => some .max
  | 4 => some .and
  | 5 => some .or
  | 6 => some .xor
  | _ => none

/-- ROP. -/
def nodeRop (n : Nat) : Option RedOp := ropOf (field n 193 3)

/-- The types of DT (R316). -/
def nodeTypes : List Ty := [.s32, .n32, .s64, .n64, .b32, .b64, .f32, .f64, .w64]

/-- A type of integers. -/
def isIntTy (t : Ty) : Bool := t = .s32 || t = .n32 || t = .s64 || t = .n64

/-- A ROP with DT that a RECV or an LRED may have (R317). -/
def recvPair (rop : Option RedOp) (t : Ty) (nin1 : Bool) : Bool :=
  match rop with
  | none => nin1
  | some .add => isIntTy t || t = .w64
  | some .min => isIntTy t || t = .f32 || t = .f64
  | some .max => isIntTy t || t = .f32 || t = .f64
  | some _ => t = .b32 || t = .b64

/-- The fields and the ROP with DT that an operation may have (R317). -/
def nodeFieldsBad (n : Nat) : Bool :=
  match nodeOp n with
  | 0 => n % 2 ^ 200 ≠ 0
  | 1 => nodePeer n ≠ 0 || nodeArg n ≠ 0 || (nodeRop n).isSome
  | 2 => nodeBdst n ≠ 0 || nodeDoff n ≠ 0 || (nodeRop n).isSome
  | 3 => nodeBsrc n ≠ 0 || nodeSoff n ≠ 0 || nodeArg n ≠ 0 || nodePeer n = 0 ||
      !(recvPair (nodeRop n) (nodeDt n) (nodePeer n = 1))
  | 4 => nodePeer n ≠ 0 ||
      !(recvPair (nodeRop n) (nodeDt n) false || (nodeRop n = some .add && (nodeDt n = .f32 || nodeDt n = .f64)))
  | _ => nodePeer n ≠ 0 || nodeArg n ≠ 0 || !(recvPair (nodeRop n) (nodeDt n) false)

/-- A node breaks the rules that need no other node, among N nodes (R318). A LEN of 0 is for NOP only (R316). -/
def nodeBad (total n : Nat) : Bool :=
  field n 128 28 ≠ 0 || 5 < nodeOp n || field n 193 3 = 7 || nodeFieldsBad n ||
  (nodeOp n ≠ 0 && (!(nodeTypes.contains (nodeDt n)) || nodeLen n = 0 || nodeLen n % tyBytes (nodeDt n) ≠ 0)) ||
  (nodeSucc n).any fun x => total ≤ x

/-- Nodes of a graph that name node i as a successor. -/
def predecessors (l : List Nat) (i : Nat) : Nat := (l.filter fun n => (nodeSucc n).contains i).length

/-- Nodes that lie on a cycle or behind one: what is left once nodes without predecessors are taken away, `fuel` times. -/
def cyclic (l : List Nat) : Nat → List Nat → List Nat
  | 0, left => left
  | fuel + 1, left =>
    let free := left.filter fun i => !(left.any fun j => (nodeSucc ((l[j]?).getD 0)).contains i)
    if free = [] then left else cyclic l fuel (left.filter fun i => !(free.contains i))

/-- A node can be reached from itself. -/
def onCycle (l : List Nat) (i : Nat) : Bool :=
  let left := cyclic l l.length (span 0 l.length)
  let step (s : List Nat) : List Nat := (s ++ s.flatMap fun j => nodeSucc ((l[j]?).getD 0)).eraseDups
  left.contains i && ((span 0 left.length).foldl (fun s _ => step s) (nodeSucc ((l[i]?).getD 0))).contains i

/-- The first malformed node of a graph image (R318): one that breaks a rule of its own, or lies on a cycle. -/
def firstBad (l : List Nat) : Option Nat :=
  ((span 0 l.length).zip l).findSome? fun p =>
    if nodeBad l.length p.2 || nodeDep p.2 ≠ predecessors l p.1 || onCycle l p.1 then some p.1 else none

/-! ### Combining elements (R317) -/

/-- `old ROP new` of one element: min and max of f32 and f64 are those of fmin and fmax (R109). -/
def collCombine (op : RedOp) (ty : Ty) (old new : Nat) : Nat × Events :=
  match op with
  | .min => if ty.isFloat then (fmtOf ty).pickP false false old new else redCombine .min ty old new
  | .max => if ty.isFloat then (fmtOf ty).pickP false true old new else redCombine .max ty old new
  | o => redCombine o ty old new

/-- Cut bytes into elements of n bytes, as values. -/
def elems (n : Nat) (bs : List Byte) : List Nat := (span 0 (bs.length / n)).map fun i => ofBytes ((bs.drop (n * i)).take n)

/-- The exponent word of an element (R324). -/
def expWord (f : Fmt) (v : Nat) : Nat :=
  match f.value v with
  | .nan => 2 ^ 18 + 0x8000
  | .inf neg => (if neg then 2 ^ 17 else 2 ^ 16) + 0x8000
  | .fin _ m e => if m = 0 then 0x8000 else wrap ((log2 m : Int) + e) 16

/-- M of an element, given the word of pass 1, with its events (R324). -/
def windowM (f : Fmt) (word v : Nat) : Nat × Events :=
  if field word 16 3 ≠ 0 || word % 2 ^ 16 = 0x8000 then (0, .none)
  else
    let r := toW64 (f.value v) (toInt (word % 2 ^ 16) 16)
    (wrap r.1 64, r.2)

/-- The element written by a windowed sum, with its events (R324). -/
def windowSum (f : Fmt) (word sum : Nat) : Nat × Events :=
  let e := toInt (word % 2 ^ 16) 16
  if bit word 18 || (bit word 16 && bit word 17) then (f.canon, .oneNan)
  else if bit word 16 then (f.infinity false, .none)
  else if bit word 17 then (f.infinity true, .none)
  else if word % 2 ^ 16 = 0x8000 then (0, .none)
  else f.round {} ((Num.ofInt (toInt sum 64)).scale (e - 40))

/-- An SRED node is a windowed floating-point sum (R324). -/
def isWindowed (n : Nat) : Bool := nodeRop n = some .add && (nodeDt n).isFloat

/-! ### Runs (R319, R321) -/

/-- The base-table entry i of a run. -/
def Run.base (r : Run) (i : Nat) : Nat := (r.table[i]?).getD 0
/-- The source of a node. -/
def Run.src (r : Run) (n : Nat) : Nat := r.base (nodeBsrc n) + nodeSoff n
/-- The destination of a node. -/
def Run.dst (r : Run) (n : Nat) : Nat := r.base (nodeBdst n) + nodeDoff n

/-- The collective-fault record (R321). -/
def Run.record (r : Run) (node reason pkg ofs : Nat) : Nat :=
  ofs * 2 ^ 192 + r.number * 2 ^ 172 + node * 2 ^ 160 + r.graph * 2 ^ 156 + reason * 2 ^ 148 + pkg * 2 ^ 138

/-- The pending runs of one identifier, in issue order. -/
def State.runsOf (s : State) (asid g : Nat) : List Run := s.runs.filter fun r => r.asid = asid && r.graph = g

namespace State

/-- The run of a serial number. -/
def run? (s : State) (serial : Nat) : Option Run := s.runs.find? fun r => r.serial = serial

/-- Change a run. -/
def updRun (s : State) (serial : Nat) (f : Run → Run) : State :=
  { s with runs := s.runs.map fun r => if r.serial = serial then f r else r }

/-- The graph of an identifier. -/
def graph? (s : State) (asid g : Nat) : Option Graph := (s.ctx? asid).bind fun c => c.graphs.look g

/-- Node i of a run's graph. -/
def nodeOf (s : State) (r : Run) (i : Nat) : Nat := ((s.graph? r.asid r.graph).bind fun g => g.nodes[i]?).getD 0

/-- An engine of the hub die arrives with 1 at a thread-counting object of the block it works for (R183, R321, R333): held
for a block that is not resident (R197), reported with reason 0x03 where the object cannot take it. -/
def threadArrive (s : State) (asid bid obj req : Nat) : State :=
  match s.blocks.look bid with
  | none => s
  | some b =>
    if b.state = .flushed then s
    else if s.notResident b then { s with signals := holdSignal s.signals asid bid obj false 1 }
    else
      match s.objArrive bid obj 1 0 with
      | some s' => s'
      | none => s.report asid 0x24 0x03 (engineRecord 0 req b.handle 192 0x03)

/-- Notices of runs of an identifier that have ended are answered with the end of the run (R320). -/
def answerEnded (s : State) (asid g : Nat) : State :=
  let count := ((s.ctx? asid).map fun c => c.runCounts.lookD g 0).getD 0
  let ended (n : Notice) : Bool :=
    n.asid = asid && n.graph = g && !((s.runsOf asid g).any fun r => r.number = n.run) &&
    (let d := (count + 2 ^ 20 - n.run) % 2 ^ 20; 1 ≤ d && d ≤ 2 ^ 19)
  let gone := s.notices.filter ended
  gone.foldl (fun s n => s.send (.endOfRun asid g n.node n.pkg n.run))
    { s with notices := s.notices.filter fun n => !(ended n) }

/-- A graph is freed, and the coll.drop that freed it gets its result (R328). -/
def freeGraph (s : State) (asid g wid : Nat) : State :=
  (s.updCtx asid fun c => { c with graphs := c.graphs.del g }).setIncoming wid 1

/-- A run leaves: its object is arrived at, D is written, and the next run of its identifier has its turn; a dropped graph
goes with its last run (R319, R321, R328). -/
def closeRun (s : State) (r : Run) (v : Nat) : State :=
  let s : State := { s with
    runs := s.runs.filter fun x => x.serial ≠ r.serial
    tickets := s.tickets.filter fun t => !(r.tickets.any fun p => p.2 = t.number)
    peers := s.peers.filter fun p => match p.use with
      | .read n _ => n ≠ r.serial
      | _ => true }
  let s := match r.cpl with
    | some obj => s.threadArrive r.asid r.bid obj obj
    | none => s
  let s := (s.setIncoming r.wid v).answerEnded r.asid r.graph
  match s.runsOf r.asid r.graph with
  | next :: _ => s.updRun next.serial fun x => { x with active := true }
  | [] =>
    match (s.graph? r.asid r.graph).bind Graph.dropped with
    | some wid => s.freeGraph r.asid r.graph wid
    | none => s

/-- Peers have still to answer writes of a run (R314, R321). -/
def runWrites (s : State) (serial : Nat) : Bool :=
  s.peers.any fun p => match p.use with
    | .written n _ => n = serial
    | _ => false

/-- A run ends with a reason (R321): the fault is reported, D receives 0x100 + reason. The end follows every write of the run; with
nowhere to put the report the engine stalls with it (R361). -/
def failRun (s : State) (serial node reason pkg ofs : Nat) : State :=
  match s.run? serial with
  | none => s
  | some r =>
    if r.ending.isSome then s
    else if s.canReport r.asid && !(s.runWrites serial) then
      (s.report r.asid 0x28 reason (r.record node reason pkg ofs)).closeRun r (0x100 + reason)
    else s.updRun serial fun r => { r with ending := some (r.record node reason pkg ofs) }

/-- A run whose end had to wait ends now. -/
def endStalled (s : State) (r : Run) (record : Nat) : State :=
  let reason := field record 148 8
  if s.canReport r.asid && !(s.runWrites r.serial) then (s.report r.asid 0x28 reason record).closeRun r (0x100 + reason) else s

/-! ### Starting nodes -/

/-- A byte of a node's ranges lies at or beyond 2^52 (R316). -/
def nodeBeyond (r : Run) (n : Nat) : Bool :=
  let op := nodeOp n
  (op ≠ 0 && op ≠ 3 && 2 ^ 52 < r.src n + nodeLen n) || (op ≠ 0 && op ≠ 2 && 2 ^ 52 < r.dst n + nodeLen n)

/-- A notice disagrees with the node it is aimed at (R320). A SEND has no ROP (R317), so one that says none suits every
RECV (log 33). -/
def noticeBad (n node : Nat) (x : Notice) : Bool :=
  nodeOp node ≠ 3 || x.len ≠ nodeLen node || x.dt ≠ nodeDt node || (x.rop ≠ 0 && x.rop ≠ field node 193 3) || n ≤ x.node

/-- The notices held for an armed RECV, or for a node that is none, are answered (R320). -/
def answerNotices (s : State) (serial : Nat) : State :=
  match s.run? serial with
  | none => s
  | some r =>
    let total := ((s.graph? r.asid r.graph).map fun g => g.nodes.length).getD 0
    let mine := s.notices.filter fun x => x.asid = r.asid && x.graph = r.graph && x.run = r.number
    if !r.active then s
    else
      mine.foldl (fun s x =>
        match s.run? serial with
        | none => s
        | some r =>
          let node := s.nodeOf r x.node
          let armed := (r.phase.look x.node).isSome && !(r.doneNodes.contains x.node)
          if r.ending.isSome then s
          else if total ≤ x.node || nodeOp node ≠ 3 || (armed && noticeBad total node x) then
            ({ s with notices := s.notices.erase x }.send (.endOfRun r.asid r.graph x.node x.pkg x.run)).failRun serial
              x.node 0x03 x.pkg 0
          else if armed then
            ({ s with notices := s.notices.erase x }.updRun serial fun r =>
              { r with senders := r.senders ++ [(x.node, x.pkg)] }).send (.clearToSend r.asid r.graph x.node x.pkg x.run)
          else s) s

/-- The failed package that a node names: that of a SEND, or a member of the group of an SRED (R321). -/
def nodeFailed (s : State) (n : Nat) : Option Nat :=
  match nodeOp n with
  | 2 => if s.peerUp (nodePeer n) then none else some (nodePeer n)
  | 4 => s.failed.find? fun p => Config.inGroup (nodeArg n) p
  | _ => none

/-- A node whose counter is zero starts (R316, R319, R320): a SEND sends its notice, a RECV is armed. -/
def startNode (s : State) (serial i : Nat) : State :=
  match s.run? serial with
  | none => s
  | some r =>
    let n := s.nodeOf r i
    if r.ending.isSome || (r.phase.look i).isSome then s
    else if nodeBeyond r n then s.failRun serial i 0x05 s.pkg 0
    else if (s.nodeFailed n).isSome then s.failRun serial i 0x02 ((s.nodeFailed n).getD 0) 0
    else
      let s := s.updRun serial fun r =>
        { r with phase := r.phase.ins i 0, recvLeft := if nodeOp n = 3 then r.recvLeft.ins i (nodePeer n) else r.recvLeft }
      if nodeOp n = 2 then
        s.send (.notice r.asid r.graph (nodeArg n % 2 ^ 12) (nodePeer n) r.number (nodeLen n) (nodeDt n) (field n 193 3))
      else s

/-- Every node of a run that is ready and has not started starts; held notices of armed nodes are answered. -/
def startReady (s : State) (serial : Nat) : State :=
  match s.run? serial with
  | none => s
  | some r =>
    if !r.active then s
    else
      (((span 0 r.counters.length).filter fun i => (r.counters[i]?).getD 1 = 0 && (r.phase.look i).isNone).foldl
        (fun s i => s.startNode serial i) s).answerNotices serial

/-- Runs whose turn has come start (R319). -/
def startRuns (s : State) : State :=
  (s.runs.filter fun r => r.active && r.phase.isEmpty && r.ending.isNone).foldl (fun s r => s.startReady r.serial) s

/-- A node completes: its successors' counters are decremented, and the run completes with its last node (R319). -/
def nodeDone (s : State) (serial i : Nat) : State :=
  match s.run? serial with
  | none => s
  | some r =>
    let succ := nodeSucc (s.nodeOf r i)
    let dec (l : List Nat) : List Nat := succ.foldl (fun l j => adjustAt l j fun c => c - 1) l
    let s := s.updRun serial fun r =>
      { r with doneNodes := r.doneNodes ++ [i], counters := dec r.counters, progress := r.progress.del i
               contrib := r.contrib.del i, passOne := r.passOne.del i }
    if r.counters.length ≤ r.doneNodes.length + 1 then (s.closeRun r 0).startRuns else s.startReady serial

/-! ### The bytes a node moves -/

/-- The engine reads bytes: chunks under capture are captured in passing (R299). -/
def collRead (s : State) (r : Run) (va n : Nat) : Except EStop (List Byte × State) :=
  let ps := wordPieces (n / 32 + 2) va n
  let s := if s.captures.isEmpty then s else ps.foldl (fun s p =>
    match s.engineWalk 192 r.asid p.1 .engineRead with
    | .leaf l => if l.tier ≤ 1 then s.capturePassing (l.pa p.1 (halfOf r.halves l)) else s
    | .fault .. => s) s
  s.engineRead 192 r.asid r.halves r.got ps

/-- The engine writes bytes for a request of an address space and a block, piece by piece: performed now, or answered by the peer
that has them, as `acked` says (R314, R319). A publishable page takes no such write (R253, log 33). -/
def collWrite (s : State) (asid bid serial : Nat) (acked : List Nat) (bs : List Byte) :
    List (Nat × Nat × Nat) → Nat → Except EStop State
  | [], _ => .ok s
  | (va, _, n) :: rest, ofs =>
    match s.engineWalk 192 asid va .engineWrite with
    | .fault c l e b z => .error (.trans va c l e b z)
    | .leaf l =>
      if l.pub then .error (.reason 0x04)
      else
        let pa := l.pa va 0
        let part := (bs.drop ofs).take n
        if 2 ≤ s.spaceOf l then
          if acked.contains va then s.collWrite asid bid serial acked bs rest (ofs + n) else .error (.put l pa va part)
        else
          match s.tryStore .hub 0 (hubDie pa) asid bid pa l part (.written serial va) with
          | some s => s.collWrite asid bid serial acked bs rest (ofs + n)
          | none => .error (.held pa)

/-- Write or combine one element at an offset of a node's destination (R317). -/
def putElem (s : State) (r : Run) (n ofs : Nat) (combine : Bool) (bs : List Byte) : Except EStop State :=
  let va := r.dst n + ofs
  let ps := wordPieces (bs.length / 32 + 2) va bs.length
  match if combine then nodeRop n else none with
  | none => s.collWrite r.asid r.bid r.serial r.acked bs ps 0
  | some op =>
    match s.collRead r va bs.length with
    | .error x => .error x
    | .ok (old, s) =>
      let v := collCombine op (nodeDt n) (ofBytes old) (ofBytes bs)
      match s.collWrite r.asid r.bid r.serial r.acked (toBytes bs.length v.1) ps 0 with
      | .error x => .error x
      | .ok s => .ok (s.countFor r.core r.launch r.tid v.2)

/-- What peers have returned and answered for bytes that an engine is done with is kept no longer: the next access of them asks
again. -/
def forget (s : State) (serial va n : Nat) : State :=
  let keep (a : Nat) : Bool := !(va ≤ a && a < va + n)
  s.updRun serial fun r => { r with got := r.got.filter fun c => keep c.1, acked := r.acked.filter keep }

/-- Move up to `fuel` elements of a node from an offset: the offset reached, and what stopped the engine. -/
def moveNode (serial n : Nat) (data : Option (List Byte)) : Nat → Nat → State → Nat × Option EStop × State
  | 0, ofs, s => (ofs, none, s)
  | fuel + 1, ofs, s =>
    match s.run? serial with
    | none => (ofs, none, s)
    | some r =>
      let u := tyBytes (nodeDt n)
      if nodeLen n ≤ ofs then (ofs, none, s)
      else
        let input : Except EStop (List Byte × State) := match data with
          | some d => .ok ((d.drop ofs).take u, s)
          | none => s.collRead r (r.src n + ofs) u
        match input with
        | .error x => (ofs, some x, s)
        | .ok (bs, s) =>
          match s.putElem r n ofs (nodeOp n = 3 || nodeOp n = 5) bs with
          | .error x => (ofs, some x, s)
          | .ok s => moveNode serial n data fuel (ofs + u) ((s.forget serial (r.src n + ofs) u).forget serial (r.dst n + ofs) u)

/-- What stops the engine at a node takes effect at its byte offset (R246, R321, R372). -/
def stopNode (s : State) (serial i ofs : Nat) (x : EStop) : State :=
  match s.run? serial with
  | none => s
  | some r =>
    match x with
    | .reason c => s.failRun serial i c s.pkg ofs
    | .bad l => (s.logWords l).failRun serial i 0x04 s.pkg ofs
    | .trans va c l e b z =>
      let (t, s) := s.engineTicket 192 r.asid ofs va c l e b z
      s.updRun serial fun r => { r with tickets := r.tickets.ins i t }
    | .need l pa va n => s.needPeer serial r.asid r.bid l pa va n
    | .put l pa va bs => s.putPeer serial r.asid r.bid l pa va bs
    | .held pa => s.noteWrite pa
    | .fetch _ | .wait => s

/-- COPY and LRED move what is left; the node completes with its last element (R317, R319). -/
def moveStep (s : State) (r : Run) (i n : Nat) : State :=
  let (ofs, stop, s) := moveNode r.serial n none (nodeLen n) (r.progress.lookD i 0) s
  let s := s.updRun r.serial fun r => { r with progress := r.progress.ins i ofs }
  match stop with
  | some x => s.stopNode r.serial i ofs x
  | none => s.nodeDone r.serial i

/-- The first data that waits to be written at a node is written; the state after it, and whether it went in whole. -/
def drainOne (s : State) (serial i : Nat) : Bool × State :=
  match s.run? serial with
  | none => (false, s)
  | some r =>
    match r.pend.find? fun p => p.1 = i with
    | none => (false, s)
    | some p =>
      let n := s.nodeOf r i
      let (ofs, stop, s) := moveNode serial n (some p.2) (nodeLen n) (r.progress.lookD i 0) s
      match stop with
      | some x => (false, (s.updRun serial fun r => { r with progress := r.progress.ins i ofs }).stopNode serial i ofs x)
      | none =>
        (true, s.updRun serial fun r =>
          { r with progress := r.progress.del i, pend := r.pend.erase p
                   recvLeft := r.recvLeft.adjust i fun c => c - 1 })

/-- A RECV writes the contributions that have arrived, in their order, and completes with the last of NIN; an SRED writes
its result and completes (R319, R320, R323). -/
def drainStep (s : State) (serial i : Nat) : Nat → State
  | 0 => s
  | fuel + 1 =>
    match s.drainOne serial i with
    | (false, s) => s
    | (true, s) =>
      match s.run? serial with
      | none => s
      | some r =>
        if r.recvLeft.lookD i 0 = 0 then s.nodeDone serial i else s.drainStep serial i fuel

/-- A message of a port still waits for room in the replay buffer (R310). -/
def stillWaiting (s : State) (tag : Nat) : Bool :=
  s.ports.any fun p => p.classes.any fun c => c.waiting.any fun f => f.mtag = tag

/-- Read what is left of a node's source, up to `fuel` elements: the bytes read so far, and what stopped the engine. -/
def gather (serial n : Nat) : Nat → List Byte → State → List Byte × Option EStop × State
  | 0, bs, s => (bs, none, s)
  | fuel + 1, bs, s =>
    match s.run? serial with
    | none => (bs, none, s)
    | some r =>
      let u := tyBytes (nodeDt n)
      let va := r.src n + bs.length
      if nodeLen n ≤ bs.length then (bs, none, s)
      else
        match s.collRead r va u with
        | .error x => (bs, some x, s)
        | .ok (new, s) => gather serial n fuel (bs ++ new) (s.forget serial va u)

/-- The source of a node is read from the byte offset reached, and stopped there (R321); once it is there whole, `f` is done with
it. -/
def withSource (s : State) (r : Run) (i n : Nat) (f : List Byte → State → State) : State :=
  let (bs, stop, s) := gather r.serial n (nodeLen n) (r.contrib.lookD i []) s
  let s := s.updRun r.serial fun r => { r with contrib := r.contrib.ins i bs }
  match stop with
  | some x => s.stopNode r.serial i bs.length x
  | none => f bs s

/-- The data of a SEND that has been cleared go to a port; the node completes at local completion (R310, R320). -/
def sendStep (s : State) (r : Run) (i n : Nat) : State :=
  match r.phase.lookD i 0 with
  | 1 =>
    s.withSource r i n fun bs s =>
      let tag := s.serial % 2 ^ 18
      let s := s.send (.collective r.asid r.graph (nodeArg n % 2 ^ 12) (nodePeer n) r.number bs)
      let s := s.updRun r.serial fun r => { r with phase := r.phase.ins i 2, tags := r.tags.ins i tag }
      if s.stillWaiting tag then s else s.nodeDone r.serial i
  | 2 => if s.stillWaiting (r.tags.lookD i 0) then s else s.nodeDone r.serial i
  | _ => s

/-- The switches reduce in push mode at the port towards a group (R312, R322). -/
def pushMode (s : State) (group : Nat) : Bool := (s.port (Config.portOf (1024 + group) % 16)).mode = 2

/-- An SRED sends its contribution, or the exponent words of pass 1 (R322, R324). -/
def contribute (s : State) (r : Run) (i n : Nat) : State :=
  s.withSource r i n fun bs s =>
    let s := s.updRun r.serial fun r => { r with phase := r.phase.ins i 1 }
    let g := nodeArg n
    if isWindowed n then
      let words := (elems (tyBytes (nodeDt n)) bs).flatMap fun v => toBytes 4 (expWord (fmtOf (nodeDt n)) v)
      s.send (.switchData (s.pushMode g) g r.number i .exponents words)
    else s.send (.switchData (s.pushMode g) g r.number i (.elements ((nodeRop n).getD .add) (nodeDt n)) bs)

/-- The engine works on a started node of a run whose turn it is. -/
def nodeStep (s : State) (serial i : Nat) : State :=
  match s.run? serial with
  | none => s
  | some r =>
    match r.ending with
    | some record => s.endStalled r record
    | none =>
      if !r.active || (r.phase.look i).isNone || r.doneNodes.contains i || (r.tickets.look i).isSome || !(s.engineRuns r.asid)
      then s
      else
        let n := s.nodeOf r i
        match nodeOp n with
        | 0 => s.nodeDone serial i
        | 1 => s.moveStep r i n
        | 2 => s.sendStep r i n
        | 3 => s.drainStep serial i (r.pend.length + 1)
        | 4 => if r.phase.lookD i 0 = 0 then s.contribute r i n else s.drainStep serial i 1
        | _ => s.moveStep r i n

end State

/-! ### Steps of the collective engine -/

/-- COLLECTIVE_NODE_COMPLETE: the engine moves what a node still has to move, and the node completes (R319); where
something stops it, it stops there (R321). -/
def execCollectiveNodeComplete (serial node : Nat) (s : State) : Host.Outcome State Fault Refusal :=
  event (fun s => (s.startRuns.nodeStep serial node).startRuns) s

/-- SEND_NOTICE: a notice takes its place in the notice table, and is answered if its node is armed or its run has ended
(R320). One that finds the table full is not taken in: its flit is refused. -/
def execSendNotice (asid graph node pkg run len : Nat) (dt : Ty) (rop : Nat) (s : State) :
    Host.Outcome State Fault Refusal :=
  if 65536 ≤ s.notices.length then event id s
  else arrival 2 pkg (fun s =>
    if (s.ctx? asid).isNone then s
    else
      let s : State := { s with notices := s.notices ++ [⟨asid, graph, node, pkg, run, len, dt, rop⟩] }
      let s := s.answerEnded asid graph
      match (s.runsOf asid graph).find? fun r => r.number = run with
      | some r => (s.answerNotices r.serial).startRuns
      | none => s) s

/-- The active run of an identifier with a number. -/
def State.activeRun (s : State) (asid g number : Nat) : Option Run :=
  (s.runsOf asid g).find? fun r => r.number = number && r.active && r.ending.isNone

/-- CLEAR_TO_SEND: a SEND, named by its node index on this package, transmits its data flits (R320). -/
def execClearToSend (asid graph run node : Nat) (s : State) : Host.Outcome State Fault Refusal :=
  arrivalAny 2 (fun s =>
    match s.activeRun asid graph run with
    | none => s
    | some r =>
      if nodeOp (s.nodeOf r node) = 2 && r.phase.look node = some 0 then
        ((s.updRun r.serial fun r => { r with phase := r.phase.ins node 1 }).nodeStep r.serial node).startRuns
      else s) s

/-- COLLECTIVE_DATA: a contribution arrives for an armed RECV and is written or combined (R317, R319). With no data and the
node a SEND of this package, it is the end of the receiver's run in answer to the SEND's notice (R320, log 33). -/
def execCollectiveData (asid graph run node pkg : Nat) (data : List Byte) (s : State) :
    Host.Outcome State Fault Refusal :=
  arrival 2 pkg (fun s =>
    match s.activeRun asid graph run with
    | none => s
    | some r =>
      let n := s.nodeOf r node
      if nodeOp n = 2 && data = [] && (r.phase.look node).isSome && !(r.doneNodes.contains node) then
        (s.failRun r.serial node 0x03 pkg 0).startRuns
      else if nodeOp n = 3 && r.senders.contains (node, pkg) then
        if data.length ≠ nodeLen n then (s.failRun r.serial node 0x03 pkg 0).startRuns
        else
          ((s.updRun r.serial fun r => { r with pend := r.pend ++ [(node, data)], senders := r.senders.erase (node, pkg) }).nodeStep
            r.serial node).startRuns
      else s) s

/-- The result of pass 1 is there: pass 2 sends each element's M (R324). -/
def State.passTwo (s : State) (r : Run) (i n : Nat) (words : List Byte) : State :=
  let ms := ((elems 4 words).zip (elems (tyBytes (nodeDt n)) (r.contrib.lookD i []))).map fun p =>
    windowM (fmtOf (nodeDt n)) p.1 p.2
  let s := s.updRun r.serial fun r => { r with phase := r.phase.ins i 2, passOne := r.passOne.ins i words }
  let s := ms.foldl (fun s m => s.countFor r.core r.launch r.tid m.2) s
  s.send (.switchData (s.pushMode (nodeArg n)) (nodeArg n) r.number i (.elements .add .s64) (ms.flatMap fun m => toBytes 8 m.1))

/-- The result of an SRED goes to its destination (R323, R324). -/
def State.sredResult (s : State) (r : Run) (i n : Nat) (bs : List Byte) : State :=
  let sums := ((elems 4 (r.passOne.lookD i [])).zip (elems 8 bs)).map fun p => windowSum (fmtOf (nodeDt n)) p.1 p.2
  let (out, s) : List Byte × State :=
    if isWindowed n then
      (sums.flatMap fun v => toBytes (tyBytes (nodeDt n)) v.1,
       sums.foldl (fun s v => s.countFor r.core r.launch r.tid v.2) s)
    else (bs, s)
  (s.updRun r.serial fun r => { r with phase := r.phase.ins i 3, pend := r.pend ++ [(i, out)] }).nodeStep r.serial i

/-- SWITCH_REDUCTION_RESULT: the result of every member arrives, or the switch reports that the members disagree (R321 to
R324). -/
def execSwitchReductionResult (serial node : Nat) (ok : Bool) (data : List Byte) (s : State) :
    Host.Outcome State Fault Refusal :=
  arrivalAny 2 (fun s =>
    match s.run? serial with
    | none => s
    | some r =>
      let n := s.nodeOf r node
      let phase := r.phase.lookD node 0
      let count := nodeLen n / tyBytes (nodeDt n)
      if nodeOp n ≠ 4 || r.ending.isSome || !(phase = 1 || phase = 2) then s
      else
        let want := if !(isWindowed n) then nodeLen n else if phase = 1 then 4 * count else 8 * count
        if !ok || data.length ≠ want then (s.failRun serial node 0x03 s.pkg 0).startRuns
        else if isWindowed n && phase = 1 then s.passTwo r node n data
        else (s.sredResult r node n data).startRuns) s

/-! ### coll (R327, R328) -/

/-- The trap of a completion object of coll.run: cause and detail (R157, R184, R327). -/
def State.collObjTrap (s : State) (b : Block) (c : Option Nat) : Option (Nat × Nat) :=
  match c with
  | none => none
  | some ea =>
    match s.objTrap b ea with
    | some x => some x
    | none => ((s.objAt b ea).arrivalTrap 0).map fun d => (0x07, d)

/-- A run that starts: counters from DEP, nothing moved. -/
def Run.fresh (serial asid g number bid core launch tid wid : Nat) (cpl : Option Nat) (table halves : Nat)
    (nodes : List Nat) : Run :=
  { serial := serial, asid := asid, graph := g, number := number, bid := bid, core := core, launch := launch, tid := tid
    wid := wid, cpl := cpl, table := (span 0 8).map fun i => field table (64 * i) 64, halves := halves
    counters := nodes.map nodeDep, doneNodes := [], phase := [], progress := [], tickets := [], tags := [], recvLeft := []
    senders := [], pend := [], contrib := [], passOne := [], got := [], acked := [], active := false, ending := none }

/-- coll.run in one thread. A graph that a coll.drop is to free counts as not loaded any more (R328, log 33). -/
def collRunBody (i : Instr) (tid : Nat) (h : Head) (k : Nat) (t : Thread) (s : State) : State :=
  let g := t.rdB h.b 32
  let ea := t.rd h.a 32
  let cpl : Option Nat := if h.c = .reg 0 then none else some (t.rd h.c 32)
  match s.blockOf k with
  | none => s
  | some b =>
    if 16 ≤ g then s.trap k 0x01 0x02 0
    else
      match s.blockTrap b ea 64, s.collObjTrap b cpl with
      | some (c, d), _ => s.trap k c d ea
      | none, some (c, d) => s.trap k c d (cpl.getD 0)
      | none, none =>
        match s.graph? b.asid g with
        | none => s.answer k t i h 1
        | some gr =>
          if gr.dropped.isSome then s.answer k t i h 1
          else if 64 ≤ (s.runs.filter fun r => r.asid = b.asid).length then s.answer k t i h 0xFFFFFFFF
          else
            match s.waitSlot k b ea with
            | some s => s
            | none =>
            let table := s.blockBits b ea 64
            s.releasing k t.bid fun s =>
            let number := ((s.ctx? b.asid).map fun c => c.runCounts.lookD g 0).getD 0
            let (wid, s) := s.newWid i h
            let (n, s) := ((s.setThread k (t.sendOff i h wid)).signRequest k (toBytes 64 table)).fresh
            let r := Run.fresh n b.asid g number t.bid b.core b.launch tid wid cpl table (s.currentHalves b.asid) gr.nodes
            let s := s.updCtx b.asid fun c => { c with runCounts := c.runCounts.ins g ((number + 1) % 2 ^ 20) }
            let first := (s.runsOf b.asid g).isEmpty
            ({ s with runs := s.runs ++ [{ r with active := first }] } : State).startRuns

/-- coll.run (R327, R328). -/
def execCollRun (h : Head) (tid : Nat) (s : State) : Host.Outcome State Fault Refusal :=
  perLane (.collRun h tid) (collRunBody (.collRun h tid) tid) s

/-- coll.load in one thread: the image is read later, and D waits for that (R328). -/
def collLoadBody (i : Instr) (h : Head) (k : Nat) (t : Thread) (s : State) : State :=
  let ctl := t.rdB h.b 32
  let addr := t.rd h.a 64
  let n := field ctl 0 13
  if field ctl 13 3 ≠ 0 || field ctl 20 12 ≠ 0 || n = 0 || 4096 < n then s.trap k 0x01 0x02 0
  else if 2 ^ 52 < addr + 32 * n then s.trap k 0x08 0x01 addr
  else if addr % 32 ≠ 0 then s.trap k 0x08 0x02 addr
  else
    let asid := s.asidOf k
    s.releasing k t.bid fun s =>
    let (wid, s) := s.newWid i h
    let (serial, s) := ((s.setThread k (t.sendOff i h wid)).signRequest k (toBytes 8 addr ++ toBytes 4 ctl)).fresh
    { s with collLoads := s.collLoads ++ [⟨serial, asid, wid, addr, n, field ctl 16 4, t.bid, s.currentHalves asid, none, []⟩] }

/-- coll.load (R327, R328). -/
def execCollLoad (h : Head) (tid : Nat) (s : State) : Host.Outcome State Fault Refusal :=
  perLane (.collLoad h tid) (collLoadBody (.collLoad h tid)) s

/-- coll.drop in one thread: the graph is freed once its pending runs have ended, and D is written then (R327, R328). -/
def collDropBody (i : Instr) (h : Head) (k : Nat) (t : Thread) (s : State) : State :=
  let g := t.rdB h.b 32
  let asid := s.asidOf k
  if 16 ≤ g then s.trap k 0x01 0x02 0
  else
    match s.graph? asid g with
    | none => s.answer k t i h 0
    | some gr =>
      if gr.dropped.isSome then s.answer k t i h 0
      else
        let (wid, s) := s.newWid i h
        let s := s.setThread k (t.sendOff i h wid)
        if (s.runsOf asid g).isEmpty then s.freeGraph asid g wid
        else s.updCtx asid fun c => { c with graphs := c.graphs.ins g { gr with dropped := some wid } }

/-- coll.drop (R327, R328). -/
def execCollDrop (h : Head) (tid : Nat) (s : State) : Host.Outcome State Fault Refusal :=
  perLane (.collDrop h tid) (collDropBody (.collDrop h tid)) s

/-- Nodes that a package stores over all contexts (R315). -/
def State.nodesStored (s : State) : Nat :=
  (s.contexts.map fun c => (c.2.graphs.map fun g => g.2.nodes.length).sum).sum

/-- What coll.load answers for an image, and the state with the graph loaded (R328). -/
def State.loadGraph (s : State) (c : CollLoad) (nodes : List Nat) : Nat × State :=
  if (s.graph? c.asid c.ident).isSome then (0xFFFFFFFF, s)
  else if 65536 < s.nodesStored + c.n then (0, s)
  else
    match firstBad nodes with
    | some i => (0x80000000 + i, s)
    | none => (c.n, s.updCtx c.asid fun x => { x with graphs := x.graphs.ins c.ident ⟨nodes, none⟩ })

/-- A free value of D for an image that no code corrects (R372, log 34). -/
def State.freeWord (s : State) (a : Nat) : Nat × State :=
  (ofBytes ((span 0 4).map fun i => Config.freeByte s.tick (a + i)), { s with tick := s.tick + 1 })

/-- COLL_LOAD_COMPLETE: the image has been read as an engine reads, and D is written (R236, R328). -/
def execCollLoadComplete (serial : Nat) (s : State) : Host.Outcome State Fault Refusal :=
  event (fun s =>
    match s.collLoads.find? fun c => c.serial = serial with
    | none => s
    | some c =>
      let close (v : Nat) (s : State) : State :=
        { s with collLoads := s.collLoads.filter fun x => x.serial ≠ serial }.setIncoming c.wid v
      if c.ticket.isSome || !(s.engineRuns c.asid) then s
      else
        match s.engineRead 192 c.asid c.halves c.got (wordPieces (c.n + 1) c.addr (32 * c.n)) with
        | .ok (bs, s) =>
          let (v, s) := s.loadGraph c (elems 32 bs)
          close v s
        | .error (.bad l) =>
          let (v, s) := (s.logWords l).freeWord c.addr
          close v s
        | .error (.trans va r l e b z) =>
          let (t, s) := s.engineTicket 192 c.asid (va - c.addr) va r l e b z
          { s with collLoads := s.collLoads.map fun x => if x.serial = serial then { x with ticket := some t } else x }
        | .error (.need l pa va n) => s.needPeer serial c.asid c.bid l pa va n
        | .error _ => s) s

end Sys2Proof.Machine
end

