-- ==== Sys2Proof/Machine/Repart.lean ====
section
/-! DEFINITION. Repartition: the descriptor and its checks (R331, R334), the meeting of the members at the home agent (R333),
owners and placement (R329, R330, R332), and repart. -/

namespace Sys2Proof.Machine

/-! ### The descriptor (R331) -/

/-- STATUS. -/
def rdStatus (d : Nat) : Nat := field d 448 64
/-- RET. -/
def rdRet (d : Nat) : Nat := field d 384 64
/-- OVF. -/
def rdOvf (d : Nat) : Nat := field d 320 64
/-- OUT. -/
def rdOut (d : Nat) : Nat := field d 256 64
/-- IN. -/
def rdIn (d : Nat) : Nat := field d 192 64
/-- OVFN. -/
def rdOvfn (d : Nat) : Nat := field d 160 32
/-- BUFN. -/
def rdBufn (d : Nat) : Nat := field d 128 32
/-- NIN. -/
def rdNin (d : Nat) : Nat := field d 96 32
/-- CPL. -/
def rdCpl (d : Nat) : Nat := field d 64 32
/-- G. -/
def rdG (d : Nat) : Nat := field d 48 16
/-- RANK. -/
def rdRank (d : Nat) : Nat := field d 32 16
/-- HGRP. -/
def rdGrp (d : Nat) : Nat := field d 24 8
/-- The record size in bytes. -/
def rdSize (d : Nat) : Nat := 16 * (field d 16 2 + 1)

/-- An area is misaligned or reaches 2^52 (R331). -/
def areaBad (a n align : Nat) : Bool := a % align ≠ 0 || 2 ^ 52 < a + n

/-- The detail of the engine-request trap of a descriptor, in the order of the details (R255, R334). -/
def repartTrap (d : Nat) : Option Nat :=
  if field d 18 6 ≠ 0 || field d 0 16 ≠ 0 then some 0x02
  else if rdG d = 0 || rdG d ≤ rdRank d then some 0x03
  else if areaBad (rdIn d) (rdNin d * rdSize d) 16 || areaBad (rdOut d) (rdBufn d * rdSize d) 16 ||
      areaBad (rdOvf d) (rdOvfn d * rdSize d) 16 || areaBad (rdRet d) (rdNin d * rdSize d) 16 ||
      areaBad (rdStatus d) 32 32 then some 0x04
  else if rdCpl d % 16 ≠ 0 || field (rdCpl d) 21 11 ≠ 0 then some 0x05
  else none

/-! ### Owners and placement (R329, R330, R332) -/

/-- Spread the 21 bits of a coordinate to every third bit. -/
def spread3 (x : Nat) : Nat := ((span 0 21).map fun i => x / 2 ^ i % 2 * 2 ^ (3 * i)).sum

/-- The key of a record: the Morton code of x, y and z (R329). -/
def mortonKey (rec : List Byte) : Nat :=
  let v := ofBytes (rec.take 8)
  spread3 (field v 0 21) + 2 * spread3 (field v 21 21) + 4 * spread3 (field v 42 21)

/-- The weight of a record (R329). -/
def weightOf (rec : List Byte) : Nat := ofBytes ((rec.drop 8).take 2)

/-- A member of an operation with its input records. -/
structure Member where
  descriptor : Nat
  records : List (List Byte)
  deriving DecidableEq, Repr

/-- The place of a record in its source: rank, then index. -/
def sourceKey (rank i : Nat) : Nat := rank * 2 ^ 32 + i

/-- Every record of an operation by its place in its source. -/
def allRecords (l : List Member) : Map (List Byte) :=
  l.foldl (fun (m : Map (List Byte)) x =>
    ((span 0 x.records.length).zip x.records).foldl
      (fun (m : Map (List Byte)) p => Map.ins m (sourceKey (rdRank x.descriptor) p.1) p.2) m) []

/-- The sum of all weights, before any substitution (R332). -/
def weightTotal (l : List Member) : Nat := (l.map fun x => (x.records.map weightOf).sum).sum

/-- The owner of every record, by its place in its source (R330). -/
def ownersOf (g : Nat) (l : List Member) : Map Nat :=
  let w := weightTotal l
  let all := allRecords l
  let order := all.foldl (fun (m : Map (Nat × Nat)) p =>
    Map.ins m (mortonKey p.2 * 2 ^ 48 + p.1) (p.1, if w = 0 then 1 else weightOf p.2)) []
  let total := if w = 0 then all.length else w
  (order.foldl (fun (acc : Nat × Map Nat) p =>
    (acc.1 + p.2.2, Map.ins acc.2 p.2.1 (min (g - 1) (g * acc.1 / total)))) (0, [])).2

/-- The records that a rank owns, in the order of their places (R332). -/
def ownedBy (owners : Map Nat) (q : Nat) : List Nat := (owners.filter fun p => p.2 = q).map Prod.fst

/-- The records of a member of the operation that their owners return, in ascending source index (R332). -/
def returnedTo (l : List Member) (owners : Map Nat) (rank : Nat) : List Nat :=
  let back := l.flatMap fun x =>
    (ownedBy owners (rdRank x.descriptor)).drop (rdBufn x.descriptor + rdOvfn x.descriptor)
  let n := ((l.find? fun x => rdRank x.descriptor = rank).map fun x => x.records.length).getD 0
  ((span 0 n).map fun i => sourceKey rank i).filter back.contains

/-- The status record of a member (R332). -/
def statusRecord (wtot nown nbuf novf nrej nret nsent : Nat) : List Byte :=
  toBytes 4 nsent ++ toBytes 4 nret ++ toBytes 4 nrej ++ toBytes 4 novf ++ toBytes 4 nbuf ++ toBytes 4 nown ++
    toBytes 8 wtot

/-- What a member writes: addresses with bytes (R332). -/
def memberWrites (l : List Member) (owners : Map Nat) (all : Map (List Byte)) (x : Member) : List (Nat × List Byte) :=
  let d := x.descriptor
  let mine := ownedBy owners (rdRank d)
  let back := returnedTo l owners (rdRank d)
  let rec_ (k : Nat) : List Byte := Map.lookD all k []
  let place (base : Nat) (ks : List Nat) : List (Nat × List Byte) :=
    ((span 0 ks.length).zip ks).map fun p => (base + rdSize d * p.1, rec_ p.2)
  let out := mine.take (rdBufn d)
  let ovf := (mine.drop (rdBufn d)).take (rdOvfn d)
  place (rdOut d) out ++ place (rdOvf d) ovf ++ place (rdRet d) back ++
  [(rdStatus d, statusRecord (weightTotal l) mine.length out.length ovf.length (mine.length - out.length - ovf.length)
      back.length (x.records.length - back.length))]

namespace State

/-! ### The meeting (R333) -/

/-- Repartition operations of a Harness group. -/
def repartGroup (s : State) (asid grp : Nat) : RepartGroup :=
  ((s.ctx? asid).bind fun c => c.reparts.look grp).getD ⟨0, [], []⟩

/-- Put the operations of a Harness group. -/
def setRepartGroup (s : State) (asid grp : Nat) (g : RepartGroup) : State :=
  s.updCtx asid fun c => { c with reparts := c.reparts.ins grp g }

/-- Change a repart that waits. -/
def updIssue (s : State) (serial : Nat) (f : RepartIssue → RepartIssue) : State :=
  { s with repartIssues := s.repartIssues.map fun r => if r.serial = serial then f r else r }

/-- A repart ends with a value of D: its member arrives at its object (R333). -/
def closeIssue (s : State) (serial v : Nat) : State :=
  match s.repartIssues.find? fun r => r.serial = serial with
  | none => s
  | some r =>
    let s : State := { s with
      repartIssues := s.repartIssues.filter fun x => x.serial ≠ serial
      tickets := s.tickets.filter fun t => r.ticket ≠ some t.number
      peers := s.peers.filter fun p => match p.use with
        | .read n _ => n ≠ serial
        | _ => true }
    let cpl := rdCpl r.descriptor
    (if cpl = 0 then s else s.threadArrive r.asid r.bid cpl cpl).setIncoming r.wid v

/-- The home agent holds a descriptor's rank already, or others of another G or record size (R333). -/
def repartRefused (g : RepartGroup) (d : Nat) : Bool :=
  g.held.any fun m => rdRank m.descriptor = rdRank d || rdG m.descriptor ≠ rdG d || rdSize m.descriptor ≠ rdSize d

/-- A descriptor reaches the home agent: accepted into the open operation, or refused (R333). -/
def acceptDescriptor (s : State) (asid pkg handle d serial : Nat) : State :=
  let g := s.repartGroup asid (rdGrp d)
  let mine := pkg = s.pkg
  if repartRefused g d then
    if mine then s.closeIssue serial 2 else s.send (.repart asid pkg handle 0 serial)
  else
    let s := s.setRepartGroup asid (rdGrp d) { g with accepted := g.accepted + 1, held := g.held ++ [⟨pkg, handle, serial, d⟩] }
    if mine then s.updIssue serial fun r => { r with accepted := true } else s.send (.repart asid pkg handle d serial)

/-- What stops the engine at a member's input or areas, at a byte offset of the one or the other (R246, R314, R333). -/
def stopIssue (s : State) (r : RepartIssue) (ofs : Nat) : EStop → State
  | .trans va c l e b z =>
    let (n, s) := s.engineTicket 192 r.asid ofs va c l e b z
    s.updIssue r.serial fun r => { r with ticket := some n }
  | .need l pa va n => s.needPeer r.serial r.asid r.bid l pa va n
  | .put l pa va bs => s.putPeer r.serial r.asid r.bid l pa va bs
  | .held pa => s.noteWrite pa
  | .bad _ | .reason _ | .fetch _ | .wait => s

/-- Nothing that reads or writes again can mend what stopped the engine. -/
def EStop.final : EStop → Bool
  | .trans .. | .reason _ => true
  | _ => false

/-- Write what is left of a member's areas, up to `fuel` pieces. Of areas that are undefined, a page that is not mapped takes
nothing; nor does a publishable page ever (log 33). -/
def moveAreas (serial : Nat) : Nat → State → State
  | 0, s => s
  | fuel + 1, s =>
    match s.repartIssues.find? fun r => r.serial = serial with
    | none => s
    | some r =>
      match r.todo with
      | [] => s
      | (va, bs) :: rest =>
        let n := min bs.length (32 - va % 32)
        let past (s : State) : State := s.updIssue serial fun r =>
          { r with todo := if bs.length ≤ n then rest else (va + n, bs.drop n) :: rest
                   written := r.written + n, acked := r.acked.filter fun a => a ≠ va }
        match s.collWrite r.asid r.bid serial r.acked (bs.take n) [(va, 0, n)] 0 with
        | .ok s => moveAreas serial fuel (past s)
        | .error x =>
          let skip : Bool := match x with
            | .reason _ => true
            | x => EStop.final x && r.fate = some 3
          if skip then moveAreas serial fuel (past s) else s.stopIssue r r.written x

/-- The reparts of a group on this package whose end is settled, but for their writes. -/
def ending (s : State) (asid grp : Nat) : List RepartIssue :=
  s.repartIssues.filter fun r => r.asid = asid && rdGrp r.descriptor = grp && r.fate.isSome

/-- Reparts whose end is settled write their areas; with the last write they arrive and D is written (R333). -/
def moveEnding (s : State) (asid grp : Nat) : State :=
  let s := ((s.ending asid grp).filter fun r => r.ticket.isNone).foldl (fun s r =>
    moveAreas r.serial ((r.todo.map fun w => w.2.length + 1).sum) s) s
  let l := s.ending asid grp
  if l.all fun r => r.todo = [] then l.foldl (fun s r => s.closeIssue r.serial (r.fate.getD 0)) s else s

/-- The end of a repart is settled: what it writes, and D. -/
def settleIssue (s : State) (serial : Nat) (todo : List (Nat × List Byte)) (fate : Nat) : State :=
  s.updIssue serial fun r => { r with todo := todo, written := 0, acked := [], fate := some fate }

/-- The areas and the status record of a member of an operation that failed are undefined (R333): every byte of them is
drawn; D becomes 3. -/
def undefineAreas (s : State) (r : RepartIssue) : State :=
  let d := r.descriptor
  let bytes (a n : Nat) : Nat × List Byte := (a, (span a n).map (Config.freeByte s.tick))
  ({ s with tick := s.tick + 1 } : State).settleIssue r.serial
    [bytes (rdOut d) (rdBufn d * rdSize d), bytes (rdOvf d) (rdOvfn d * rdSize d), bytes (rdRet d) (rdNin d * rdSize d),
      bytes (rdStatus d) 32] 3

/-- The reparts of this package that take part in the running operation of a group. -/
def runningIssues (s : State) (g : RepartGroup) : List RepartIssue :=
  (g.running.filter fun m => m.pkg = s.pkg).filterMap fun m => s.repartIssues.find? fun r => r.serial = m.serial

/-- The running operation of a group ends with D = 3 for every member (R333, R372). -/
def failRepart (s : State) (asid grp : Nat) : State :=
  let g := s.repartGroup asid grp
  let others := ((g.running.map RepartMember.pkg).filter fun p => p ≠ s.pkg).eraseDups
  let s := ((s.runningIssues g).foldl undefineAreas s).setRepartGroup asid grp { g with running := [] }
  if s.isHome asid then others.foldl (fun s p => s.send (.repartEnd asid grp p)) s else s

/-- Read what is left of a member's input, up to `fuel` pieces; and what stopped the engine. -/
def readInput (serial : Nat) : Nat → State → Option EStop × State
  | 0, s => (none, s)
  | fuel + 1, s =>
    match s.repartIssues.find? fun r => r.serial = serial with
    | none => (none, s)
    | some r =>
      let n := rdNin r.descriptor * rdSize r.descriptor - r.input.length
      let va := rdIn r.descriptor + r.input.length
      if n = 0 then (none, s)
      else
        match s.engineRead 192 r.asid r.halves r.got [(va, 0, min n (32 - va % 32))] with
        | .error x => (some x, s)
        | .ok (bs, s) => readInput serial fuel (s.updIssue serial fun r => { r with input := r.input ++ bs, got := [] })

/-- Read the inputs of members of this package: those that stop, each with what stopped it. -/
def readInputs (s : State) (l : List RepartIssue) : List (RepartIssue × EStop) × State :=
  l.foldl (fun acc r =>
    let (x, s) := readInput r.serial (rdNin r.descriptor * rdSize r.descriptor) acc.2
    (acc.1 ++ (x.map fun x => (r, x)).toList, s)) ([], s)

/-- A stop at a member takes effect (R246); data that no code corrects, or a page that takes no such write, ends the operation for
every member (R372, log 33). -/
def stopRepart (s : State) (asid grp : Nat) (r : RepartIssue) (x : EStop) : State :=
  let ended (s : State) : State :=
    (if s.isHome asid then s else s.send (.repartEnd asid grp (s.homeOf asid))).failRepart asid grp
  match x with
  | .bad l => ended (s.logWords l)
  | .reason c => ended (s.report asid 0x24 c (engineRecord 0 (rdCpl r.descriptor) 0 192 c))
  | x => s.stopIssue r (((s.repartIssues.find? fun y => y.serial = r.serial).map fun y => y.input.length).getD 0) x

/-- Some stop at an input ends the operation. -/
def endsRepart (l : List (RepartIssue × EStop)) : Bool :=
  l.any fun p => match p.2 with
    | .bad _ => true
    | _ => false

/-- The operation of a group whose members are known starts (R333): where other packages take part, they receive the input
of this package's members. -/
def startRepart (s : State) (asid grp : Nat) (g : RepartGroup) : State :=
  let issues := s.runningIssues g
  let ranks := (g.running.head?).map fun m => rdG m.descriptor
  if ranks = some issues.length then s.setRepartGroup asid grp g
  else if issues.any (fun r => r.ticket.isSome) || !(s.engineRuns asid) then s
  else
    match s.readInputs issues with
    | ([], s) =>
      let peers := s.domain.filter fun p => p ≠ s.pkg && s.peerUp p
      peers.foldl (fun s p =>
        (s.runningIssues g).foldl (fun s r => s.send (.records asid grp p (toBytes 64 (r.descriptor + asid) ++ r.input))) s)
        (s.setRepartGroup asid grp g)
    | (stops, s) =>
      stops.foldl (fun s p => s.stopRepart asid grp p.1 p.2) (if endsRepart stops then s.setRepartGroup asid grp g else s)

/-- The oldest accepted repart of each rank of a group on this package. -/
def openIssues (s : State) (asid grp : Nat) : List RepartIssue :=
  let l := s.repartIssues.filter fun r => r.asid = asid && rdGrp r.descriptor = grp && r.accepted && r.fate.isNone
  l.filter fun r => !(l.any fun x => rdRank x.descriptor = rdRank r.descriptor && x.serial < r.serial)

/-! ### Records of other packages (log 19) -/

/-- Messages of class 3 that have arrived from other packages: tag with payload, by the flits accepted. -/
def messagesIn (s : State) : List (Nat × Nat × List Byte) :=
  let l := s.received.filter fun f => f.cls = 3
  (l.filter fun f => f.first).map fun f =>
    (f.spkg, f.mtag, (l.filter fun x => x.spkg = f.spkg && x.mtag = f.mtag).flatMap Flit.payload)

/-- The member that a message of records holds, if it is one of a group. -/
def memberIn (asid grp : Nat) (bs : List Byte) : Option Member :=
  let v := ofBytes (bs.take 64)
  let d := v - v % 2 ^ 16
  if v % 2 ^ 16 = asid && rdGrp d = grp && bs.length = 64 + rdNin d * rdSize d then
    some ⟨d, (span 0 (rdNin d)).map fun i => ((bs.drop (64 + rdSize d * i)).take (rdSize d))⟩
  else none

/-- The message is one of records; the others of its class say how the meeting goes. -/
def isRecords (bs : List Byte) : Bool :=
  let d := ofBytes (bs.take 64) / 2 ^ 16 * 2 ^ 16
  64 ≤ bs.length && (repartTrap d).isNone && bs.length = 64 + rdNin d * rdSize d

/-- Flits of class 3 that say how a meeting goes: records stay until their operation takes them in. -/
def controlFlits (s : State) : List Flit :=
  let records := s.messagesIn.filter fun m => isRecords m.2.2
  s.received.filter fun f => f.cls = 3 && !(records.any fun m => m.1 = f.spkg && m.2.1 = f.mtag)

/-- Take in the first message of the meeting from a package, or from any (R309). -/
def takeControl (s : State) (pkg : Option Nat) : Option State :=
  let l := s.controlFlits
  let from_ := match pkg with
    | some p => [p]
    | none => (l.map Flit.spkg).eraseDups
  (from_.findSome? fun p => messageOf l 3 p).map fun m => { s with received := s.received.filter fun f => !(m.contains f) }

/-- Some writes touch a publishable page. -/
def touchesPub (s : State) (asid : Nat) (l : List (Nat × List Byte)) : Bool :=
  (l.flatMap fun w => wordPieces (w.2.length / 32 + 2) w.1 w.2.length).any fun p =>
    match s.engineWalk 192 asid p.1 .engineWrite with
    | .leaf l => l.pub
    | .fault .. => false

/-- The operation of a group ends well, once every input is read: every record has its place, and the end of this package's members
is settled (R332, R333). -/
def finishRepart (s : State) (asid grp : Nat) (g : RepartGroup) : State :=
  if (s.runningIssues g).any (fun r => r.ticket.isSome) || !(s.engineRuns asid) then s
  else
    match s.readInputs (s.runningIssues g) with
    | ([], s) =>
      let issues := s.runningIssues g
      let ranks := ((issues.head?).map fun r => rdG r.descriptor).getD 0
      let cut (d : Nat) (bs : List Byte) : Member :=
        ⟨d, (span 0 (rdNin d)).map fun i => (bs.drop (rdSize d * i)).take (rdSize d)⟩
      let own := issues.map fun r => cut r.descriptor r.input
      let far := s.messagesIn.filterMap fun m => (memberIn asid grp m.2.2).map fun x => (m.1, m.2.1, x)
      let far := far.filter fun m => rdG m.2.2.descriptor = ranks && !(own.any fun x => rdRank x.descriptor = rdRank m.2.2.descriptor)
      let all := own ++ far.map fun m => m.2.2
      if !((span 0 ranks).all fun q => all.any fun x => rdRank x.descriptor = q) then s
      else
        let owners := ownersOf ranks all
        let records := allRecords all
        let todo := issues.zip (own.map fun x => memberWrites all owners records x)
        match todo.find? fun p => s.touchesPub asid p.2 with
        | some p => s.stopRepart asid grp p.1 (.reason 0x04)
        | none =>
          let s : State := { s with
            received := s.received.filter fun f => !(f.cls = 3 && far.any fun m => m.1 = f.spkg && m.2.1 = f.mtag) }
          (todo.foldl (fun s p => s.settleIssue p.1.serial p.2 0) s).setRepartGroup asid grp { g with running := [] }
    | (stops, s) => stops.foldl (fun s p => s.stopRepart asid grp p.1 p.2) s

/-- A step of a meeting that a message of another package starts (R309). -/
def meeting (pkg : Option Nat) (f : State → State) (s : State) : Host.Outcome State Fault Refusal :=
  event (fun s => ((s.takeControl pkg).map f).getD s) s

end State

/-! ### Steps -/

/-- REPART_DESCRIPTOR_ARRIVAL: at the home agent, a member's descriptor (R333); elsewhere, the home agent's answer to one of
this package, 0 in the place of the descriptor for a refusal. -/
def execRepartDescriptorArrival (asid pkg handle descriptor serial : Nat) (s : State) :
    Host.Outcome State Fault Refusal :=
  let f (s : State) : State :=
    if (s.ctx? asid).isNone then s
    else
      let mine := if pkg = s.pkg then s.repartIssues.find? fun r => r.serial = serial && r.asid = asid && !r.accepted else none
      match mine, s.isHome asid with
      | some r, true => s.acceptDescriptor asid pkg handle r.descriptor serial
      | some _, false =>
        if descriptor = 0 then s.closeIssue serial 2 else s.updIssue serial fun r => { r with accepted := true }
      | none, true => if pkg = s.pkg || (repartTrap descriptor).isSome then s else s.acceptDescriptor asid pkg handle descriptor serial
      | none, false => s
  if s.isHome asid && pkg = s.pkg then event f s
  else State.meeting (some (if pkg = s.pkg then s.homeOf asid else pkg)) f s

/-- REPART_OPERATION_START: the home agent holds a descriptor of every rank (R333); on another package, its word that the
operation has started. -/
def execRepartOperationStart (asid grp : Nat) (s : State) : Host.Outcome State Fault Refusal :=
  if (s.ctx? asid).isNone || (s.repartGroup asid grp).running ≠ [] then event id s
  else if s.isHome asid then
    event (fun s =>
      let g := s.repartGroup asid grp
      match g.held with
      | [] => s
      | m :: _ =>
        if g.held.length < rdG m.descriptor then s
        else
          let s' := s.startRepart asid grp { g with held := [], running := g.held }
          if (s'.repartGroup asid grp).running = [] then s'
          else
            (((g.held.map RepartMember.pkg).filter fun p => p ≠ s.pkg).eraseDups).foldl
              (fun s p => s.send (.repartStart asid grp p)) s') s
  else
    event (fun s =>
      let g := s.repartGroup asid grp
      let l := (s.openIssues asid grp).map fun r =>
        RepartMember.mk s.pkg (((s.blocks.look r.bid).map Block.handle).getD 0) r.serial r.descriptor
      match s.takeControl (some (s.homeOf asid)) with
      | none => s
      | some t =>
        if l = [] then t
        else
          let t := t.startRepart asid grp { g with running := l }
          if (t.repartGroup asid grp).running = [] && !((t.ending asid grp).any fun r => l.any fun m => m.serial = r.serial) then
            { t with received := s.received }
          else t) s

/-- REPART_OPERATION_END: the running operation of a group ends, with every record placed, or with a failure that another package
tells of; and what its members have left to write is written (R332, R333). -/
def execRepartOperationEnd (asid grp : Nat) (failed : Bool) (s : State) : Host.Outcome State Fault Refusal :=
  event (fun s =>
    let g := s.repartGroup asid grp
    let s :=
      if failed then ((s.takeControl none).map fun s => s.failRepart asid grp).getD s
      else if g.running = [] then s else s.finishRepart asid grp g
    s.moveEnding asid grp) s

/-! ### repart (R334) -/

/-- repart in one thread: the descriptor is taken now. -/
def repartBody (i : Instr) (h : Head) (k : Nat) (t : Thread) (s : State) : State :=
  let ea := t.rd h.a 32
  match s.blockOf k with
  | none => s
  | some b =>
    match s.blockTrap b ea 64 with
    | some (c, x) => s.trap k c x ea
    | none =>
      match s.waitSlot k b ea with
      | some s => s
      | none =>
      let d := s.blockBits b ea 64
      match repartTrap d with
      | some x => s.trap k 0x0A x ea
      | none =>
        s.releasing k t.bid fun s =>
        let (wid, s) := s.newWid i h
        let (n, s) := ((s.setThread k (t.sendOff i h wid)).signRequest k (toBytes 64 d)).fresh
        let r : RepartIssue := ⟨n, b.asid, t.bid, b.core, wid, d, false, s.currentHalves b.asid, none, [], [], [], [], 0, none⟩
        let s : State := { s with repartIssues := s.repartIssues ++ [r] }
        if s.isHome b.asid then s else s.send (.repart b.asid (s.homeOf b.asid) b.handle d n)

/-- repart (R334). -/
def execRepart (h : Head) (s : State) : Host.Outcome State Fault Refusal := perLane (.repart h) (repartBody (.repart h)) s

end Sys2Proof.Machine
end

