-- ==== Sys2Proof/Machine/Fabric.lean ====
section
/-! DEFINITION. The Tlalith ports (R307 to R312) as they receive, resend and retrain, lane margining (R313), and the failure
of a member (R378). -/

namespace Sys2Proof.Machine

/-! ### Acknowledgement and resending (R308) -/

/-- A flit of this port that carries no payload. -/
def plainFlit (kind reason cls pkg : Nat) : Flit :=
  { seq := 0, ack := 0, kind := kind, nreason := reason, cls := cls, plen := 0, dpkg := 0, spkg := pkg
    first := true, last := true, mtag := 0, payload := [] }

namespace State

/-- Answer with a negative acknowledgement of a class (R308). -/
def nak (s : State) (n cls reason : Nat) : State := s.emit n (plainFlit 2 reason cls s.pkg)

/-- An ACK frees the replay-buffer entries it covers, and waiting flits take their room (R308). -/
def takeAck (s : State) (n : Nat) (f : Flit) : State :=
  let k := (s.port n).cls f.cls
  let d := (f.ack + 2 ^ 20 - k.acked) % 2 ^ 20
  if d = 0 || k.replay.length < d then s
  else
    (s.updPort n fun p =>
      { p.updCls f.cls (fun k => { k with acked := f.ack, replay := k.replay.drop d, since := s.ns }) with moved := s.ns }).pumpAll n

/-- Every flit of a class from the oldest unacknowledged one is sent again (R308, R311). -/
def resend (s : State) (n c : Nat) : State :=
  let p := s.port n
  if (p.cls c).replay = [] || !p.sends then s
  else
    (p.cls c).replay.foldl (fun s f => s.emit n f)
      (s.updPort n fun p =>
        { p.updCls c (fun k => { k with busy := none, since := s.ns }) with replays := min 0xFFFF (p.replays + 1) })

/-- A flit with a correct CRC has come from the partner of a port (R311). -/
def hears (s : State) (n : Nat) : State := s.updPort n fun p => { p with heard := p.heard.map fun _ => s.ns }

/-! ### Messages from other packages (R250, R309, R320) -/

/-- A packet for a queue: tag, context, queue, packet, the address of a template, and an index if it has claimed one (log 19). -/
def takePacket (s : State) (pkg : Nat) (bs : List Byte) : Option State :=
  let part (a n : Nat) : Nat := ofBytes ((bs.drop a).take n)
  s.remoteEnqueue pkg (part 0 8) (part 8 2) (part 10 2) (part 12 64) (part 76 8) (if bs.length = 92 then some (part 84 8) else none)

/-- The notice table has no place for another notice, those that have arrived and are not taken in yet counting (R320). -/
def noticesFull (s : State) : Bool :=
  65536 ≤ s.notices.length + (s.received.filter fun f => f.cls = 2 && Config.isNotice f.payload).length

/-- Take an accepted flit: a queue packet enters its queue, and the rest waits for the step that takes its message in. `none` where
this package has no room for it (R308, R320). -/
def deliver (s : State) (f : Flit) : Option State :=
  if f.cls = 4 && f.first && f.last && (f.payload.length = 84 || f.payload.length = 92) then s.takePacket f.spkg f.payload
  else if f.cls = 2 && Config.isNotice f.payload && s.noticesFull then none
  else some { s with received := s.received ++ [f] }

/-- A payload flit that a port takes in: accepted when its SEQ is the next of its class, refused with reason 1 where there is no
room for it, discarded when out of sequence, and without effect when accepted already (R308). -/
def takeFlit (s : State) (port : Nat) (f : Flit) (room : Bool) : State :=
  let k := (s.port port).cls f.cls
  let d := (f.seq + 2 ^ 20 - k.accepted) % 2 ^ 20
  if d = 1 then
    match if room then s.deliver f else none with
    | none => s.nak port f.cls 1
    | some s =>
      (s.updPort port fun p => p.updCls f.cls fun k => { k with accepted := f.seq, ackDue := some (k.ackDue.getD s.ns) }).takeAck port f
  else if d = 0 || 2 ^ 19 ≤ d then s
  else s.nak port f.cls 0

/-- A step for a flit of a kind and of one of the six classes, with a correct CRC: another one has no such effect. -/
def onFlit (s : State) (port kind : Nat) (image : List Byte) (g : Flit → State → State) : State :=
  match openFlit image with
  | none => s
  | some f => if f.kind = kind && f.cls < 6 then g f (s.hears port) else s.hears port

end State

/-- PAYLOAD_FLIT: a payload flit is accepted in sequence, or discarded with a negative acknowledgement (R308). A flit of any kind whose
CRC is wrong is discarded too, and answered for every class that has flits outstanding towards this port; which they are stands in the
operands (log 19). -/
def execPayloadFlit (port : Nat) (image : List Byte) (outstanding : List Nat) (room : Bool) (s : State) :
    Host.Outcome State Fault Refusal :=
  event (fun s =>
    match openFlit image with
    | none => (outstanding.filter (· < 6)).foldl (fun s c => s.nak port c 0) s
    | some _ => s.onFlit port 0 image fun f s => s.takeFlit port f room) s

/-- ACKNOWLEDGEMENT_FLIT (R308). -/
def execAcknowledgementFlit (port : Nat) (image : List Byte) (s : State) : Host.Outcome State Fault Refusal :=
  event (fun s => s.onFlit port 1 image fun f s => s.takeAck port f) s

/-- A negative acknowledgement of a class is counted; reason 0 resends the class from ACK + 1, reason 1 makes it wait (R308, R312). -/
def State.takeNak (s : State) (port : Nat) (f : Flit) : State :=
  let s := (s.updPort port fun p => { p with naks := min 0xFFFF (p.naks + 1) }).takeAck port f
  match f.nreason with
  | 0 => s.resend port f.cls
  | 1 => s.updPort port fun p => { p.updCls f.cls (fun k => { k with busy := some s.ns }) with moved := s.ns }
  | _ => s

/-- NEGATIVE_ACKNOWLEDGEMENT (R308). -/
def execNegativeAcknowledgement (port : Nat) (image : List Byte) (s : State) : Host.Outcome State Fault Refusal :=
  event (fun s => s.onFlit port 2 image fun f s => s.takeNak port f) s

/-- RETRAIN_MARKER: the partner retrains, so the port stops sending payload flits; the marker's payload announces the
partner's switch reduction mode (R311, R312, log 19). -/
def execRetrainMarker (port : Nat) (image : List Byte) (s : State) : Host.Outcome State Fault Refusal :=
  event (fun s => s.onFlit port 3 image fun f s =>
    s.updPort port fun p =>
      { p with retraining := !p.failed, mode := match f.payload with
        | b :: _ => b.toNat % 4
        | [] => p.mode }) s

/-- A time in nanoseconds has passed since an instant. -/
def State.passed (s : State) (since limit : Nat) : Bool := since + limit ≤ s.ns

/-- The same, of an instant there may not be. -/
def State.passedSome (s : State) (since : Option Nat) (limit : Nat) : Bool := (since.map fun a => s.passed a limit).getD false

/-- ACK_ONLY_TIMEOUT: an ACK that nothing has carried for 100 ns is sent by itself (R308). -/
def execAckOnlyTimeout (port cls : Nat) (s : State) : Host.Outcome State Fault Refusal :=
  event (fun s => if s.passedSome ((s.port port).cls cls).ackDue 100 then s.emit port (plainFlit 1 0 cls s.pkg) else s) s

/-- BUSY_RESEND: 100 ns after a busy refusal the class is sent again from the refused flit (R308). -/
def execBusyResend (port cls : Nat) (s : State) : Host.Outcome State Fault Refusal :=
  event (fun s => if s.passedSome ((s.port port).cls cls).busy 100 then s.resend port cls else s) s

/-- REPLAY_TIMEOUT: the ACK of a class has not advanced for 1 µs (R308). -/
def execReplayTimeout (port cls : Nat) (s : State) : Host.Outcome State Fault Refusal :=
  event (fun s => if s.passed ((s.port port).cls cls).since 1000 then s.resend port cls else s) s

/-! ### Lanes (R311, R312) -/

/-- The low or the high half of a port's lanes is whole. -/
def wholeHalf (good half : Nat) : Bool := field good (8 * half) 8 = 0xFF

/-- A port uses a lane at its width. -/
def Port.uses (p : Port) (lane : Nat) : Bool := p.width = 3 || (p.width = 1 && lane < 8) || (p.width = 2 && 8 ≤ lane)

/-- A lane of a port fails: the port stops sending payload flits and retrains to the half without it, or goes down when each
half has lost one (R311). -/
def State.laneFails (s : State) (port lane : Nat) : State :=
  let p := s.port port
  if 16 ≤ lane || !(bit p.good lane) then s
  else
    let good := p.good - 2 ^ lane
    if !(wholeHalf good 0) && !(wholeHalf good 1) then
      s.updPort port fun p => { p with good := good, width := 0, retraining := false }
    else s.updPort port fun p => { p with good := good, retraining := p.retraining || p.uses lane }

/-- LANE_FAILURE (R311). -/
def execLaneFailure (port lane : Nat) (s : State) : Host.Outcome State Fault Refusal :=
  event (fun s => s.laneFails port lane) s

/-- The width a port comes up at: never more than before once it has been trained (R311). -/
def Port.trained (p : Port) (good : Nat) : Nat :=
  match wholeHalf good 0, wholeHalf good 1 with
  | true, true => if p.good = 0 then 3 else p.width
  | true, false => 1
  | false, true => 2
  | false, false => 0

/-- RETRAIN_COMPLETE: the port resumes with every unacknowledged flit of each class (R311); a port that has never been
trained comes up with the lanes that the defect maps leave it (R383, log 19). -/
def execRetrainComplete (port : Nat) (s : State) : Host.Outcome State Fault Refusal :=
  event (fun s =>
    let p := s.port port
    if p.failed || !(p.retraining || p.good = 0) then s
    else
      let bad := (s.defects 10 port).map (· % 16)
      let good := if p.good = 0 then ((span 0 16).filter fun l => !(bad.contains l)).foldl (fun g l => g + 2 ^ l) 0 else p.good
      let s := s.updPort port fun p =>
        { p with good := good, width := p.trained good, retraining := false, heard := some (p.heard.getD s.ns)
                 retrain := if p.good = 0 then p.retrain else min 255 (p.retrain + 1) }
      ((span 0 6).foldl (fun s c => s.resend port c) s).pumpAll port) s

/-! ### The failure of a member (R378) -/

namespace State

/-- A FAILLOG entry (R378). -/
def logFailure (s : State) (level pkg port : Nat) : State :=
  let e := 2 ^ 63 + level * 2 ^ 61 + pkg * 2 ^ 51 + port * 2 ^ 47 + s.now % 2 ^ 40
  { s with faillog := pushLog s.faillog e }

/-- What becomes of one access that was in flight at a failed package: a stash line is not being fetched any more, and its threads
access it again. -/
def lostPeer (s : State) (p : PeerAccess) : State :=
  match p.use with
  | .fetch no =>
    let s := s.setLine no { s.line no with fetching := false }
    match s.ownerOf (no / 16384) (no % 16384) with
    | some (bid, _, _, ea) => s.wake fun key b => b = bid && key = lineEvent ea
    | none => s
  | .piece x _ => s.freeMiss x.no
  | .watch who =>
    match s.records.find? fun r => who = .thread r.2.bid r.2.lin && r.2.event / 2 ^ 60 = 0x9 && !r.2.satisfied with
    | some r => s.evaluateWatch r.1
    | none => s
  | _ => s

/-- Accesses in flight at a failed package are gone: engines, fetches of code and of stash lines and watched words translate again and
take reason 0x07; the register result of a thread's access does not come (R314, log 35). -/
def dropPeers (s : State) (pkg : Nat) : State :=
  let gone := s.peers.filter fun p => p.pkg = pkg && p.got.isNone && (match p.use with
    | .packet _ => false
    | _ => true)
  let parts := gone.flatMap fun p => match p.use with
    | .piece x _ => s.peersOf x.no
    | _ => []
  gone.foldl lostPeer { s with peers := s.peers.filter fun p => !(gone.contains p) && !(parts.contains p) }

/-- A node names a failed package: a SEND to it, a RECV that expects a contribution of it, an SRED of a group it is in (R321). -/
def nodeNames (s : State) (r : Run) (i pkg : Nat) : Bool :=
  let n := s.nodeOf r i
  (nodeOp n = 2 && nodePeer n = pkg) || r.senders.contains (i, pkg) || (nodeOp n = 4 && Config.inGroup (nodeArg n) pkg) ||
    s.notices.any fun x => x.asid = r.asid && x.graph = r.graph && x.run = r.number && x.node = i && x.pkg = pkg

/-- The first node of a run that has not completed and names a failed package (R321). -/
def runNames (s : State) (r : Run) (pkg : Nat) : Option Nat :=
  (span 0 r.counters.length).find? fun i => !(r.doneNodes.contains i) && s.nodeNames r i pkg

/-- Runs that name a failed package end with reason 0x02 (R321). -/
def failRuns (s : State) (pkg : Nat) : State :=
  let s := s.runs.foldl (fun s r =>
    match s.runNames r pkg with
    | some i => s.failRun r.serial i 0x02 pkg (r.progress.lookD i 0)
    | none => s) s
  ({ s with notices := s.notices.filter fun n => n.pkg ≠ pkg } : State).startRuns

/-- Captures whose peers include a failed package fail (R300). -/
def failCaptures (s : State) (pkg : Nat) : State :=
  s.captures.foldl (fun s c => if (s.regionPeers c.asid c.region).contains pkg then s.captureFail c.asid c.region else s) s

/-- The Harness memberships of a failed package's blocks end (R194). -/
def failMembers (s : State) (pkg : Nat) : State :=
  s.contexts.foldl (fun s c =>
    c.2.harness.foldl (fun s g =>
      (g.2.members.filter fun m => m.pkg = pkg).foldl (fun s m => s.endMembership c.1 g.1 pkg m.handle) s) s) s

/-- Repartitions with a member on a failed package, or whose home agent is there, end for every member (R333). -/
def failReparts (s : State) (pkg : Nat) : State :=
  s.contexts.foldl (fun s c =>
    if c.2.home = pkg then
      let mine := s.repartIssues.filter fun r => r.asid = c.1
      ((mine.map fun r => rdGrp r.descriptor).eraseDups).foldl (fun s g => s.moveEnding c.1 g)
        ((mine.filter fun r => r.fate.isNone).foldl undefineAreas s)
    else
      c.2.reparts.foldl (fun s g =>
        let s := if g.2.running.any fun m => m.pkg = pkg then (s.failRepart c.1 g.1).moveEnding c.1 g.1 else s
        if g.2.held.any fun m => m.pkg = pkg then
          let h := s.repartGroup c.1 g.1
          let s := ((s.setRepartGroup c.1 g.1 { h with held := [], running := g.2.held }).failRepart c.1 g.1).moveEnding c.1 g.1
          s.setRepartGroup c.1 g.1 { s.repartGroup c.1 g.1 with running := h.running }
        else s) s) s

/-- A member of the domain is named failed, once (R378): entered in FAILLOG, told to every package by the one that names
it, with all that follows. -/
def failPackage (s : State) (level port pkg : Nat) : State :=
  if pkg = s.pkg || !(s.domain.contains pkg) || s.failed.contains pkg then s
  else
    let s := { s with failed := s.failed ++ [pkg] }.logFailure level pkg port
    let s := if level = 3 then s else s.send (.failed pkg)
    ((((s.dropPeers pkg).failRuns pkg).failCaptures pkg).failMembers pkg).failReparts pkg

end State

/-- A port that has been trained is silent: for 20 µs no flit with a correct CRC has come, or no ACK has advanced while flits are
outstanding and no busy refusal has come (R311). -/
def State.silent (s : State) (port : Nat) : Bool :=
  let p := s.port port
  s.passedSome p.heard 20000 || (p.heard.isSome && p.outstanding && s.passed p.moved 20000)

/-- PORT_SILENT: the port is named failed, and with it the member it led to (R311, R378). -/
def execPortSilent (port pkg : Nat) (s : State) : Host.Outcome State Fault Refusal :=
  event (fun s =>
    if (s.port port).failed || !(s.silent port) then s
    else (s.updPort port fun p => { p with failed := true, retraining := false }).failPackage 0 port pkg) s

/-- SWITCH_GROUP_TIMEOUT, for one member of the group: the port towards it has carried no correct flit for 200 µs (R378). -/
def execSwitchGroupTimeout (pkg : Nat) (s : State) : Host.Outcome State Fault Refusal :=
  event (fun s => if s.passedSome (s.port (Config.portOf pkg % 16)).heard 200000 then s.failPackage 1 0 pkg else s) s

/-- A request to a package has waited for 2 ms in which it has answered none (R378). -/
def State.unanswered (s : State) (pkg : Nat) : Bool :=
  s.passed (s.answered.lookD pkg 0) 2000000 && s.peers.any fun p => p.pkg = pkg && p.got.isNone && s.passed p.sent 2000000

/-- DOMAIN_TIMEOUT (R378). -/
def execDomainTimeout (pkg : Nat) (s : State) : Host.Outcome State Fault Refusal :=
  event (fun s => if s.unanswered pkg then s.failPackage 2 0 pkg else s) s

/-- FAILURE_NOTICE: another package has named a member failed (R378). -/
def execFailureNotice (pkg : Nat) (s : State) : Host.Outcome State Fault Refusal :=
  arrivalAny 5 (fun s => s.failPackage 3 0 pkg) s

/-! ### Lane margining (R313) -/

/-- TLSTAT of a port (R312). -/
def Port.status (p : Port) : Nat :=
  p.good * 2 ^ 48 + p.width * 2 ^ 46 + p.mode * 2 ^ 44 + p.retrain * 2 ^ 32 + p.naks * 2 ^ 16 + p.replays

/-- The fields of TLMCTL that hold a value. -/
def tlmctlFields (v : Nat) : Nat := field v 59 3 * 2 ^ 59 + field v 32 23 * 2 ^ 32 + field v 4 8 * 2 ^ 4

/-- A write of TLMCTL: GO starts a measurement, which keeps the lane and the offset it was started with, and reads 1 as long as BUSY
does (log 36). While BUSY is 1 GO is ignored. -/
def State.writeTlmctl (s : State) (v : Nat) : State :=
  let busy := bit s.regs.tlmctl.toNat 62
  let go := bit v 63 && !busy
  { s with regs := { s.regs with
      tlmctl := BitVec.ofNat 64 (b2n (go || busy) * (2 ^ 63 + 2 ^ 62) + tlmctlFields v)
      margin := if go then v else s.regs.margin } }

/-- TLMCTL_GO (R313). -/
def execTlmctlGo (value : Nat) (s : State) : Host.Outcome State Fault Refusal :=
  event (fun s => if bit value 63 then s.writeTlmctl value else s) s

/-- MARGIN_MEASUREMENT_COMPLETE: what the offset sampler counted, or DOWN for a lane that is not trained or whose port is
down (R313). -/
def execMarginMeasurementComplete (errs bits : Nat) (s : State) : Host.Outcome State Fault Refusal :=
  event (fun s =>
    let v := s.regs.tlmctl.toNat
    let m := s.regs.margin
    let p := s.port (field m 8 4)
    if !(bit v 62) then s
    else
      let res := if p.width ≠ 0 && bit p.good (field m 4 4) then
          2 ^ 63 + b2n (65535 ≤ errs) * 2 ^ 62 + min 0xFFFF errs * 2 ^ 32 + bits % 2 ^ 32
        else 2 ^ 63 + 2 ^ 61
      { s with regs := { s.regs with tlmctl := BitVec.ofNat 64 (tlmctlFields v), tlmres := BitVec.ofNat 64 res } }) s

end Sys2Proof.Machine
end

