-- ==== Sys2Proof/Machine/Platform.lean ====
section
/-! DEFINITION. Reliability and the platform (chapter 15): defect maps, steering and fencing (R367, R371, R383), error logs
(R370, R372), selftest (R373, R374), memory stacks (R375 to R377), the Stitcher (R379), start-up and loss of power (R292,
R380, R395), clock (R381), attestation (R382) and voltage margining (R384). -/

namespace Sys2Proof.Machine

/-! ### Defect maps and fencing (R367, R371, R383) -/

namespace State

/-- Enter a lasting fault in the service map; a map of 256 entries takes no more (R383, log 37). -/
def addDefect (s : State) (kind unit loc : Nat) : State :=
  if 256 ≤ s.serviceMap.length then s
  else { s with serviceMap := s.serviceMap ++ [BitVec.ofNat 64 (kind * 2 ^ 60 + unit % 256 * 2 ^ 52 + loc % 2 ^ 52)] }

/-- The unit holds no group. -/
def unitEmpty (s : State) (u : Nat) : Bool := !(s.groups.any fun p => p.1 / 16 = u)

/-- Physical lanes of a unit that have failed, by this session or by a defect map. -/
def failedLanes (s : State) (u : Nat) : List Nat :=
  (s.unit u).failed ++ ((s.defects 1 (u / 4)).filter fun l => l % 4 = u % 4).map fun l => field l 2 6

/-- A unit is fenced: it admits no group, its threads go on on other units, and the service map says so (R367, R371). -/
def fenceUnit (s : State) (u : Nat) : State :=
  if (s.unit u).fenced then s
  else
    let s := (s.setUnit u { s.unit u with fenced := true }).addDefect 2 (u / 4) (u % 4)
    let s := s.emptyUnit u
    s.setUnit u { s.unit u with emptying := false }

/-- An empty unit is steered past a failed lane, or fenced for its second one (R367). -/
def steer (s : State) (u lane : Nat) : State :=
  if (s.failedLanes u).contains lane then s
  else
    let second := s.failedLanes u ≠ []
    let s := (s.setUnit u { s.unit u with failed := (s.unit u).failed ++ [lane] }).addDefect 1 (u / 4) (lane * 4 + u % 4)
    if second then s.fenceUnit u else s

/-- A core is fenced (R371): it admits no block, its resident blocks are saved to go on elsewhere, and blocks that no core
can start any more have failed. -/
def fenceCore (s : State) (c : Nat) : State :=
  if (s.core c).fenced then s
  else
    let s := (s.updCore c fun k => { k with fenced := true }).addDefect 6 c 0
    let here := (s.blocks.filter fun b => b.2.core = c && (match b.2.state with
      | .running | .draining _ | .late => true
      | _ => false)).map Prod.fst
    let s := here.foldl startSave s
    (s.launches.map Prod.fst).foldl failUnstartable s

end State

/-- LANE_STEERING: a lane of a unit has a lasting fault. The unit is emptied, and steered once it holds no group (R367). -/
def execLaneSteering (core unit lane : Nat) (s : State) : Host.Outcome State Fault Refusal :=
  event (fun s =>
    let u := 4 * core + unit % 4
    if 192 ≤ core || 33 ≤ lane || (s.unit u).fenced || (s.failedLanes u).contains lane then s
    else
      let s := if (s.unit u).emptying then s else s.emptyUnit u
      if s.unitEmpty u then
        let s := s.steer u lane
        s.setUnit u { s.unit u with emptying := false }
      else s) s

/-! ### Array errors, transfer errors and their logs (R370 to R372) -/

/-- The lasting fault of a resource of an array is fenced and entered in the service map (R371). LOC is that of ARRLOG; the
words of a B bank are counted by slice of 8,192 (log 37). -/
def State.fenceArray (s : State) (src unit loc : Nat) : State :=
  match src with
  | 0 => s.addDefect 8 unit (field loc 22 28 * 2 ^ 22)
  | 1 => s.addDefect 3 unit (loc % 2 ^ 14 / 32)
  | 2 => s.fenceUnit (4 * unit + loc / 65536 % 4)
  | 3 => s.addDefect 4 unit (loc % 2 ^ 14)
  | 4 => (s.addDefect 5 unit (loc / 8192 % 128)).fenceCore unit
  | 5 => s.addDefect 7 unit (loc % 256)
  | 6 => s.addDefect 11 unit (loc % 2 ^ 20)
  | _ => s

/-- TARGETED_SELF_TEST: the background test after a corrected array error; fewer than two failing passes are transient, more
are a lasting fault (R371). -/
def execTargetedSelfTest (src unit loc failing : Nat) (s : State) : Host.Outcome State Fault Refusal :=
  event (fun s =>
    if 7 ≤ src then s
    else
      let s := s.logArray src (b2n (2 ≤ failing)) (unit % 256 * 2 ^ 50 + loc % 2 ^ 50)
      if failing < 2 then s else s.fenceArray src (unit % 256) (loc % 2 ^ 50)) s

/-- An error that no code corrects strikes a 32-byte word: its data can no longer be read (R370, R372). -/
def State.upset (s : State) (pa loc : Nat) : State := { s with poison := Map.ins s.poison (pa / 32) loc }

/-- Lanes of a pseudo-channel that spare lanes stand in for (R370, R383). -/
def State.swapped (s : State) (stack chan pc : Nat) : List Nat :=
  ((s.defects 9 stack).filter fun l => field l 45 5 = chan && field l 44 1 = pc).map fun l => field l 0 7

/-- TRANSFER_ERROR_RETRY: `retries` up to 4 made the transfer succeed; 5 says that all four failed, and a spare lane takes
over, or the pseudo-channel is fenced when it has none left (R370, R372). -/
def execTransferErrorRetry (stack chan pc lane retries : Nat) (write : Bool) (s : State) :
    Host.Outcome State Fault Refusal :=
  event (fun s =>
    if retries = 0 || 5 < retries || 8 ≤ stack || 32 ≤ chan || 2 ≤ pc || 66 ≤ lane then s
    else
      let action := if retries ≤ 4 then 0 else if (s.swapped stack chan pc).length < 2 then 1 else 2
      let e := 2 ^ 63 + stack * 2 ^ 60 + chan * 2 ^ 55 + pc * 2 ^ 54 + lane * 2 ^ 47 + min 4 retries * 2 ^ 44 +
        action * 2 ^ 42 + b2n write * 2 ^ 41 + s.now % 2 ^ 40
      let s : State := { s with xfrlog := pushLog s.xfrlog e }
      let no := stack * 64 + chan * 2 + pc
      match action with
      | 1 => s.addDefect 9 stack (chan * 2 ^ 45 + pc * 2 ^ 44 + lane)
      | 2 => { s with fencedPcs := no :: s.fencedPcs.filter fun x => x ≠ no }
      | _ => s) s

/-- The oldest entry of a log, zero of an empty one, and the log without it (R372, R378). -/
def popLog (l : List (BitVec 64)) : BitVec 64 × List (BitVec 64) := ((l.head?).getD 0, l.drop 1)

/-- The host reads a register through BAR 0. -/
def State.hostGets (s : State) (v : BitVec 64) : State := s.send (.hostReply (some (toBytes 8 v.toNat)))

/-- ARRLOG_READ, by the host (R372). -/
def execArrlogRead (s : State) : Host.Outcome State Fault Refusal :=
  event (fun s => ({ s with arrlog := (popLog s.arrlog).2 } : State).hostGets (popLog s.arrlog).1) s

/-- XFRLOG_READ, by the host (R372). -/
def execXfrlogRead (s : State) : Host.Outcome State Fault Refusal :=
  event (fun s => ({ s with xfrlog := (popLog s.xfrlog).2 } : State).hostGets (popLog s.xfrlog).1) s

/-- FAILLOG_READ, by the host (R378). -/
def execFaillogRead (s : State) : Host.Outcome State Fault Refusal :=
  event (fun s => ({ s with faillog := (popLog s.faillog).2 } : State).hostGets (popLog s.faillog).1) s

/-! ### selftest (R373, R374) -/

/-- The selector is one that the table of a test gives, and its target exists (R373). -/
def selectorOk (x v : Nat) : Bool :=
  match x with
  | 0 | 1 => v < 768
  | 2 | 3 => v < 2 ^ 23 && v % 256 < 192
  | 4 => v < 192
  | 5 => v < 2 ^ 23 && v % 256 < 192 && field v 15 7 = 0
  | 6 => v < 2 ^ 28
  | 7 => v < 2 ^ 30
  | _ => v < 256

/-- selftest in one thread: D is written when the test ends; .lane and .rf first empty their unit (R374). -/
def selftestBody (i : Instr) (x : Nat) (h : Head) (k : Nat) (t : Thread) (s : State) : State :=
  let sel := t.rd h.a 32
  let (wid, s) := s.newWid i h
  let (n, s) := (s.setThread k (t.sendOff i h wid)).fresh
  let s : State := { s with tests := s.tests ++ [⟨n, x, sel, wid⟩] }
  if x < 2 && selectorOk x sel then s.emptyUnit sel else s

/-- selftest.lane (R373). -/
def execSelftestLane (h : Head) (s : State) : Host.Outcome State Fault Refusal :=
  perLanePark (.selftestLane h) (selftestBody (.selftestLane h) 0) s
/-- selftest.rf (R373). -/
def execSelftestRf (h : Head) (s : State) : Host.Outcome State Fault Refusal :=
  perLanePark (.selftestRf h) (selftestBody (.selftestRf h) 1) s
/-- selftest.lar (R373). -/
def execSelftestLar (h : Head) (s : State) : Host.Outcome State Fault Refusal :=
  perLane (.selftestLar h) (selftestBody (.selftestLar h) 2) s
/-- selftest.drw (R373). -/
def execSelftestDrw (h : Head) (s : State) : Host.Outcome State Fault Refusal :=
  perLane (.selftestDrw h) (selftestBody (.selftestDrw h) 3) s
/-- selftest.arr (R373). -/
def execSelftestArr (h : Head) (s : State) : Host.Outcome State Fault Refusal :=
  perLane (.selftestArr h) (selftestBody (.selftestArr h) 4) s
/-- selftest.bank (R373). -/
def execSelftestBank (h : Head) (s : State) : Host.Outcome State Fault Refusal :=
  perLane (.selftestBank h) (selftestBody (.selftestBank h) 5) s
/-- selftest.hbm (R373). -/
def execSelftestHbm (h : Head) (s : State) : Host.Outcome State Fault Refusal :=
  perLane (.selftestHbm h) (selftestBody (.selftestHbm h) 6) s
/-- selftest.scm (R373). -/
def execSelftestScm (h : Head) (s : State) : Host.Outcome State Fault Refusal :=
  perLane (.selftestScm h) (selftestBody (.selftestScm h) 7) s
/-- selftest.link (R373). -/
def execSelftestLink (h : Head) (s : State) : Host.Outcome State Fault Refusal :=
  perLane (.selftestLink h) (selftestBody (.selftestLink h) 8) s

/-- A test of a unit is still to come or running on it. -/
def State.unitTests (s : State) (u : Nat) : Bool := s.tests.any fun t => t.x < 2 && t.selector = u

/-- Two tests have a target in common (R374): the same unit; the same line, slot or slice, or one of them with all those of a core; the
same row, or one of a pseudo-channel whose bus lanes are tested; else the same selector. -/
def sameTarget (a b : RunningTest) : Bool :=
  let v := a.selector
  let w := b.selector
  if a.x < 2 && b.x < 2 then v = w
  else
    a.x = b.x &&
    match a.x with
    | 2 | 3 | 5 => v % 2 ^ 8 = w % 2 ^ 8 && (bit v 22 || bit w 22 || v = w)
    | 6 => v % 2 ^ 9 = w % 2 ^ 9 && (bit v 27 || bit w 27 || v = w)
    | _ => v = w

/-- The test is the first of its target that has not ended (R374). -/
def State.testFirst (s : State) (t : RunningTest) : Bool :=
  ((s.tests.find? (sameTarget t)).map RunningTest.serial) = some t.serial

/-- The lasting fault that a selftest finds is fenced (R371, R374). -/
def State.fenceTested (s : State) (x sel index : Nat) : State :=
  match x with
  | 0 => s.steer sel index
  | 1 => s.fenceUnit sel
  | 2 => s.addDefect 3 (sel % 256) (index % 2 ^ 14 / 32)
  | 3 => s.addDefect 4 (sel % 256) (index % 2 ^ 14)
  | 4 => s.fenceCore sel
  | 5 => (s.addDefect 5 (sel % 256) (if bit sel 22 then index % 128 else field sel 8 7)).fenceCore (sel % 256)
  | 6 =>
    let at_ := field sel 3 5 * 2 ^ 45 + field sel 8 1 * 2 ^ 44
    if bit sel 27 then s.addDefect 9 (sel % 8) (at_ + index % 128) else s.addDefect 8 (sel % 8) (at_ + field sel 9 18 * 2 ^ 22)
  | 7 => s.addDefect 11 (sel % 4) (field sel 2 28)
  | _ => (s.addDefect 10 (sel % 16) (field sel 4 4)).laneFails (sel % 16) (field sel 4 4)

/-- SELFTEST_COMPLETE: a test ends with its outcome: a lasting fault is fenced, and D receives the result (R374). -/
def execSelftestComplete (serial outcome index : Nat) (s : State) : Host.Outcome State Fault Refusal :=
  event (fun s =>
    match s.tests.find? fun t => t.serial = serial with
    | none => s
    | some t =>
      let ok := selectorOk t.x t.selector
      if !(s.testFirst t) || (t.x < 2 && ok && !(s.unitEmpty t.selector)) then s
      else
        let o := if ok then min 3 outcome else 3
        let i := if o = 1 || o = 2 then index % 2 ^ 20 else 0
        let s := if o = 2 then s.fenceTested t.x t.selector i else s
        let s : State := { s with tests := s.tests.filter fun q => q.serial ≠ serial }
        let s := if t.x < 2 && ok && !(s.unitTests t.selector) then
            s.setUnit t.selector { s.unit t.selector with emptying := false }
          else s
        s.setIncoming t.wid (o * 2 ^ 30 + t.x * 2 ^ 26 + i)) s

/-! ### Memory stacks (R375 to R377) -/

/-- A write of HBMCFG: the new split takes effect later (R375). -/
def State.writeHbmcfg (s : State) (v : Nat) : State :=
  { s with regs := { s.regs with hbmcfgNext := some (BitVec.ofNat 64 (v % 2 ^ 16)) } }

/-- HBMCFG_WRITE (R375). -/
def execHbmcfgWrite (value : Nat) (s : State) : Host.Outcome State Fault Refusal := event (fun s => s.writeHbmcfg value) s

/-- HBMCFG_TAKES_EFFECT (R375). -/
def execHbmcfgTakesEffect (s : State) : Host.Outcome State Fault Refusal :=
  event (fun s =>
    match s.regs.hbmcfgNext with
    | some v => { s with regs := { s.regs with hbmcfg := v, hbmcfgNext := none } }
    | none => s) s

/-- Some leaf entry below a table maps HBM. HBM is interleaved over all its stacks (R200), so the leaf maps each of them. -/
def tableHbm (m : List Host.Cell) : List Nat → Nat → Bool
  | [], _ => false
  | level :: rest, table =>
    (span 0 (2 ^ levelBits level)).any fun i =>
      let e := valueAt m (table + 8 * i) 8
      let l : Leaf := ⟨0, 2 ^ levelShift level, level, e⟩
      bit e 0 && (if bit e 1 then l.tier = 0 && !l.malformed else tableHbm m rest (field e 8 40 * 256))

/-- A stack goes into forced self-refresh: contexts that map it are frozen, but for those that software has frozen (R377). -/
def State.heat (s : State) (stack : Nat) : State :=
  if s.selfRefresh.contains stack then s
  else
    let s : State := { s with selfRefresh := s.selfRefresh ++ [stack] }
    s.contexts.foldl (fun s c =>
      if !(tableHbm s.memory [0, 1, 2, 3] c.2.root) then s
      else if s.freezeOrder.any fun f => f.2 = c.1 then { s with freezeOrder := s.freezeOrder ++ [(stack, c.1)] }
      else if c.2.frozen then s
      else { (s.freeze c.1).2 with freezeOrder := s.freezeOrder ++ [(stack, c.1)] }) s

/-- A stack leaves self-refresh: contexts that no other stack keeps frozen are thawed in the order they were frozen (R377). -/
def State.cool (s : State) (stack : Nat) : State :=
  let mine := (s.freezeOrder.filter fun f => f.1 = stack).map Prod.snd
  let rest := s.freezeOrder.filter fun f => f.1 ≠ stack
  let s : State := { s with selfRefresh := s.selfRefresh.filter fun x => x ≠ stack, freezeOrder := rest }
  mine.foldl (fun s a => if rest.any fun f => f.2 = a then s else (s.thaw a).2) s

/-- The temperature measured of a channel, in °C. -/
def State.tempOf (s : State) (stack chan : Nat) : Nat := Map.lookD s.temps (stack * 32 + chan) 0

/-- CHANNEL_TEMPERATURE_MEASURE (R376): a stack whose hottest channel reaches 95 °C is forced into self-refresh, and leaves
it when every channel is below 85 °C (R377). -/
def execChannelTemperatureMeasure (stack chan temp : Nat) (s : State) : Host.Outcome State Fault Refusal :=
  event (fun s =>
    if 8 ≤ stack || 32 ≤ chan then s
    else
      let s : State := { s with temps := Map.put 0 s.temps (stack * 32 + chan) (temp % 256) }
      if 95 ≤ temp % 256 then s.heat stack
      else if s.selfRefresh.contains stack && (span 0 32).all fun c => s.tempOf stack c < 85 then s.cool stack
      else s) s

/-! ### The Stitcher (R379) -/

/-- The value of STITCH: GO reads 1 as long as BUSY does (log 36). -/
def stitchWith (v status : Nat) (busy : Bool) : BitVec 64 :=
  BitVec.ofNat 64 (b2n busy * (2 ^ 63 + 2 ^ 62) + status % 8 * 2 ^ 59 + field v 24 35 * 2 ^ 24)

/-- A write of STITCH: GO starts a rebuild, of the regions, context and package written with it. While BUSY is 1 GO is ignored
(R379). -/
def State.writeStitch (s : State) (v : Nat) : State :=
  let old := s.regs.stitch.toNat
  let busy := bit old 62
  let go := bit v 63 && !busy
  { s with regs := { s.regs with
      stitch := stitchWith v (if go then 1 else field old 59 3) (go || busy), rebuild := if go then v else s.regs.rebuild } }

/-- STITCH (R379). -/
def execStitch (value : Nat) (s : State) : Host.Outcome State Fault Refusal := event (fun s => s.writeStitch value) s

/-- A rebuild whose writes have been handed over ends once they are performed (R305, R379). -/
def State.endRebuild (s : State) : State :=
  match s.regs.rebuilt with
  | none => s
  | some status =>
    if (s.opsOf .hub).isEmpty then
      { s with regs := { s.regs with stitch := stitchWith s.regs.stitch.toNat status false, rebuilt := none } }
    else s

/-- STITCH_COMPLETE: the regions of the lost package are rebuilt from its fragments, as a restore does (R305, R379). -/
def execStitchComplete (s : State) : Host.Outcome State Fault Refusal :=
  event (fun s =>
    let v := s.regs.rebuild
    if !(bit s.regs.stitch.toNat 62) then s
    else if s.regs.rebuilt.isSome then s.endRebuild
    else
      let (status, _, s) := s.restoreRun (field v 50 9) (field v 40 10) (field v 24 16)
      ({ s with regs := { s.regs with rebuilt := some status } } : State).endRebuild) s

/-! ### Voltage margining (R384) -/

/-- A measurement of a rail is refused: the rail is reserved, or a block is resident on its dies (R384). -/
def State.railRefused (s : State) (rail : Nat) : Bool :=
  11 ≤ rail || (rail < 8 && s.blocks.any fun b => b.2.onCore && dieOf b.2.core = rail % 4)

/-- The value of VMCTL: GO reads 1 as long as BUSY does (log 36). -/
def vmctlWith (v : Nat) (busy : Bool) : BitVec 64 :=
  BitVec.ofNat 64 (b2n busy * (2 ^ 63 + 2 ^ 62) + field v 48 14 * 2 ^ 48 + v % 2 ^ 32)

/-- A write of VMCTL: GO starts a measurement with the fields written with it, or is refused (R384). While BUSY is 1 GO is
ignored. -/
def State.writeVmctl (s : State) (v : Nat) : State :=
  let busy := bit s.regs.vmctl.toNat 62
  if busy || !(bit v 63) then { s with regs := { s.regs with vmctl := vmctlWith v busy } }
  else if s.railRefused (field v 58 4) then
    { s with regs := { s.regs with vmctl := vmctlWith v false, vmres := BitVec.ofNat 64 (2 ^ 63 + 2 ^ 61) } }
  else { s with regs := { s.regs with vmctl := vmctlWith v true, vmres := 0, raised := v } }

/-- VMCTL_GO (R384). -/
def execVmctlGo (value : Nat) (s : State) : Host.Outcome State Fault Refusal :=
  event (fun s => if bit value 63 then s.writeVmctl value else s) s

/-- VOLTAGE_MARGIN_COMPLETE: nothing is fenced or logged; a test that does not exist is refused (R373, R384). -/
def execVoltageMarginComplete (vmeas result : Nat) (s : State) : Host.Outcome State Fault Refusal :=
  event (fun s =>
    let v := s.regs.vmctl.toNat
    if !(bit v 62) then s
    else
      let x := field s.regs.raised 48 4
      let o := if x < 9 && selectorOk x (s.regs.raised % 2 ^ 32) then field result 30 2 else 3
      let r := o * 2 ^ 30 + x * 2 ^ 26 + (if o = 1 || o = 2 then result % 2 ^ 20 else 0)
      let res := 2 ^ 63 + b2n (o = 0) * 2 ^ 62 + vmeas % 2 ^ 16 * 2 ^ 32 + r
      { s with regs := { s.regs with vmctl := vmctlWith v false, vmres := BitVec.ofNat 64 res } }) s

/-! ### Start-up, clock, attestation (R380 to R382) -/

/-- STAGE. -/
def State.stage (s : State) : Nat := s.regs.bootstage.toNat % 16

/-- BOOT_STAGE_ADVANCE: the next stage, or with a reason 1 to 4 the halted stage (R380); full service releases the clock step
(R381). -/
def execBootStageAdvance (fail : Nat) (s : State) : Host.Outcome State Fault Refusal :=
  event (fun s =>
    if 3 ≤ s.stage || 4 < fail then s
    else if fail ≠ 0 then { s with regs := { s.regs with bootstage := BitVec.ofNat 64 (fail * 16 + 15) } }
    else
      let n := s.stage + 1
      let clk := s.regs.clkstep.toNat
      let clk := if n = 3 then clk - field clk 10 1 * 2 ^ 10 else clk
      { s with regs := { s.regs with bootstage := BitVec.ofNat 64 n, clkstep := BitVec.ofNat 64 clk } }) s

/-- CLOCK_STEP_CHANGE: the clock goes up or down by one step, between 3.3 GHz and FLOOR, once start-up holds it no longer
(R381). Cycles that have passed count at the step that they passed at. -/
def execClockStepChange (up therm power : Bool) (s : State) : Host.Outcome State Fault Refusal :=
  event (fun s =>
    let v := s.regs.clkstep.toNat
    if bit v 10 then s
    else
      let step := if up then v % 256 - 1 else min (field v 16 8) (v % 256 + 1)
      let w := field v 16 8 * 2 ^ 16 + b2n therm * 2 ^ 9 + b2n power * 2 ^ 8 + step
      { s with regs := { s.regs with clkstep := BitVec.ofNat 64 w, clkTicks := s.coreClock, clkSince := s.timebase.toNat } }) s

/-- The header of a defect map (R383). -/
def mapHeader (l : List (BitVec 64)) : Nat :=
  l.length % 2 ^ 16 * 2 ^ 48 + 2 ^ 40 + (l.map fun e => e.toNat % 2 ^ 32 + e.toNat / 2 ^ 32).sum % 2 ^ 32

/-- The bytes of a defect map. -/
def mapBytes (l : List (BitVec 64)) : List Byte := toBytes 8 (mapHeader l) ++ l.flatMap fun e => toBytes 8 e.toNat

/-- HBMCFG as it reads: HALF is all ones in the reduced stage (R375, R380). -/
def State.hbmcfgRead (s : State) : Nat := (if s.stage = 2 then 0xFF0000 else 0) + s.regs.hbmcfg.toNat % 2 ^ 16

/-- ATTESTATION_REQUEST: nonce, digests of the running firmware images, of both defect maps and of HBMCFG, and their
signature (R382, log 17). -/
def execAttestationRequest (nonce : List Byte) (s : State) : Host.Outcome State Fault Refusal :=
  event (fun s =>
    if nonce.length ≠ 32 || s.stage = 0 || s.stage = 15 then s
    else
      let body := nonce ++ Config.firmwareDigests s.stage ++ sm3 (mapBytes s.fusedMap) ++ sm3 (mapBytes s.serviceMap) ++
        sm3 (toBytes 8 s.hbmcfgRead)
      s.send (.report (body ++ Config.sm2Sign body))) s

/-! ### Reset and loss of power (R287, R288, R292, R380, R395) -/

/-- The module leaves reset with the storage-class tier holding some bytes: start-up begins at stage 0, HBM and everything on
the dies is lost, and what the tier, the maps and the log of the last power loss hold stays. -/
def State.startUp (s : State) (tier : List Host.Cell) (lost : Nat) : State :=
  { State.reset with
      agenda := s.agenda, tick := s.tick, serial := s.serial, pkg := s.pkg, domain := s.domain
      memory := tier, scm := tier, hostMemory := s.hostMemory, fragments := s.fragments, stableSlots := s.stableSlots
      poison := s.poison.filter fun p => isScm (32 * p.1)
      outbox := s.outbox, fusedMap := s.fusedMap, serviceMap := s.serviceMap
      regs := { Regs.reset with pstat := BitVec.ofNat 64 (lost * 2 ^ 61) } }

/-- What memory holds of the storage-class tier. -/
def scmOf (m : List Host.Cell) : List Host.Cell := m.filter fun c => isScm c.1

/-- MODULE_RESET: with power on, the tier holds every write that has been performed (log 38). -/
def execModuleReset (s : State) : Host.Outcome State Fault Refusal :=
  event (fun s => s.startUp (scmOf s.memory) (field s.regs.pstat.toNat 61 2)) s

/-- The entries of the queues in drain order: by package epoch, then in the order in which they entered, which is that of each
queue and of each granule (R238, R292, R295). -/
def State.drainOrder (s : State) : List WbEntry :=
  let all := (s.wbqs.flatten.foldl (fun (m : Map WbEntry) e => Map.ins m e.no e) []).map Prod.snd
  let epochs := (all.foldl (fun (m : Map Unit) e => Map.ins m e.epoch ()) []).map Prod.fst
  epochs.flatMap fun n => all.filter fun e => e.epoch = n

/-- A word of the tier is the target of a persist write that has not been drained, or that is in no queue and so is lost (R292). -/
def State.touched (s : State) (l : List WbEntry) (g : Nat) : Bool :=
  (l.any fun e => (granulesOf e.pa e.bytes.length).contains g) ||
  (s.ops.filter s.persists).any fun x => x.pieces.any fun p => (granulesOf p.pa p.n).contains g

/-- POWER_FAIL: `drained` entries enter the stacks in drain order before the reserve ends; of words that only writes of
persist domain 0 have reached, those in `kept` hold the last value performed and the others the value in the stacks; then
the module is without power, and starts again (R288, R292, R395, log 38). -/
def execPowerFail (drained : Nat) (kept : List Nat) (s : State) : Host.Outcome State Fault Refusal :=
  event (fun s =>
    let order := s.drainOrder
    let tier := (order.take drained).foldl (fun m e => putBytes m e.pa e.bytes) s.scm
    let tier := kept.foldl (fun m g =>
      if isScm (32 * g) && !(s.touched (order.drop drained) g) then putBytes m (32 * g) (bytesAt s.memory (32 * g) 32) else m) tier
    s.startUp (scmOf tier) (if order.length ≤ drained then 2 else 1)) s

end Sys2Proof.Machine
end

