-- ==== Sys2Proof/Machine/Issue.lean ====
section
/-! DEFINITION. Issue: which threads are ready (R43, R71, R129, R210), which group and which of its threads issue
(R44, R45), and what a fetch that faults and an illegal encoding do (R13, R28). -/

namespace Sys2Proof.Machine

/-- What stands at a thread's issue point. -/
inductive AtPc
  | instr (i : Instr) (words : List Nat)
  | illegal (detail : Nat) (words : List Nat)
  | fault (reason level entry base size va : Nat)
  | ask (pa : Nat) (leaf : Leaf)
  deriving DecidableEq, Repr

/-- Fetch and decode at a thread's issue point (R13, R28, R62). -/
def State.atPc (s : State) (k : Nat) (t : Thread) : AtPc :=
  match s.fetchAt k t with
  | .fault r l e b z v => .fault r l e b z v
  | .ask pa l => .ask pa l
  | .words ws =>
    match rawAt t ws with
    | none => .illegal 0x01 []
    | some raw =>
      match raw.instr with
      | .ok i => .instr i raw.extWords
      | .error d => .illegal d raw.extWords

/-- A thread is ready to issue what stands at its issue point (R43): its sources are written, there is room for its incoming writes
(R129), the accesses and the answers that come before it are there (R192, R231), the words that its code still needs have not been
asked for, and nothing holds it. -/
def State.ready (s : State) (k : Nat) (t : Thread) : Bool :=
  match t.hold with
  | .none =>
    match s.atPc k t with
    | .instr i _ =>
      !(t.walk.isSome && heldByWalk i) && !(i.sources.any t.pending.contains) && !(t.writesFull i) && !(s.orderHeld t i) &&
      !(s.harnessHeld t i)
    | .ask pa l => !(s.codeAsked (s.launchOf k) pa l)
    | .illegal .. | .fault .. => true
  | _ => (s.dueAction k t).isSome

/-- Ready threads of a group, in ascending lane order. -/
def State.readyThreads (s : State) (g : Nat) : List (Nat × Thread) :=
  s.threads.filter fun p => groupOf p.1 = g && s.ready p.1 p.2

/-- Issue point: program counter and REPEAT state (R45). -/
def issuePoint (t : Thread) : Nat × Option (Nat × Nat × Nat) :=
  (t.pc.toNat, t.rep.map fun r => (r.addr, r.pass, r.count))

/-- The least-recently-issued of some threads, the first listed among equals (R45). -/
def oldestThread : List (Nat × Thread) → Option (Nat × Thread)
  | [] => none
  | p :: l =>
    match oldestThread l with
    | none => some p
    | some q => if q.2.lastTurn < p.2.lastTurn then some q else some p

/-- Groups of a unit, by slot. -/
def State.unitGroups (s : State) (u : Nat) : List (Nat × Group) := s.groups.filter fun p => p.1 / 16 = u

/-- The group that has gone longest without issuing, the first listed among equals (R44). -/
def oldestGroup : List (Nat × Group) → Option (Nat × Group)
  | [] => none
  | p :: l =>
    match oldestGroup l with
    | none => some p
    | some q => if q.2.lastIssue < p.2.lastIssue then some q else some p

/-- The group of a unit that issues next (R44); a group whose last instruction was a yield stands back once (R59). -/
def State.pickGroup (s : State) (u : Nat) : Option (Nat × Group) :=
  let l := (s.unitGroups u).filter fun p => !(s.readyThreads p.1).isEmpty
  let l' := l.filter fun p => !(p.2.yielded && p.2.lastIssue = (s.unit u).turn)
  if l'.isEmpty then oldestGroup l else oldestGroup l'

/-- Threads that issue at this turn of a group: the least-recently-issued ready thread, and every ready thread at its
issue point (R45). -/
def State.pickThreads (s : State) (g : Nat) : List (Nat × Thread) :=
  let l := s.readyThreads g
  match oldestThread l with
  | none => []
  | some p => l.filter fun q => issuePoint q.2 = issuePoint p.2

/-- What a SIMD unit does with its issue turn, up to running a decoded instruction. -/
inductive Turn
  | done (s : State)
  | run (i : Instr) (s : State)
  deriving DecidableEq, Repr

/-- A group's issue turn begins, under the number of its cycle: recency moves on, and a REPEAT body still to be fetched is (R44, R45,
R64). -/
def State.beginTurn (s : State) (u g cycle : Nat) (ks : List Nat) : State :=
  let s := s.setUnit u { s.unit u with turn := cycle }
  let s := s.updGroup g fun x => { x with lastIssue := cycle, turn := x.turn + 1, yielded := false }
  let turn := ((s.groups.look g).map Group.turn).getD 0
  ks.foldl (fun s k => s.updThread k fun t => { t with lastTurn := turn, rep := t.rep.map (s.capture k) }) s

/-- Asynchronous parks come one instruction nearer, and those that are due take effect (R79); the units that parked in the turn
settle (R138). -/
def State.endTurn (s : State) (ks : List Nat) (cycle : Nat) : State :=
  (ks.foldl (fun (s : State) k =>
      (s.updThread k fun t => { t with park := t.park.map fun a => { a with left := a.left - 1 } }).settleAsync k cycle)
    { s with issuing := none }).settleCycle cycle

/-- Each issuing thread's block has issued one more instruction (R349). -/
def State.countIssued (s : State) (ks : List Nat) : State :=
  ks.foldl (fun s k =>
    match s.thread? k with
    | some t => s.updBlock t.bid fun b => { b with issued := b.issued + 1 }
    | none => s) s

/-- A SIMD unit takes its issue turn (R44, R45): first actions still due come first (R142); then the fetched
instruction, the fault of its fetch, the request for a word of code that a peer holds, or the illegal-instruction trap in every
issuing thread (R13, R28, R314). A halted device and a power-gated core issue nothing (R196, R380). -/
def State.takeTurn (s : State) (u : Nat) : Turn :=
  match if s.stage = 15 || (s.core (u / 4)).gated then none else s.pickGroup u with
  | none => .done s
  | some (g, _) =>
    let picked := s.pickThreads g
    let ks := picked.map Prod.fst
    let (cycle, s') := s.fresh
    let s' := s'.beginTurn u g cycle ks
    let s' := { s' with issuing := some ⟨g, [], cycle, []⟩ }
    let due := picked.filterMap fun p => (s.dueAction p.1 p.2).map fun d => (p.1, d.1, d.2)
    let s' := due.foldl (fun s d => s.complete d.1 d.2.1 d.2.2) s'
    let rest := picked.filter fun p => p.2.hold = .none
    match rest with
    | [] => .done (s'.endTurn ks cycle)
    | (k, t) :: _ =>
      let fresh := rest.map Prod.fst
      match s.atPc k t with
      | .ask pa l => .done ((s'.askCode (s.asidOf k) (s.launchOf k) pa l).endTurn [] cycle)
      | .fault r l e b z v => .done ((s'.fetchFault fresh cycle r l e b z v).endTurn ks cycle)
      | .illegal d ws =>
        let s' := { s' with issuing := some ⟨g, fresh, cycle, ws⟩ }
        .done ((fresh.foldl (fun s k => s.trap k 0x01 d 0) s').endTurn ks cycle)
      | .instr i ws => .run i { s'.countIssued fresh with issuing := some ⟨g, fresh, cycle, ws⟩ }

/-- The end of a turn in which an instruction ran. -/
def State.closeTurn (s : State) : State :=
  match s.issuing with
  | none => s
  | some g => s.endTurn g.threads g.cycle

end Sys2Proof.Machine
end

