-- ==== Sys2Proof/Machine/Registers.lean ====
section
/-! DEFINITION. The control registers (R365, R366): which there are, who may read and write them, what a read returns and what
a write does, for csrr and csrw and for the host. -/

namespace Sys2Proof.Machine

/-- The class of an access (R366). -/
inductive Class
  | user
  | handler
  | system
  | never
  deriving DecidableEq, Repr

/-- The classes of a register for reading and writing; none for an unassigned number (R366). -/
def regClass (n : Nat) : Option (Class × Class) :=
  if n = 0x000 then some (.handler, .handler)
  else if n ≤ 0x004 then some (.handler, .never)
  else if 0x010 ≤ n && n ≤ 0x012 then some (.user, .never)
  else if n = 0x100 then some (.user, .never)
  else if n = 0x201 then some (.never, .system)
  else if n = 0x203 then some (.user, .system)
  else if 0x200 ≤ n && n ≤ 0x207 then some (.system, .system)
  else if n = 0x208 then some (.system, .never)
  else if 0x300 ≤ n && n ≤ 0x30F then some (.user, .never)
  else if n = 0x310 then some (.system, .system)
  else if n = 0x311 then some (.system, .never)
  else if n = 0x400 || n = 0x401 then some (.user, .never)
  else if 0x410 ≤ n && n ≤ 0x4FF then some (.system, .system)
  else none

/-- A thread meets a class (R366). -/
def State.meets (s : State) (k : Nat) (t : Thread) : Class → Bool
  | .user => true
  | .handler => t.priv
  | .system => t.priv && ((s.ctx? (s.asidOf k)).map Context.sys).getD false
  | .never => false

/-- The detail of the control-register trap of a read (R366). -/
def State.readTrap (s : State) (k : Nat) (t : Thread) (n : Nat) : Option Nat :=
  match regClass n with
  | none => some 0x01
  | some (r, _) => if s.meets k t r then none else some 0x03

/-- The detail of the control-register trap of a write (R366). -/
def State.writeTrap (s : State) (k : Nat) (t : Thread) (n : Nat) : Option Nat :=
  match regClass n with
  | none => some 0x01
  | some (_, .never) => some 0x02
  | some (_, w) => if s.meets k t w then none else some 0x03

/-- THDATA: the temperatures of the channels that THSEL selects (R376). -/
def State.thdata (s : State) : Nat :=
  let v := s.regs.thsel.toNat
  ((span 0 8).map fun i => s.tempOf (field v 2 3) (8 * (v % 4) + i) * 2 ^ (8 * i)).sum

/-- DEFDATA: entry 0 is the header, an index beyond the map reads zero (R383). -/
def State.defdata (s : State) : Nat :=
  let v := s.regs.defsel.toNat
  let l := if bit v 16 then s.serviceMap else s.fusedMap
  match v % 2 ^ 16 with
  | 0 => mapHeader l
  | n + 1 => ((l[n]?).map BitVec.toNat).getD 0

/-- What a platform register returns that the table of R366 assigns and no rule describes, 0x41B to 0x4FF: a free value (log 66). -/
def State.freePair (s : State) : Nat × State :=
  (ofBytes ((span 0 8).map fun i => Config.freeByte s.tick i), { s with tick := s.tick + 1 })

/-- The value of a register that belongs to the package, and what reading it leaves: a log loses its oldest entry (R366). -/
def State.readPackage (s : State) (n : Nat) : Nat × State :=
  let r := s.regs
  match n with
  | 0x010 => (s.timebase.toNat, s)
  | 0x200 => (r.tlbinv.toNat, s)
  | 0x202 => (r.deadsig.toNat, s)
  | 0x203 => (r.pstat.toNat, s)
  | 0x204 => (r.rstctl.toNat, s)
  | 0x205 => (r.ctxbase.toNat, s)
  | 0x206 => (r.ctxctl.toNat, s)
  | 0x207 => (r.prectl.toNat, s)
  | 0x208 => (r.prestat.toNat, s)
  | 0x310 => (r.tlmctl.toNat, s)
  | 0x311 => (r.tlmres.toNat, s)
  | 0x400 => (r.clkstep.toNat, s)
  | 0x401 => (r.bootstage.toNat, s)
  | 0x410 => ((popLog s.arrlog).1.toNat, { s with arrlog := (popLog s.arrlog).2 })
  | 0x411 => ((popLog s.xfrlog).1.toNat, { s with xfrlog := (popLog s.xfrlog).2 })
  | 0x412 => (s.hbmcfgRead, s)
  | 0x413 => (r.thsel.toNat + (s.selfRefresh.map fun x => 2 ^ (8 + x % 8)).sum, s)
  | 0x414 => (s.thdata, s)
  | 0x415 => ((popLog s.faillog).1.toNat, { s with faillog := (popLog s.faillog).2 })
  | 0x416 => (r.stitch.toNat, s)
  | 0x417 => (r.defsel.toNat, s)
  | 0x418 => (s.defdata, s)
  | 0x419 => (r.vmctl.toNat, s)
  | 0x41A => (r.vmres.toNat, s)
  | _ => if 0x41B ≤ n then s.freePair else (if 0x300 ≤ n && n ≤ 0x30F then (s.port (n - 0x300)).status else 0, s)

/-- The value of a register as a thread reads it (R366): registers of its own, of its core, or of the package. -/
def State.readRegister (s : State) (k : Nat) (t : Thread) (n : Nat) : Nat × State :=
  match n with
  | 0x000 => (t.tepc.toNat, s)
  | 0x001 => (t.tcause.toNat, s)
  | 0x002 => (t.tinfo.toNat, s)
  | 0x003 => (t.tinsta.toNat, s)
  | 0x004 => (t.tinstb.toNat, s)
  | 0x011 => (coreOf k + s.pkg % 1024 * 2 ^ 8, s)
  | 0x012 => (s.asidOf k, s)
  | 0x100 => ((s.core (coreOf k)).lret.toNat, s)
  | _ => s.readPackage n

/-- A write of a register of the package (R366); fields that a write does not change, and registers without a writable
field, stay as they are (R8). -/
def State.writePackage (s : State) (n v : Nat) : State :=
  let r := s.regs
  match n with
  | 0x200 => s.writeTlbinv v
  | 0x201 => s.writeTres v
  | 0x202 => if bit v 63 then { s with regs := { r with deadsig := BitVec.ofNat 64 (r.deadsig.toNat % 2 ^ 63) } } else s
  | 0x203 =>
    if bit v 61 then
      let w := r.pstat.toNat
      { s with regs := { r with pstat := BitVec.ofNat 64 (w - field w 61 1 * 2 ^ 61) } }
    else s
  | 0x204 => s.writeRstctl v
  | 0x205 => { s with regs := { r with ctxbase := BitVec.ofNat 64 v } }
  | 0x206 => s.writeCtxctl v
  | 0x207 => s.writePrectl v
  | 0x310 => s.writeTlmctl v
  | 0x412 => s.writeHbmcfg v
  | 0x413 => { s with regs := { r with thsel := BitVec.ofNat 64 (v % 32) } }
  | 0x416 => s.writeStitch v
  | 0x417 => { s with regs := { r with defsel := BitVec.ofNat 64 (v % 2 ^ 17) } }
  | 0x419 => s.writeVmctl v
  | _ => s

/-- csrr in one thread (R365). -/
def csrrBody (i : Instr) (num : Nat) (h : Head) (k : Nat) (t : Thread) (s : State) : State :=
  match s.readTrap k t num with
  | some d => s.trap k 0x0D d num
  | none =>
    let (v, s) := s.readRegister k t num
    s.setThread k (t.finish i h { d := v })

/-- csrr (R365). -/
def execCsrr (h : Head) (num : Nat) (s : State) : Host.Outcome State Fault Refusal :=
  perLane (.csrr h num) (csrrBody (.csrr h num) num) s

/-- csrw in one thread: a release of its earlier accesses at SYSTEM scope, then the write (R365). -/
def csrwBody (i : Instr) (num : Nat) (h : Head) (k : Nat) (t : Thread) (s : State) : State :=
  match s.writeTrap k t num with
  | some d => s.trap k 0x0D d num
  | none =>
    let v := t.rd h.a 64
    s.releasing k t.bid fun s =>
      let s := s.setThread k (t.next (lenOf i))
      if num = 0x000 then s.updThread k fun t => t.writeTepc v else s.writePackage num v

/-- csrw (R365). -/
def execCsrw (h : Head) (num : Nat) (s : State) : Host.Outcome State Fault Refusal :=
  perLanePark (.csrw h num) (csrwBody (.csrw h num) num) s

/-- REGISTER_WRITE: the host writes a register from 0x200 upward through BAR 0 (R366). -/
def execRegisterWrite (num value : Nat) (s : State) : Host.Outcome State Fault Refusal :=
  event (fun s => if 0x200 ≤ num then s.writePackage num (value % 2 ^ 64) else s) s

end Sys2Proof.Machine
end

