-- ==== Sys2Proof/Machine/Mover.lean ====
section
/-! DEFINITION. Who moves: the agenda; else a SIMD unit that is ready; else the first step of the device that is due (log 1,
log 7). -/

namespace Sys2Proof.Machine

/-- A step of the device as a function of the state. -/
abbrev DeviceStep := State → Host.Outcome State Fault Refusal

/-- SIMD units that have a ready group. -/
def State.readyUnits (s : State) : List Nat :=
  ((s.groups.map fun p => p.1 / 16).eraseDups).filter fun u => (s.pickGroup u).isSome

/-- Of some units, the one that has had the fewest issue turns, the first among equals (log 7). -/
def leastTurns (s : State) : List Nat → Option Nat
  | [] => none
  | u :: l =>
    match leastTurns s l with
    | none => some u
    | some v => if (s.unit v).turn < (s.unit u).turn then some v else some u

/-- Lanes of a group whose threads pass a test. -/
def State.lanesWith (s : State) (g : Nat) (f : Thread → Bool) : List Nat :=
  (s.threads.filter fun p => groupOf p.1 = g && f p.2).map fun p => laneOf p.1

/-- Steps that threads and records wait for. -/
def State.threadSteps (s : State) : List DeviceStep :=
  (s.walks.map fun w => execWalkComplete w.x.no) ++
  (s.threads.flatMap fun p => p.2.incoming.filterMap fun i => i.data.map fun _ => execIncomingWriteComplete i.wid) ++
  (s.records.flatMap fun p => p.2.incoming.filterMap fun i =>
    if p.2.awaits i && i.data.isSome then some (execIncomingWriteComplete i.wid) else none) ++
  (s.groups.map fun g => execMissStatusReplay g.1 (s.lanesWith g.1 fun t => t.hold = .replay)) ++
  (s.threads.filterMap fun p => if p.2.hold = .checkPoint then some (execPairedCheckPoint p.2.bid p.2.lin) else none) ++
  (s.groups.map fun g => execPendingRegisterPark g.1 (s.lanesWith g.1 fun t => t.hold = .none)) ++
  (s.records.map fun r => execTimeEventExpiry r.1) ++ (s.records.map fun r => execWatchedWordEvaluate r.1) ++
  (s.contexts.map fun c => execFaultQueueSpace c.1)

/-- Steps of the larder, the engines, the arrays and the tier. -/
def State.engineSteps (s : State) : List DeviceStep :=
  (s.lrenews.map fun p => execLrenewComplete p.serial) ++ (s.sflushes.map fun p => execSflushComplete p.serial) ++
  (s.freed.map fun f => execLfreeUnitsRelease f.serial) ++
  (s.lines.filterMap fun l => if l.2.fetching then some (execStashFetchComplete (l.1 / 16384) (l.1 % 16384)) else none) ++
  (s.blocks.flatMap fun b => b.2.allocs.map fun a => execAllocationExpiry b.1 a.base) ++
  (s.queuesMat.flatMap fun q => [execMatrixOpStart q.1, execMmaKStep q.1, execMatrixOpEnd q.1]) ++
  (s.copies.map fun c => execCopyRequestEnd c.serial) ++
  (s.swaps.flatMap fun w => [execPublishSwapStart w.serial, execPublishSwapComplete w.serial]) ++
  ((span 0 4).flatMap fun d => [execWbqRoomWrite d, execWbqDrainEntry d]) ++ (s.pfences.map fun p => execPfenceComplete p.serial) ++
  (s.captures.flatMap fun c =>
    execChunkCaptureLagExpiry c.asid c.region :: ((s.waitingWrites.filterMap fun pa => s.chunkOf c pa).map fun k => execChunkCaptureOnWrite c.asid c.region k) ++
    (span 0 (regChunks (s.regionEntry c.asid c.region))).map fun k => execChunkCaptureComplete c.asid c.region k) ++
  (s.digests.map fun d => execDigestComplete d.serial false) ++ (s.collLoads.map fun c => execCollLoadComplete c.serial) ++
  (s.runs.flatMap fun r => (span 0 r.counters.length).map fun i => execCollectiveNodeComplete r.serial i) ++
  (s.repartIssues.filterMap fun r =>
    if !r.accepted && s.isHome r.asid then
      some (execRepartDescriptorArrival r.asid s.pkg (((s.blocks.look r.bid).map Block.handle).getD 0) r.descriptor r.serial)
    else none) ++
  (s.contexts.flatMap fun c => c.2.reparts.flatMap fun g => [execRepartOperationStart c.1 g.1, execRepartOperationEnd c.1 g.1 false]) ++
  (s.repartIssues.filterMap fun r => if r.fate.isSome then some (execRepartOperationEnd r.asid (rdGrp r.descriptor) false) else none)

/-- A core for the second copy of a paired block on a core, if it is paired (R368). -/
def State.secondFor (s : State) (lid : Nat) (l : Launch) (core : Nat) : List Nat :=
  if l.hdr.paired then (((span (core / 48 * 4) 4).filter fun c => c ≠ core / 12).flatMap (s.able lid l.hdr)).take 1 else []

/-- The cores of a hardware cluster that can start the next cluster of a launch, with second cores for a paired one. -/
def State.startCores (s : State) (lid : Nat) (l : Launch) (cl : Nat) : List Nat :=
  let n := pkCsz l.packet
  let first := (s.able lid l.hdr cl).take n
  let second := (((span (cl / 4 * 4) 4).map fun c => if c = cl then [] else s.able lid l.hdr c).find? fun x => n ≤ x.length).getD []
  if l.hdr.paired then first ++ second.take n else first

/-- Steps of the dispatcher. -/
def State.dispatchSteps (s : State) : List DeviceStep :=
  (s.cores.flatMap fun p => if p.2.launching.isEmpty then [] else (span 0 4).map fun u => execGroupAdmission p.1 u) ++
  (s.blocks.flatMap fun p => if p.2.waiting.isEmpty then [] else (span 0 4).map fun u => execGroupAdmission p.2.core u) ++
  (s.cores.flatMap fun p => p.2.bins.map fun b => execCrockTimerExpiry p.1 b.1) ++
  (s.blocks.flatMap fun b => [execBlockRetire b.1, execBlockSaveComplete b.1, execDeferredSave b.1, execDrainlimExpiry b.1]) ++
  [execSuccessorEnqueue] ++ (s.launches.map fun l => execLaunchCompletionSignal l.1) ++
  (s.packets.flatMap fun p =>
    [execLaunchPacketGrid p.serial, execLaunchPacketMask p.serial, execTaskRecord p.serial, execQueueCopy p.serial]) ++
  (s.blocks.flatMap fun b =>
    if b.2.state = .flushed then (span 0 192).map fun c => execFlushedBlockRestart b.1 c else []) ++
  (s.saved.flatMap fun x => (span 0 192).map fun c => execBlockRestore x.1 c) ++
  (s.launches.flatMap fun l =>
    if l.2.todo.isEmpty then []
    else if l.2.kind = .mask then l.2.todo.map fun q => execBlockStart l.1 (q.2 :: s.secondFor l.1 l.2 q.2)
    else (span 0 16).map fun cl => execBlockStart l.1 (s.startCores l.1 l.2 cl)) ++
  (s.launches.flatMap fun l => if l.2.todo.isEmpty then [] else s.blocks.map fun b => execDispatcherPreempt l.1 b.1) ++
  (s.contexts.flatMap fun c => c.2.queues.flatMap fun q => [execQueuePacketTake c.1 q, execQueueDeadlockDetect c.1 q]) ++
  (s.cores.filterMap fun c => if c.2.gated then some (execPowerGatedCoreWake c.1) else none)

/-- Steps of the hub die. -/
def State.hubSteps (s : State) : List DeviceStep :=
  [execTlbinvComplete, execRestoreComplete, execStitchComplete, execHbmcfgTakesEffect] ++
  (s.tests.map fun t => execSelftestComplete t.serial 0 0) ++
  ((span 0 16).flatMap fun n => (span 0 6).flatMap fun c =>
    let k := (s.port n).cls c
    (if k.ackDue.isSome then [execAckOnlyTimeout n c] else []) ++ (if k.busy.isSome then [execBusyResend n c] else []) ++
    (if k.replay = [] then [] else [execReplayTimeout n c])) ++
  ((span 0 16).filterMap fun n => if (s.port n).retraining then some (execRetrainComplete n) else none) ++
  ((s.domain.filter fun p => p ≠ s.pkg && !(s.failed.contains p)).flatMap fun p =>
    [execPortSilent (Config.portOf p % 16) p, execSwitchGroupTimeout p, execDomainTimeout p])

/-- The package's own pending steps, in the order in which they are taken when the agenda names nothing and no unit is
ready (log 7). -/
def State.pendingSteps (s : State) : List DeviceStep :=
  s.threadSteps ++ s.engineSteps ++ s.dispatchSteps ++ s.hubSteps

/-- A step would change the state, but for its counters. -/
def State.due (s : State) (f : DeviceStep) : Bool :=
  match f s with
  | .next t => { t with serial := s.serial, tick := s.tick } ≠ s
  | _ => false

/-- Who moves. -/
inductive Mover
  /-- what the agenda names -/
  | act (a : Act)
  /-- a step of the package of its own -/
  | step (f : DeviceStep)
  | nobody

/-- The issue turn that is next: of the units that are ready, the one with the fewest turns. -/
def State.nextIssue (s : State) : Option Mover :=
  (leastTurns s s.readyUnits).map fun u => .act (.issue (u / 4) (u % 4))

/-- The first pending step of the package that is due. -/
def State.nextDue (s : State) : Option Mover := (s.pendingSteps.find? s.due).map .step

/-- What moves next: the head of the agenda; with none, issue turns and pending steps of the package take turns by the tick,
and the one that has nothing to do gives way (log 1, log 7). Time passes by the nanoseconds the agenda names, or by an
unnamed amount (log 2). -/
def State.nextMove (s : State) : Mover × Nat × State :=
  match s.agenda with
  | m :: rest => (.act m.act, m.ns, { s with agenda := rest })
  | [] =>
    let own := if s.tick % 2 = 0 then s.nextIssue <|> s.nextDue else s.nextDue <|> s.nextIssue
    (own.getD .nobody, Config.elapse s.tick, { s with tick := s.tick + 1 })

/-- The device time some nanoseconds later (R6). -/
def State.later (s : State) (ns : Nat) : State := { s with timebase := s.timebase + BitVec.ofNat 64 ns }

/-- Time passes after a step, and the larders' lines age with it, by the microsecond (R6, R153, R160); queues that are stuck are noted
(R356). -/
def State.passes (s : State) (ns : Nat) : State :=
  let t := s.noteStalls.later ns
  if t.now = s.now then t else t.ageLarders s.now

end Sys2Proof.Machine
end

