-- ==== Sys2Proof/Machine/Boot.lean ====
section
/-! DEFINITION. Placing a program from outside (log 6): storing words where a thread fetches its next instruction, and,
where no thread is resident, the least environment in which one fetches and runs them. -/

namespace Sys2Proof.Machine

/-- Store one 32-bit word where a core's fetch of a virtual address for a launch reads it; nothing where it reads nothing. -/
def State.placeWord (s : State) (core asid launch va w : Nat) : State :=
  match s.coreWalk core asid va .fetch with
  | .fault .. => s
  | .leaf l =>
    let pa := l.pa va (s.leafHalf asid l)
    if 2 ≤ s.spaceOf l then { s with code := ⟨launch, l.peer, pa, w⟩ :: s.code }
    else if l.tier = 3 then { s with hostMemory := putBytes s.hostMemory pa (toBytes 4 w) }
    else { s with memory := putBytes s.memory pa (toBytes 4 w) }

/-- Store the five words of an instruction whose bits are `v` at a virtual address. -/
def State.placeWords (s : State) (core asid launch va v : Nat) : State :=
  (span 0 5).foldl (fun s i => s.placeWord core asid launch (va + 4 * i) (field v (32 * i) 32)) s

/-- A context with nothing in it. -/
def Context.blank : Context :=
  { root := 0, qbase := 0, psbase := 0, trbase := 0, ovbase := 0, ovsize := 0, svbase := 0, svsize := 0, fqbase := 0
    fqlog2n := 4, fqvec := 0, draint := 0, flusht := 0, drainlim := 0, crtime := 0, home := 0, sys := true
    frozen := false, preempted := false, leaving := false, saveFull := false, saves := 0, savePages := []
    ovFault := false, fqwidx := 0, queues := [], stalled := [], deadlocked := [], harness := [], reparts := [], graphs := []
    runCounts := [] }

/-- A kernel that declares 248 registers and has no handler. -/
def Header.blank : Header :=
  { addr := 0x10F000, entry := 0x110000, handler := 0, dump := 0, expect := 0, regs := 248, larder := 0, preload := 0
    idem := false, paired := false, mayPre := false }

/-- A launch of one block of one thread. -/
def Launch.blank : Launch :=
  { asid := 0, queue := 0, prio := 0, slot := 0, index := 0, kind := .grid, packet := 0, hdr := Header.blank, template := 0, todo := []
    cores := [], total := 1, ended := 0, failed := 0, fenceFault := false }

/-- The block of that thread. -/
def Block.blank : Block :=
  { asid := 0, launch := 1, core := 0, handle := 1, linear := 0, stage := 0, pre := [], succ := [], failed := false
    threads := 1, issued := 0, alive := 1, waiting := [], allocs := [], pairing := none
    state := .running, byPre := false }

/-- Page-table entries that map one 64 KiB page at 0x0011_0000 of a context whose root is 0x0001_0000 (R201, R202): a
page of scope PKG in HBM that may be read, written and executed. -/
def bootTables : List (Nat × Nat) :=
  [(0x10000, 0x20001), (0x20000, 0x21001), (0x21000, 0x22001), (0x22000 + 8 * 17, 2 ^ 62 + 0x30000 + 0x33)]

/-- The least environment in which a thread runs: a live context, one mapped page, and one group with one thread, on
core 0, unit 0, slot 0, at the first byte of the page (log 6). -/
def State.bringUp (s : State) : State :=
  { s with
      memory := bootTables.foldl (fun m e => putBytes m e.1 (toBytes 8 e.2)) s.memory
      contexts := s.contexts.ins 0 { Context.blank with root := 0x10000 }
      launches := s.launches.ins 1 Launch.blank
      blocks := s.blocks.ins 1 Block.blank
      groups := [(0, ⟨0, Header.blank, 0, 0, false⟩)]
      threads := [(0, Thread.fresh 0x110000 0 1)]
      cores := s.cores.del 0
      units := s.units.del 0
      walkCaches := []
      regs := { s.regs with bootstage := 3 } }

/-- The unit, core, address space, launch and address of the instruction that issues next if `u` takes its turn; none where no
thread of it would issue a word of memory. -/
def State.fetchPoint (s : State) (u : Nat) : Option (Nat × Nat × Nat × Nat × Nat) :=
  match s.pickGroup u with
  | none => none
  | some (g, _) =>
    match s.pickThreads g with
    | [] => none
    | (k, t) :: _ =>
      if t.hold = .none && t.rep.isNone then some (u, coreOf k, s.asidOf k, s.launchOf k, t.pc.toNat) else none

/-- The SIMD unit whose turn comes next, when a unit is sure to move next. -/
def State.nextUnit (s : State) : Option Nat :=
  match s.agenda with
  | ⟨_, .issue c u⟩ :: _ => some (4 * c + u)
  | _ :: _ => none
  | [] => if s.tick % 2 = 0 then leastTurns s s.readyUnits else none

/-- Store an instruction where the next step fetches it: for the unit that moves next; else for a ready unit, whose turn
the agenda then names; else in the least environment in which a thread runs (log 6). -/
def State.placeNext (s : State) (v : Nat) : State :=
  match s.nextUnit.bind s.fetchPoint with
  | some (_, core, asid, launch, va) => s.placeWords core asid launch va v
  | none =>
    match (leastTurns s s.readyUnits).bind s.fetchPoint with
    | some (u, core, asid, launch, va) =>
      ({ s with agenda := ⟨1, .issue (u / 4) (u % 4)⟩ :: s.agenda } : State).placeWords core asid launch va v
    | none => ({ s.bringUp with agenda := ⟨1, .issue 0 0⟩ :: s.agenda }).placeWords 0 0 1 0x110000 v

end Sys2Proof.Machine
end

