-- ==== Sys2Proof/Machine/Approx.lean ====
section
/-! DEFINITION. The approximations of row 0x6, each the exact function value correctly rounded (R114 to R116). The
transcendental functions are evaluated in fixed point with 384 fraction bits, and the approximate value is rounded
(log 9). -/

namespace Sys2Proof.Machine

/-- The square root of n, rounded down, by its bits below 2^i. -/
def isqrtBits (n : Nat) : Nat → Nat → Nat
  | 0, r => r
  | i + 1, r => isqrtBits n i (if (r + 2 ^ i) * (r + 2 ^ i) ≤ n then r + 2 ^ i else r)

/-- The integer square root. -/
def isqrt (n : Nat) : Nat := isqrtBits n (log2 n / 2 + 1) 0

/-- √(n × 2^e) rounded: the exponent is made even, and 128 further bits are computed (R114). -/
def Fmt.sqrtOf (f : Fmt) (r : Round) (n : Nat) (e : Int) : Nat × Events :=
  let (n, e) := if e % 2 = 0 then (n, e) else (2 * n, e - 1)
  let x := n * 2 ^ 256
  let q := isqrt x
  f.round r (.fin false q (e / 2 - 128)) (q * q != x)

/-- 1/(n × 2^e) rounded (R114). -/
def Fmt.recipOf (f : Fmt) (r : Round) (neg : Bool) (n : Nat) (e : Int) : Nat × Events :=
  let k := log2 n + 128
  f.round r (.fin neg (2 ^ k / n) (-(k : Int) - e)) (2 ^ k % n != 0)

/-- 1/√(n × 2^e) rounded (R114). -/
def Fmt.rsqrtOf (f : Fmt) (r : Round) (n : Nat) (e : Int) : Nat × Events :=
  let (n, e) := if e % 2 = 0 then (n, e) else (2 * n, e - 1)
  let k := log2 n + 128
  let q := isqrt (2 ^ (2 * k) / n)
  f.round r (.fin false q (-(k : Int) - e / 2)) (q * q * n != 2 ^ (2 * k))

/-! ### Fixed point, 384 fraction bits -/

/-- One. -/
def fxOne : Nat := 2 ^ 384
/-- The natural logarithm of 2. -/
def fxLn2 : Nat := 27311389503436327984859642001965014295881604093268141717219425985154158335678826923825841039545353940567474963094288
/-- π/2 with 640 fraction bits. -/
def halfPi640 : Nat := 7166664963380783727887865350899649915563065761450709164855436847124101877928951947489229989474418519168592235180394551152626136545096354515382124214146388240116051238163776092789750994438183638

/-- Product of fixed-point numbers. -/
def fxMul (a b : Int) : Int := a * b / 2 ^ 384

/-- Σ of n terms t, t·x/(k+1), t·x²/((k+1)(k+2)), … -/
def fxExpSum (x : Int) : Nat → Nat → Int → Int
  | 0, _, _ => 0
  | n + 1, k, t => t + fxExpSum x n (k + 1) (fxMul t x / (k + 1))

/-- e^x for a fixed-point x of magnitude below 1. -/
def fxExp (x : Int) : Int := fxExpSum x 100 0 fxOne

/-- Σ of n terms of an alternating series in x²: t, −t·x²/((k+1)(k+2)), … -/
def fxTrigSum (x2 : Int) : Nat → Nat → Int → Int
  | 0, _, _ => 0
  | n + 1, k, t => t + fxTrigSum x2 n (k + 2) (-(fxMul t x2) / ((k + 1) * (k + 2)))

/-- sin x and cos x for a fixed-point x of magnitude below 1. -/
def fxSin (x : Int) : Int := fxTrigSum (fxMul x x) 50 1 x
/-- cos x. -/
def fxCos (x : Int) : Int := fxTrigSum (fxMul x x) 50 0 fxOne

/-- Σ of n terms z^(2i+1)/(2i+1). -/
def fxAtanhSum (z2 : Int) : Nat → Nat → Int → Int
  | 0, _, _ => 0
  | n + 1, k, t => t / k + fxAtanhSum z2 n (k + 2) (fxMul t z2)

/-- ln u for a fixed-point u in [1, 2). -/
def fxLn (u : Int) : Int :=
  let z := (u - fxOne) * 2 ^ 384 / (u + fxOne)
  2 * fxAtanhSum (fxMul z z) 130 1 z

/-- n × 2^e in fixed point. -/
def toFx (neg : Bool) (n : Nat) (e : Int) : Int :=
  let v : Nat := if 0 ≤ e + 384 then n * 2 ^ (e + 384).toNat else n / 2 ^ (-(e + 384)).toNat
  if neg then -(v : Int) else v

/-- A fixed-point number as a value. -/
def ofFx (x : Int) : Num := .fin (x < 0) x.natAbs (-384)

/-- 2^x for a fixed-point x: 2 to its fraction, scaled by its integer part. -/
def fxExp2 (x : Int) : Num :=
  let i := x / 2 ^ 384
  let f := x % 2 ^ 384
  (ofFx (fxExp (fxMul f fxLn2))).scale i

/-- fexp2 of a finite value (R114): exact for an integral value; from ±4,096 on the result overflows or vanishes whatever it is. -/
def exp2Num (neg : Bool) (n : Nat) (e : Int) : Num :=
  if 11 < (log2 n : Int) + e then .fin false 1 (if neg then -2000 else 2000)
  else if 0 ≤ e then .fin false 1 (signedAt neg n e 0)
  else if n % 2 ^ (-e).toNat = 0 then .fin false 1 ((if neg then -1 else 1) * (n / 2 ^ (-e).toNat : Nat))
  else fxExp2 (toFx neg n e)

/-- flog2 of a positive finite value. -/
def log2Num (n : Nat) (e : Int) : Num :=
  let k := log2 n
  let u := toFx false n (-(k : Int))
  ofFx (((k : Int) + e) * fxOne + fxLn u * 2 ^ 384 / fxLn2)

/-- The quadrant of a value and its remainder against the nearest multiple of π/2: the reduction is exact to 640
fraction bits of π/2. -/
def reduceAngle (neg : Bool) (n : Nat) (e : Int) : Int × Int :=
  let x : Int := (if neg then -1 else 1) * (n * 2 ^ (e + 640).toNat : Nat)
  let q := (2 * x + halfPi640) / (2 * halfPi640)
  (q, (x - q * halfPi640) / 2 ^ 256)

/-- sin of a value whose angle is advanced by `turn` quarter turns. -/
def sinNum (turn : Int) (neg : Bool) (n : Nat) (e : Int) : Num :=
  let (q, r) := reduceAngle neg n e
  let k := (q + turn) % 4
  ofFx (if k = 0 then fxSin r else if k = 1 then fxCos r else if k = 2 then -(fxSin r) else -(fxCos r))

/-- tanh of a finite nonzero value: (y − 1)/(y + 1) with y = e^(2|x|); from 64 on, the value next below 1. -/
def tanhNum (neg : Bool) (n : Nat) (e : Int) : Num :=
  if 6 ≤ (log2 n : Int) + e then .fin neg (fxOne - 1) (-384)
  else
    let x := toFx false n e
    let q := 2 * x / fxLn2
    let y := fxExp (2 * x - q * fxLn2) * 2 ^ q.toNat
    let v := (y - fxOne) * 2 ^ 384 / (y + fxOne)
    .fin neg v.natAbs (-384)

/-! ### Operations on patterns -/

/-- The approximation instructions (R114). -/
inductive Approx
  | rcp | rsq | sqrt | exp2 | log2 | sin | cos | tanh
  deriving DecidableEq, Repr

/-- A result that records nothing. -/
def quiet (v : Nat) : Nat × Events := (v, .none)

/-- Results for zeros, infinities and NaN; `none` for an ordinary finite operand (R115). -/
def Fmt.special (f : Fmt) (op : Approx) (x : Num) : Option (Nat × Events) :=
  let nan := (f.canon, Events.oneNan)
  let one (neg : Bool) := quiet (f.round {} (.fin neg 1 0)).1
  match x with
  | .nan => some nan
  | .inf neg =>
    match op with
    | .rcp => some (quiet (f.signBit neg))
    | .rsq => some (if neg then nan else quiet 0)
    | .sqrt => some (if neg then nan else quiet (f.infinity false))
    | .exp2 => some (quiet (if neg then 0 else f.infinity false))
    | .log2 => some (if neg then nan else quiet (f.infinity false))
    | .sin => some nan
    | .cos => some nan
    | .tanh => some (one neg)
  | .fin neg 0 _ =>
    match op with
    | .rcp => some (quiet (f.infinity neg))
    | .rsq => some (quiet (f.infinity neg))
    | .sqrt => some (quiet (f.signBit neg))
    | .exp2 => some (one false)
    | .log2 => some (quiet (f.infinity true))
    | .sin => some (quiet (f.signBit neg))
    | .cos => some (one false)
    | .tanh => some (quiet (f.signBit neg))
  | .fin neg _ _ => if neg && (op = .rsq || op = .sqrt || op = .log2) then some nan else none

/-- An approximation on patterns (R114, R115). -/
def Fmt.approxP (f : Fmt) (op : Approx) (r : Round) (a : Nat) : Nat × Events :=
  let (a, x) := f.operand r.ftz a
  let (v, y) :=
    match f.special op (f.value a) with
    | some v => v
    | none =>
      match f.value a with
      | .fin neg n e =>
        match op with
        | .rcp => f.recipOf r neg n e
        | .rsq => f.rsqrtOf r n e
        | .sqrt => f.sqrtOf r n e
        | .exp2 => f.round r (exp2Num neg n e)
        | .log2 => f.round r (log2Num n e)
        | .sin => f.round r (sinNum 0 neg n e)
        | .cos => f.round r (sinNum 1 neg n e)
        | .tanh => f.round r (tanhNum neg n e)
      | _ => (f.canon, .none)
  (v, x.plus y)

/-- The result of an approximation. -/
def approxRes (op : Approx) (m : ModA) (h : Head) (t : Thread) : Res :=
  resOf ((fmtOf h.ty).approxP op (modRound m) (aFp h t))

/-! ### Meanings -/

/-- frcp (R114, R115). -/
def execFrcp (h : Head) (m : ModA) (s : State) : Host.Outcome State Fault Refusal :=
  alu (.frcp h m) m.tid (approxRes .rcp m) s

/-- frsq (R114, R115). -/
def execFrsq (h : Head) (m : ModA) (s : State) : Host.Outcome State Fault Refusal :=
  alu (.frsq h m) m.tid (approxRes .rsq m) s

/-- fsqrt (R114, R115). -/
def execFsqrt (h : Head) (m : ModA) (s : State) : Host.Outcome State Fault Refusal :=
  alu (.fsqrt h m) m.tid (approxRes .sqrt m) s

/-- fexp2 (R114, R115). -/
def execFexp2 (h : Head) (m : ModA) (s : State) : Host.Outcome State Fault Refusal :=
  alu (.fexp2 h m) m.tid (approxRes .exp2 m) s

/-- flog2 (R114, R115). -/
def execFlog2 (h : Head) (m : ModA) (s : State) : Host.Outcome State Fault Refusal :=
  alu (.flog2 h m) m.tid (approxRes .log2 m) s

/-- fsin (R114, R115). -/
def execFsin (h : Head) (m : ModA) (s : State) : Host.Outcome State Fault Refusal :=
  alu (.fsin h m) m.tid (approxRes .sin m) s

/-- fcos (R114, R115). -/
def execFcos (h : Head) (m : ModA) (s : State) : Host.Outcome State Fault Refusal :=
  alu (.fcos h m) m.tid (approxRes .cos m) s

/-- ftanh (R114, R115). -/
def execFtanh (h : Head) (m : ModA) (s : State) : Host.Outcome State Fault Refusal :=
  alu (.ftanh h m) m.tid (approxRes .tanh m) s

end Sys2Proof.Machine
end

