-- ==== Sys2Proof/Machine/Dispatch.lean ====
section
/-! DEFINITION. One arm for each instruction and each step of the device. -/

namespace Sys2Proof.Machine

/-- What an instruction, or a step of the device, does. -/
def exec (i : Instr) (s : State) : Host.Outcome State Fault Refusal :=
  match i with
  | .bra h ofs => Sys2Proof.Machine.execBra h ofs s
  | .brz h ofs => Sys2Proof.Machine.execBrz h ofs s
  | .brnz h ofs => Sys2Proof.Machine.execBrnz h ofs s
  | .jmp h => Sys2Proof.Machine.execJmp h s
  | .call h ofs => Sys2Proof.Machine.execCall h ofs s
  | .ret h => Sys2Proof.Machine.execRet h s
  | .yield h => Sys2Proof.Machine.execYield h s
  | .exit h => Sys2Proof.Machine.execExit h s
  | .exitWithSuccessors h n => Sys2Proof.Machine.execExitWithSuccessors h n s
  | .repeatLoop h byReg count body => Sys2Proof.Machine.execRepeatLoop h byReg count body s
  | .trap h code => Sys2Proof.Machine.execTrap h code s
  | .eret h => Sys2Proof.Machine.execEret h s
  | .csrr h num => Sys2Proof.Machine.execCsrr h num s
  | .csrw h num => Sys2Proof.Machine.execCsrw h num s
  | .selftestLane h => Sys2Proof.Machine.execSelftestLane h s
  | .selftestRf h => Sys2Proof.Machine.execSelftestRf h s
  | .selftestLar h => Sys2Proof.Machine.execSelftestLar h s
  | .selftestDrw h => Sys2Proof.Machine.execSelftestDrw h s
  | .selftestArr h => Sys2Proof.Machine.execSelftestArr h s
  | .selftestBank h => Sys2Proof.Machine.execSelftestBank h s
  | .selftestHbm h => Sys2Proof.Machine.execSelftestHbm h s
  | .selftestScm h => Sys2Proof.Machine.execSelftestScm h s
  | .selftestLink h => Sys2Proof.Machine.execSelftestLink h s
  | .selftestComplete serial outcome index => Sys2Proof.Machine.execSelftestComplete serial outcome index s
  | .nop h => Sys2Proof.Machine.execNop h s
  | .shfl h mode => Sys2Proof.Machine.execShfl h mode s
  | .vote h mode => Sys2Proof.Machine.execVote h mode s
  | .elect h pred => Sys2Proof.Machine.execElect h pred s
  | .matchLanes h all => Sys2Proof.Machine.execMatchLanes h all s
  | .lred h op tid ftz rnd => Sys2Proof.Machine.execLred h op tid ftz rnd s
  | .parkNow h keep => Sys2Proof.Machine.execParkNow h keep s
  | .parkUntil h keep => Sys2Proof.Machine.execParkUntil h keep s
  | .parkNe h keep => Sys2Proof.Machine.execParkNe h keep s
  | .spawn h laneGiven narg => Sys2Proof.Machine.execSpawn h laneGiven narg s
  | .add h m => Sys2Proof.Machine.execAdd h m s
  | .sub h m => Sys2Proof.Machine.execSub h m s
  | .addc h m => Sys2Proof.Machine.execAddc h m s
  | .subc h m => Sys2Proof.Machine.execSubc h m s
  | .mul h m => Sys2Proof.Machine.execMul h m s
  | .mulhi h m => Sys2Proof.Machine.execMulhi h m s
  | .mulw h m => Sys2Proof.Machine.execMulw h m s
  | .mad h m => Sys2Proof.Machine.execMad h m s
  | .min h m => Sys2Proof.Machine.execMin h m s
  | .max h m => Sys2Proof.Machine.execMax h m s
  | .abs h m => Sys2Proof.Machine.execAbs h m s
  | .cmp h m cond => Sys2Proof.Machine.execCmp h m cond s
  | .sel h m => Sys2Proof.Machine.execSel h m s
  | .lea h m sh => Sys2Proof.Machine.execLea h m sh s
  | .and h m => Sys2Proof.Machine.execAnd h m s
  | .or h m => Sys2Proof.Machine.execOr h m s
  | .xor h m => Sys2Proof.Machine.execXor h m s
  | .andn h m => Sys2Proof.Machine.execAndn h m s
  | .not h m => Sys2Proof.Machine.execNot h m s
  | .shl h m => Sys2Proof.Machine.execShl h m s
  | .shr h m => Sys2Proof.Machine.execShr h m s
  | .sar h m => Sys2Proof.Machine.execSar h m s
  | .rol h m => Sys2Proof.Machine.execRol h m s
  | .ror h m => Sys2Proof.Machine.execRor h m s
  | .bfe h m => Sys2Proof.Machine.execBfe h m s
  | .bfi h m => Sys2Proof.Machine.execBfi h m s
  | .popc h m => Sys2Proof.Machine.execPopc h m s
  | .clz h m => Sys2Proof.Machine.execClz h m s
  | .ctz h m => Sys2Proof.Machine.execCtz h m s
  | .brev h m => Sys2Proof.Machine.execBrev h m s
  | .mov h m => Sys2Proof.Machine.execMov h m s
  | .movi h m => Sys2Proof.Machine.execMovi h m s
  | .sext h m => Sys2Proof.Machine.execSext h m s
  | .zext h m => Sys2Proof.Machine.execZext h m s
  | .add64 h m => Sys2Proof.Machine.execAdd64 h m s
  | .sub64 h m => Sys2Proof.Machine.execSub64 h m s
  | .mul64 h m => Sys2Proof.Machine.execMul64 h m s
  | .shl64 h m => Sys2Proof.Machine.execShl64 h m s
  | .shr64 h m => Sys2Proof.Machine.execShr64 h m s
  | .sar64 h m => Sys2Proof.Machine.execSar64 h m s
  | .cmp64 h m cond => Sys2Proof.Machine.execCmp64 h m cond s
  | .min64 h m => Sys2Proof.Machine.execMin64 h m s
  | .max64 h m => Sys2Proof.Machine.execMax64 h m s
  | .fadd h m => Sys2Proof.Machine.execFadd h m s
  | .fsub h m => Sys2Proof.Machine.execFsub h m s
  | .fmul h m => Sys2Proof.Machine.execFmul h m s
  | .fma h m => Sys2Proof.Machine.execFma h m s
  | .fmin h m => Sys2Proof.Machine.execFmin h m s
  | .fmax h m => Sys2Proof.Machine.execFmax h m s
  | .fcmp h m cond => Sys2Proof.Machine.execFcmp h m cond s
  | .fclass h m exp => Sys2Proof.Machine.execFclass h m exp s
  | .fround h m => Sys2Proof.Machine.execFround h m s
  | .fscale h m => Sys2Proof.Machine.execFscale h m s
  | .fadd2 h m => Sys2Proof.Machine.execFadd2 h m s
  | .fmul2 h m => Sys2Proof.Machine.execFmul2 h m s
  | .fma2 h m => Sys2Proof.Machine.execFma2 h m s
  | .fmin2 h m => Sys2Proof.Machine.execFmin2 h m s
  | .fmax2 h m => Sys2Proof.Machine.execFmax2 h m s
  | .frcp h m => Sys2Proof.Machine.execFrcp h m s
  | .frsq h m => Sys2Proof.Machine.execFrsq h m s
  | .fsqrt h m => Sys2Proof.Machine.execFsqrt h m s
  | .fexp2 h m => Sys2Proof.Machine.execFexp2 h m s
  | .flog2 h m => Sys2Proof.Machine.execFlog2 h m s
  | .fsin h m => Sys2Proof.Machine.execFsin h m s
  | .fcos h m => Sys2Proof.Machine.execFcos h m s
  | .ftanh h m => Sys2Proof.Machine.execFtanh h m s
  | .cvt h m ovn => Sys2Proof.Machine.execCvt h m ovn s
  | .pack h m k ovn => Sys2Proof.Machine.execPack h m k ovn s
  | .unpack h m k => Sys2Proof.Machine.execUnpack h m k s
  | .rand h unit w => Sys2Proof.Machine.execRand h unit w s
  | .cntflush h => Sys2Proof.Machine.execCntflush h s
  | .lalloc h m empty => Sys2Proof.Machine.execLalloc h m empty s
  | .lfree h m => Sys2Proof.Machine.execLfree h m s
  | .luseby h m ext => Sys2Proof.Machine.execLuseby h m ext s
  | .lrenew h m => Sys2Proof.Machine.execLrenew h m s
  | .ldl h m mode => Sys2Proof.Machine.execLdl h m mode s
  | .stl h m mode => Sys2Proof.Machine.execStl h m mode s
  | .setempty h m => Sys2Proof.Machine.execSetempty h m s
  | .setfull h m => Sys2Proof.Machine.execSetfull h m s
  | .lstateLine h m => Sys2Proof.Machine.execLstateLine h m s
  | .lstateAlloc h m => Sys2Proof.Machine.execLstateAlloc h m s
  | .lstateRet h m => Sys2Proof.Machine.execLstateRet h m s
  | .lstateFree h m => Sys2Proof.Machine.execLstateFree h m s
  | .smap h m => Sys2Proof.Machine.execSmap h m s
  | .sunmap h m => Sys2Proof.Machine.execSunmap h m s
  | .sflush h m inv => Sys2Proof.Machine.execSflush h m inv s
  | .binit h ofs bytes => Sys2Proof.Machine.execBinit h ofs bytes s
  | .barr h ofs => Sys2Proof.Machine.execBarr h ofs s
  | .bwait h ofs keep => Sys2Proof.Machine.execBwait h ofs keep s
  | .barrw h ofs keep => Sys2Proof.Machine.execBarrw h ofs keep s
  | .bbytes h ofs exp => Sys2Proof.Machine.execBbytes h ofs exp s
  | .hjoin h grp => Sys2Proof.Machine.execHjoin h grp s
  | .hleave h grp => Sys2Proof.Machine.execHleave h grp s
  | .harr h grp => Sys2Proof.Machine.execHarr h grp s
  | .hwait h grp keep => Sys2Proof.Machine.execHwait h grp keep s
  | .hsig h bytes => Sys2Proof.Machine.execHsig h bytes s
  | .ldg h m => Sys2Proof.Machine.execLdg h m s
  | .stg h m => Sys2Proof.Machine.execStg h m s
  | .ldc h m => Sys2Proof.Machine.execLdc h m s
  | .atom h m op => Sys2Proof.Machine.execAtom h m op s
  | .red h m op => Sys2Proof.Machine.execRed h m op s
  | .fence h => Sys2Proof.Machine.execFence h s
  | .pref h m hbm => Sys2Proof.Machine.execPref h m hbm s
  | .copy h ofs keep => Sys2Proof.Machine.execCopy h ofs keep s
  | .enq h ofs keep => Sys2Proof.Machine.execEnq h ofs keep s
  | .publish h seti => Sys2Proof.Machine.execPublish h seti s
  | .collRun h tid => Sys2Proof.Machine.execCollRun h tid s
  | .collLoad h tid => Sys2Proof.Machine.execCollLoad h tid s
  | .collDrop h tid => Sys2Proof.Machine.execCollDrop h tid s
  | .repart h => Sys2Proof.Machine.execRepart h s
  | .pfenceDie h => Sys2Proof.Machine.execPfenceDie h s
  | .pfencePkg h => Sys2Proof.Machine.execPfencePkg h s
  | .steptag h => Sys2Proof.Machine.execSteptag h s
  | .snapStat h => Sys2Proof.Machine.execSnapStat h s
  | .snapGo h => Sys2Proof.Machine.execSnapGo h s
  | .snapAbort h => Sys2Proof.Machine.execSnapAbort h s
  | .digest h => Sys2Proof.Machine.execDigest h s
  | .mma h pbn => Sys2Proof.Machine.execMma h pbn s
  | .mmwait h ofs keep => Sys2Proof.Machine.execMmwait h ofs keep s
  | .mmrd h => Sys2Proof.Machine.execMmrd h s
  | .mmclrAcc h => Sys2Proof.Machine.execMmclrAcc h s
  | .mmclrClaim h => Sys2Proof.Machine.execMmclrClaim h s
  | .mmclrFree h => Sys2Proof.Machine.execMmclrFree h s
  | .mmscl h pbn => Sys2Proof.Machine.execMmscl h pbn s
  | .mmstBank h => Sys2Proof.Machine.execMmstBank h s
  | .mmstAcc h => Sys2Proof.Machine.execMmstAcc h s
  | .pendingRegisterPark group lanes => Sys2Proof.Machine.execPendingRegisterPark group lanes s
  | .missStatusReplay group lanes => Sys2Proof.Machine.execMissStatusReplay group lanes s
  | .incomingWriteComplete wid => Sys2Proof.Machine.execIncomingWriteComplete wid s
  | .crockTimerExpiry core bin => Sys2Proof.Machine.execCrockTimerExpiry core bin s
  | .groupAdmission core unit => Sys2Proof.Machine.execGroupAdmission core unit s
  | .timeEventExpiry rid => Sys2Proof.Machine.execTimeEventExpiry rid s
  | .watchedWordEvaluate rid => Sys2Proof.Machine.execWatchedWordEvaluate rid s
  | .blockStart launch cores => Sys2Proof.Machine.execBlockStart launch cores s
  | .blockRetire bid => Sys2Proof.Machine.execBlockRetire bid s
  | .successorEnqueue => Sys2Proof.Machine.execSuccessorEnqueue s
  | .launchCompletionSignal launch => Sys2Proof.Machine.execLaunchCompletionSignal launch s
  | .queuePacketTake asid queue => Sys2Proof.Machine.execQueuePacketTake asid queue s
  | .launchPacketGrid serial => Sys2Proof.Machine.execLaunchPacketGrid serial s
  | .launchPacketMask serial => Sys2Proof.Machine.execLaunchPacketMask serial s
  | .taskRecord serial => Sys2Proof.Machine.execTaskRecord serial s
  | .queueCopy serial => Sys2Proof.Machine.execQueueCopy serial s
  | .queueDeadlockDetect asid queue => Sys2Proof.Machine.execQueueDeadlockDetect asid queue s
  | .faultQueueSpace asid => Sys2Proof.Machine.execFaultQueueSpace asid s
  | .larderRenewal core => Sys2Proof.Machine.execLarderRenewal core s
  | .lretUpdate core temp guar => Sys2Proof.Machine.execLretUpdate core temp guar s
  | .allocationExpiry bid base => Sys2Proof.Machine.execAllocationExpiry bid base s
  | .stashFetchComplete core line => Sys2Proof.Machine.execStashFetchComplete core line s
  | .stashLineAgeOut core line => Sys2Proof.Machine.execStashLineAgeOut core line s
  | .stashRemoteReadRecall core line => Sys2Proof.Machine.execStashRemoteReadRecall core line s
  | .stashRemoteWriteRecall core line ofs bytes => Sys2Proof.Machine.execStashRemoteWriteRecall core line ofs bytes s
  | .lfreeUnitsRelease serial => Sys2Proof.Machine.execLfreeUnitsRelease serial s
  | .lrenewComplete serial => Sys2Proof.Machine.execLrenewComplete serial s
  | .sflushComplete serial => Sys2Proof.Machine.execSflushComplete serial s
  | .hsigApply asid name count bytes => Sys2Proof.Machine.execHsigApply asid name count bytes s
  | .harnessArrivalMessage asid grp pkg handle count => Sys2Proof.Machine.execHarnessArrivalMessage asid grp pkg handle count s
  | .harnessMembershipMessage asid grp pkg handle join quota => Sys2Proof.Machine.execHarnessMembershipMessage asid grp pkg handle join quota s
  | .walkComplete serial => Sys2Proof.Machine.execWalkComplete serial s
  | .tlbinv value => Sys2Proof.Machine.execTlbinv value s
  | .tlbinvComplete => Sys2Proof.Machine.execTlbinvComplete s
  | .tres value => Sys2Proof.Machine.execTres value s
  | .tepcWrite thread value => Sys2Proof.Machine.execTepcWrite thread value s
  | .hostBar2Read addr len => Sys2Proof.Machine.execHostBar2Read addr len s
  | .hostBar2Write addr bytes => Sys2Proof.Machine.execHostBar2Write addr bytes s
  | .peerMemoryRequest pkg tag req => Sys2Proof.Machine.execPeerMemoryRequest pkg tag req s
  | .peerMemoryResponse tag data => Sys2Proof.Machine.execPeerMemoryResponse tag data s
  | .copyRequestEnd serial => Sys2Proof.Machine.execCopyRequestEnd serial s
  | .publishSwapStart serial => Sys2Proof.Machine.execPublishSwapStart serial s
  | .publishSwapComplete serial => Sys2Proof.Machine.execPublishSwapComplete serial s
  | .matrixOpStart core => Sys2Proof.Machine.execMatrixOpStart core s
  | .mmaKStep core => Sys2Proof.Machine.execMmaKStep core s
  | .matrixOpEnd core => Sys2Proof.Machine.execMatrixOpEnd core s
  | .wbqDrainEntry die => Sys2Proof.Machine.execWbqDrainEntry die s
  | .wbqRoomWrite die => Sys2Proof.Machine.execWbqRoomWrite die s
  | .energyReserveMeasure energy qcap drain armed => Sys2Proof.Machine.execEnergyReserveMeasure energy qcap drain armed s
  | .powerFail drained kept => Sys2Proof.Machine.execPowerFail drained kept s
  | .pfenceComplete serial => Sys2Proof.Machine.execPfenceComplete serial s
  | .chunkCaptureLagExpiry asid region => Sys2Proof.Machine.execChunkCaptureLagExpiry asid region s
  | .chunkCaptureOnWrite asid region chunk => Sys2Proof.Machine.execChunkCaptureOnWrite asid region chunk s
  | .stripeFragmentsDurable asid region stripe stored => Sys2Proof.Machine.execStripeFragmentsDurable asid region stripe stored s
  | .fragmentStoreWrite pkg job slot step stripe frag data trailer => Sys2Proof.Machine.execFragmentStoreWrite pkg job slot step stripe frag data trailer s
  | .digestComplete serial uncorrectable => Sys2Proof.Machine.execDigestComplete serial uncorrectable s
  | .rstctl value => Sys2Proof.Machine.execRstctl value s
  | .restoreComplete => Sys2Proof.Machine.execRestoreComplete s
  | .payloadFlit port image outstanding room => Sys2Proof.Machine.execPayloadFlit port image outstanding room s
  | .acknowledgementFlit port image => Sys2Proof.Machine.execAcknowledgementFlit port image s
  | .negativeAcknowledgement port image => Sys2Proof.Machine.execNegativeAcknowledgement port image s
  | .retrainMarker port image => Sys2Proof.Machine.execRetrainMarker port image s
  | .ackOnlyTimeout port cls => Sys2Proof.Machine.execAckOnlyTimeout port cls s
  | .busyResend port cls => Sys2Proof.Machine.execBusyResend port cls s
  | .replayTimeout port cls => Sys2Proof.Machine.execReplayTimeout port cls s
  | .laneFailure port lane => Sys2Proof.Machine.execLaneFailure port lane s
  | .retrainComplete port => Sys2Proof.Machine.execRetrainComplete port s
  | .portSilent port pkg => Sys2Proof.Machine.execPortSilent port pkg s
  | .switchGroupTimeout pkg => Sys2Proof.Machine.execSwitchGroupTimeout pkg s
  | .domainTimeout pkg => Sys2Proof.Machine.execDomainTimeout pkg s
  | .failureNotice pkg => Sys2Proof.Machine.execFailureNotice pkg s
  | .sendNotice asid graph node pkg run len dt rop => Sys2Proof.Machine.execSendNotice asid graph node pkg run len dt rop s
  | .clearToSend asid graph run node => Sys2Proof.Machine.execClearToSend asid graph run node s
  | .collectiveData asid graph run node pkg data => Sys2Proof.Machine.execCollectiveData asid graph run node pkg data s
  | .collectiveNodeComplete serial node => Sys2Proof.Machine.execCollectiveNodeComplete serial node s
  | .switchReductionResult serial node ok data => Sys2Proof.Machine.execSwitchReductionResult serial node ok data s
  | .collLoadComplete serial => Sys2Proof.Machine.execCollLoadComplete serial s
  | .repartOperationStart asid grp => Sys2Proof.Machine.execRepartOperationStart asid grp s
  | .repartOperationEnd asid grp failed => Sys2Proof.Machine.execRepartOperationEnd asid grp failed s
  | .tlmctlGo value => Sys2Proof.Machine.execTlmctlGo value s
  | .marginMeasurementComplete errs bits => Sys2Proof.Machine.execMarginMeasurementComplete errs bits s
  | .ctxCreate value => Sys2Proof.Machine.execCtxCreate value s
  | .ctxPreemptAll value => Sys2Proof.Machine.execCtxPreemptAll value s
  | .ctxResume value => Sys2Proof.Machine.execCtxResume value s
  | .ctxKill value => Sys2Proof.Machine.execCtxKill value s
  | .ctxFreeze value => Sys2Proof.Machine.execCtxFreeze value s
  | .ctxThaw value => Sys2Proof.Machine.execCtxThaw value s
  | .ctxReservedAction value => Sys2Proof.Machine.execCtxReservedAction value s
  | .prectlGo value => Sys2Proof.Machine.execPrectlGo value s
  | .dispatcherPreempt launch bid => Sys2Proof.Machine.execDispatcherPreempt launch bid s
  | .drainlimExpiry bid => Sys2Proof.Machine.execDrainlimExpiry bid s
  | .deferredSave bid => Sys2Proof.Machine.execDeferredSave bid s
  | .blockSaveComplete bid => Sys2Proof.Machine.execBlockSaveComplete bid s
  | .flushedBlockRestart bid core => Sys2Proof.Machine.execFlushedBlockRestart bid core s
  | .blockRestore bid core => Sys2Proof.Machine.execBlockRestore bid core s
  | .laneSteering core unit lane => Sys2Proof.Machine.execLaneSteering core unit lane s
  | .pairedCheckPoint bid lin => Sys2Proof.Machine.execPairedCheckPoint bid lin s
  | .targetedSelfTest src unit loc failing => Sys2Proof.Machine.execTargetedSelfTest src unit loc failing s
  | .transferErrorRetry stack chan pc lane retries write => Sys2Proof.Machine.execTransferErrorRetry stack chan pc lane retries write s
  | .arrlogRead => Sys2Proof.Machine.execArrlogRead s
  | .xfrlogRead => Sys2Proof.Machine.execXfrlogRead s
  | .faillogRead => Sys2Proof.Machine.execFaillogRead s
  | .hbmcfgWrite value => Sys2Proof.Machine.execHbmcfgWrite value s
  | .channelTemperatureMeasure stack chan temp => Sys2Proof.Machine.execChannelTemperatureMeasure stack chan temp s
  | .stitch value => Sys2Proof.Machine.execStitch value s
  | .stitchComplete => Sys2Proof.Machine.execStitchComplete s
  | .vmctlGo value => Sys2Proof.Machine.execVmctlGo value s
  | .voltageMarginComplete vmeas result => Sys2Proof.Machine.execVoltageMarginComplete vmeas result s
  | .clockStepChange up therm power => Sys2Proof.Machine.execClockStepChange up therm power s
  | .moduleReset => Sys2Proof.Machine.execModuleReset s
  | .bootStageAdvance fail => Sys2Proof.Machine.execBootStageAdvance fail s
  | .attestationRequest nonce => Sys2Proof.Machine.execAttestationRequest nonce s
  | .registerWrite num value => Sys2Proof.Machine.execRegisterWrite num value s
  | .chunkCaptureComplete asid region chunk => Sys2Proof.Machine.execChunkCaptureComplete asid region chunk s
  | .engineByteCountPiece serial elements => Sys2Proof.Machine.execEngineByteCountPiece serial elements s
  | .repartDescriptorArrival asid pkg handle descriptor serial => Sys2Proof.Machine.execRepartDescriptorArrival asid pkg handle descriptor serial s
  | .hbmcfgTakesEffect => Sys2Proof.Machine.execHbmcfgTakesEffect s
  | .powerGatedCoreWake core => Sys2Proof.Machine.execPowerGatedCoreWake core s

end Sys2Proof.Machine
end

