-- ==== Sys2Proof/Machine/Step.lean ====
section
/-! DEFINITION. One step of the machine: a SIMD unit takes an issue turn, or one step of the device happens; then time
passes (log 1). -/

namespace Sys2Proof.Machine

/-- An issue turn of a SIMD unit. -/
def issueStep (u : Nat) (s : State) : Host.Outcome State Fault Refusal :=
  match s.takeTurn u with
  | .done s' => .next s'
  | .run i s' =>
    match exec i s' with
    | .next t => .next t.closeTurn
    | r => r

/-- A step of the device. Instructions that have words run in threads only. -/
def eventStep (i : Instr) (s : State) : Host.Outcome State Fault Refusal :=
  if i.parts.isNone then exec i s else .next s

/-- What a move does. -/
def moveStep (a : Mover) (s : State) : Host.Outcome State Fault Refusal :=
  match a with
  | .nobody => .next s
  | .step f => f s
  | .act (.issue c u) => issueStep (4 * c + u) s
  | .act (.event i) => eventStep i s
  | .act (.upset pa loc) => .next (s.upset pa loc)
  | .act (.gate core) => .next (s.updCore core fun c => { c with gated := true })

/-- One step. -/
def step (s : State) : Host.Outcome State Fault Refusal :=
  match s.nextMove with
  | (a, ns, s') =>
    match moveStep a s' with
    | .next t => .next (t.passes ns)
    | r => r

/-- The machine with an instruction stored where its next step fetches (log 6). -/
def State.withFetchWord (s : State) (nbits w : Nat) : State := s.placeNext (w % 2 ^ nbits)

end Sys2Proof.Machine
end

