-- ==== Sys2Proof/Safety.lean ====
section
/-! DEFINITION. The terms that statements about the machine use: an instruction that runs in the one thread that issues,
what its results leave, and the forms that every step keeps. -/

namespace Sys2Proof

open Sys2Proof.Machine

/-- A base word's head with every operand zero. -/
def Head.plain : Head :=
  { form := .base, pred := none, nw := false, d := 0, a := .reg 0, b := .src (.reg 0), c := .reg 0, e := 0, ty := .dflt
    ty2 := .dflt }

end Sys2Proof

namespace Sys2Proof.Machine

/-- Thread `k`, whose state is `t`, is the one thread that issues at this step. -/
def Alone (s : State) (k : Nat) (t : Thread) : Prop :=
  s.issuing.map Issue.threads = some [k] ∧ s.thread? k = some t

/-- Instructions that act otherwise in a thread of a paired block: those at which it waits for the other copy, and accesses
to global memory (R368). -/
def pairingMatters (i : Instr) : Bool := isCheckPoint i || opOf i / 16 = 9

/-- Instruction `i` runs in the one thread that issues: no check that is common to all instructions stops it there (R28,
R29, R77), its predicate enables it (R25), and its block is not paired where that would matter (R368). -/
def Runs (i : Instr) (h : Head) (s : State) (k : Nat) (t : Thread) : Prop :=
  Alone s k t ∧ i.head = some h ∧ s.gate i k t h = .on ∧ (pairingMatters i = true → s.pairingOf k = none) ∧ t.passed = false

/-- The serial of the incoming write of an instruction's result: 0 where there is nothing to write, because the opcode has no D
(R21) or D is v0 (R69). -/
def resultWid (i : Instr) (h : Head) (s : State) : Nat := if destWidth i = 0 ∨ h.d = 0 then 0 else s.serial

/-- The serial that comes next after it. -/
def resultNext (i : Instr) (h : Head) (s : State) : Nat := if destWidth i = 0 ∨ h.d = 0 then s.serial else s.serial + 1

/-- Thread `k` has gone on past an instruction whose result, if it has one, is on its way (R129). -/
def sentOff (i : Instr) (h : Head) (s : State) (k : Nat) (t : Thread) : State :=
  { s.setThread k (t.sendOff i h (resultWid i h s)) with serial := resultNext i h s }

/-- No record was written in the cycle at which threads issue, as its number is fresh. -/
def FreshCycle (s : State) : Prop := ∀ r ∈ s.records, some r.2.cycle ≠ s.issuing.map Issue.cycle

/-- The state after an instruction whose results are `r` in thread `k`: the thread has them and is at its next
instruction, and its events are counted in slot `tid` (R21, R74, R102). Nothing else changes. -/
def wrote (i : Instr) (h : Head) (tid : Nat) (r : Res) (s : State) (k : Nat) (t : Thread) : State :=
  (s.setThread k (t.finish i h r)).count k tid r.ev

/-- Instruction `i` is issued by the threads of `g`, all of one group and in ascending order; in each it runs or is disabled, and
none of them is of a paired block where that would matter. -/
def Together (i : Instr) (h : Head) (s : State) (g : Issue) : Prop :=
  s.issuing = some g ∧ i.head = some h ∧ (∀ k ∈ g.threads, groupOf k = g.group) ∧ g.threads.Pairwise (· < ·) ∧
  (s.threads.Pairwise fun a b => a.1 < b.1) ∧
  ∀ k ∈ g.threads, ∃ t, s.thread? k = some t ∧ (pairingMatters i = true → s.pairingOf k = none) ∧ t.passed = false ∧
    (s.gate i k t h = .on ∨ s.gate i k t h = .off)

/-- The threads of `g` in which an instruction runs, as lane index and thread: the participants of a lane instruction (R66). -/
def takingPart (i : Instr) (h : Head) (s : State) (g : Issue) : List (Nat × Thread) :=
  g.threads.filterMap fun k => (s.thread? k).bind fun t => if s.gate i k t h = .on then some (laneOf k, t) else none

/-- The state after a lane instruction whose result in thread k is `r k t`: participants have their results, and the threads in
which it is disabled move on. -/
def laneAfter (i : Instr) (h : Head) (s : State) (g : Issue) (r : Nat → Thread → Res) : State :=
  g.threads.foldl (fun u k =>
    match s.thread? k with
    | none => u
    | some t => u.setThread k (if s.gate i k t h = .on then t.finish i h (r k t) else t.disabled i)) s

/-- The state after an instruction that has no register result and only moves its thread on. -/
def moved (i : Instr) (s : State) (k : Nat) (t : Thread) : State := s.setThread k (t.next (lenOf i))

/-- The state in which threads `ks` of group `g` issue an instruction whose words are `ws`, once unit `u` has taken its turn
(R44, R45). -/
def State.issues (s : State) (u g : Nat) (ks ws : List Nat) : State :=
  { (s.fresh.2.beginTurn u g s.serial ks).countIssued ks with issuing := some ⟨g, ks, s.serial, ws⟩ }

/-- Every store of bytes is in its canonical form: addresses strictly rising, and no byte listed that an unlisted one
reads as. -/
def Canonical (s : State) : Prop :=
  Memory.wf s.memory ∧ Memory.wf s.hostMemory ∧ Memory.wf s.scm ∧ Memory.wf s.larder ∧ Memory.wf s.bank

/-- No partial sum, stash line, capture, pfence, walk, peer or stack stands between an access and memory. -/
def Quiet (s : State) : Prop :=
  s.partials = [] ∧ s.freed = [] ∧ (∀ b ∈ s.blocks, ∀ a ∈ b.2.allocs, a.stash = none) ∧ s.captures = [] ∧ s.peers = [] ∧
  s.walks = [] ∧ s.pfences = [] ∧ s.misses = [] ∧ s.selfRefresh = [] ∧ s.regs.hbmcfgNext = none

end Sys2Proof.Machine
end

