-- ==== Sys2Proof/WellFormed.lean ====
section
/-! DEFINITION. Well-formed instructions: every operand and modifier is one that a field can hold (R15 to R22), the fields
are a legal encoding (R28), and the form can carry them (R12, R17). Steps of the device have no words and are not
well-formed. -/

namespace Sys2Proof

open Sys2Proof.Machine

/-- An operand is one of 248 registers or eight latches (R16, R19). -/
def Opnd.ok : Opnd → Bool
  | .reg n => n < 248
  | .latch n => 1 ≤ n && n ≤ 8

/-- A 7-bit operand code reaches it: v0 to v119 or a latch (R16). -/
def Opnd.short : Opnd → Bool
  | .reg n => n < 120
  | .latch n => 1 ≤ n && n ≤ 8

/-- An exact integer fits n signed bits. -/
def fitsSigned (x : Int) (n : Nat) : Bool := -(2 ^ (n - 1)) ≤ x && x < 2 ^ (n - 1)

/-- Class A modifiers that their fields hold (R20). -/
def ModA.ok (m : ModA) : Bool := m.tid < 64

/-- Class M modifiers that their fields hold (R20). -/
def ModM.ok (m : ModM) : Bool := m.tid < 64 && m.ch < 4 && fitsSigned m.ofs 22

/-- The operands of a constructor beyond its head that their fields hold. -/
def Instr.argsOk : Instr → Bool
  | .bra _ o | .brz _ o | .brnz _ o | .call _ o => fitsSigned o 24
  | .exitWithSuccessors _ n => 1 ≤ n && n < 16
  | .repeatLoop _ _ count body => count < 2 ^ 16 && body < 64
  | .trap _ code => code < 2 ^ 16
  | .csrr _ n | .csrw _ n => n < 2 ^ 12
  | .lred _ _ tid _ _ => tid < 64
  | .parkNow _ k | .parkUntil _ k | .parkNe _ k => k < 256
  | .spawn _ _ n => n < 8
  | .lea _ m sh => m.ok && sh < 8
  | .pack _ m k _ => m.ok && k < 4
  | .unpack _ m k => m.ok && k < 8
  | .rand _ _ w => w < 4
  | .add _ m | .sub _ m | .addc _ m | .subc _ m | .mul _ m | .mulhi _ m | .mulw _ m | .mad _ m | .min _ m | .max _ m
  | .abs _ m | .cmp _ m _ | .sel _ m | .and _ m | .or _ m | .xor _ m | .andn _ m | .not _ m | .shl _ m | .shr _ m
  | .sar _ m | .rol _ m | .ror _ m | .bfe _ m | .bfi _ m | .popc _ m | .clz _ m | .ctz _ m | .brev _ m | .mov _ m
  | .movi _ m | .sext _ m | .zext _ m | .add64 _ m | .sub64 _ m | .mul64 _ m | .shl64 _ m | .shr64 _ m | .sar64 _ m
  | .cmp64 _ m _ | .min64 _ m | .max64 _ m | .fadd _ m | .fsub _ m | .fmul _ m | .fma _ m | .fmin _ m | .fmax _ m
  | .fcmp _ m _ | .fclass _ m _ | .fround _ m | .fscale _ m | .fadd2 _ m | .fmul2 _ m | .fma2 _ m | .fmin2 _ m
  | .fmax2 _ m | .frcp _ m | .frsq _ m | .fsqrt _ m | .fexp2 _ m | .flog2 _ m | .fsin _ m | .fcos _ m | .ftanh _ m
  | .cvt _ m _ => m.ok
  | .lalloc _ m _ | .lfree _ m | .luseby _ m _ | .lrenew _ m | .ldl _ m _ | .stl _ m _ | .setempty _ m | .setfull _ m
  | .lstateLine _ m | .lstateAlloc _ m | .lstateRet _ m | .lstateFree _ m | .smap _ m | .sunmap _ m | .sflush _ m _
  | .ldg _ m | .stg _ m | .ldc _ m | .atom _ m _ | .red _ m _ | .pref _ m _ => m.ok
  | .binit _ o _ | .barr _ o | .bbytes _ o _ => fitsSigned o 22
  | .bwait _ o k | .barrw _ o k | .copy _ o k | .enq _ o k | .mmwait _ o k => fitsSigned o 22 && k < 256
  | .hjoin _ g | .hleave _ g | .harr _ g => g < 256
  | .hwait _ g k => g < 256 && k < 256
  | .publish _ n => n < 64
  | .collRun _ t | .collLoad _ t | .collDrop _ t => t < 64
  | .mma _ n | .mmscl _ n => n < 1024
  | _ => true

/-- The parts of a head that its fields hold, under the attributes of its instruction. -/
def Head.ok (h : Head) (t : Attr) : Bool :=
  h.d < 248 && h.a.ok && h.c.ok && h.e < 248 &&
  (match h.pred with
   | none => true
   | some p => p.src.ok && p.src ≠ .reg 0) &&
  (match h.b with
   | .src o => !h.form.hasLit && o.ok
   | .imm22 _ => !h.form.hasLit && t.cls = .a
   | .lit _ => h.form.hasLit) &&
  (t.e ≠ 0 || h.e = 0) && (h.ty ≠ .dflt || t.dflt = .dflt) &&
  (if t.ty2s.isEmpty then h.ty2 = .dflt else h.c = .reg 0)

/-- A base word carries it (R15, R17): no predicate, default type, one type, no C, no E, X zero; operands within 7 bits; and
modifiers zero but for what a Bi immediate gives. -/
def Head.baseOk (h : Head) (t : Attr) (op x m : Nat) : Bool :=
  h.pred = none && h.ty = t.dflt && t.ty2s.isEmpty && h.c = .reg 0 && h.e = 0 && x = 0 && h.d < 120 && h.a.short &&
  (match h.b with
   | .lit _ => m = 0
   | .imm22 v => t.bi && m = 0 && fitsSigned v.toInt 7
   | .src o =>
     if t.bi then
       t.cls ≠ .a && o = .reg 0 &&
       (if op = 0x0A then m % 2 ^ 16 = 0 && fitsSigned (toInt (m / 2 ^ 16) 16) 7
        else m % 2 ^ 8 = 0 && fitsSigned (toInt (m / 2 ^ 8) 24) 7)
     else m = 0 && o.short)

/-- A well-formed instruction. -/
def Instr.wf (i : Instr) : Bool :=
  match i.parts, i.raw, i.attr with
  | some (op, x, m, h), some r, some t =>
    i.argsOk && h.ok t && r.detail = none &&
    (match h.form with
     | .base | .baseLit => h.baseOk t op x m
     | _ => true)
  | _, _, _ => false

end Sys2Proof
end

