-- ==== Sys2Proof/Certificates/Slice0/Obligations.lean ====
section
/-! DEFINITION. The statements about the machine that are to be proved. A statement with several parts is the conjunction of its
parts, each of them a claim with a name of its own. -/

open Sys2Proof Sys2Proof.Machine

/-- Words that the specification writes out decode to the instructions it gives them for: examples of R33, R57 to R60, R67,
R103, R117, R120, R123, R145, R147, R168, R169, R172, R173, R174, R271, R302, R303, R304, R327, R344, R363 to R365, R373;
and one word each of rows 0x8 and 0x9, put together from R15. -/
def Obligations.DecodesSpecWords : Prop :=
  decodeWords [0xFA000004] = .ok (.bra Head.plain (-3)) ∧
  decodeWords [0xF85C000C] = .ok (.brnz { Head.plain with a := .reg 23 } (-4)) ∧
  decodeWords [0x00A00018] = .ok (.ret { Head.plain with a := .reg 40 }) ∧
  decodeWords [0x0000001C] = .ok (.yield Head.plain) ∧
  decodeWords [0x0000003C] = .ok (.nop Head.plain) ∧
  decodeWords [0x00000020] = .ok (.exit Head.plain) ∧
  decodeWords [0x20000022, 0x00000014, 0] = .ok (.exitWithSuccessors { Head.plain with form := .ext, a := .reg 20 } 2) ∧
  decodeWords [0x00000027, 0, 0x00040400, 0x01010701, 0] =
    .ok (.repeatLoop { Head.plain with form := .extLit, b := .lit 0x01010701#64 } false 4 1) ∧
  decodeWords [0x0A000028] = .ok (.trap Head.plain 5) ∧
  decodeWords [0x0000002A, 0, 0x03E80000] = .ok (.trap { Head.plain with form := .ext } 1000) ∧
  decodeWords [0x0000002C] = .ok (.eret Head.plain) ∧
  decodeWords [0x0000A032, 0, 0x010] = .ok (.csrr { Head.plain with form := .ext, d := 20 } 0x010) ∧
  decodeWords [0x00000036, 0x14, 0x201] = .ok (.csrw { Head.plain with form := .ext, a := .reg 20 } 0x201) ∧
  decodeWords [0x6000A03A, 0x10, 0] = .ok (.selftestHbm { Head.plain with form := .ext, d := 20, a := .reg 16 }) ∧
  decodeWords [0x00004848] = .ok (.elect { Head.plain with d := 9, ty := .b32 } false) ∧
  decodeWords [0x2000A056, 0x1210, 0x18] =
    .ok (.parkNe { Head.plain with form := .ext, d := 20, a := .reg 16, b := .src (.reg 18), ty := .b32 } 24) ∧
  decodeWords [0x0000F05A, 0x3228, 0x200] =
    .ok (.spawn { Head.plain with form := .ext, d := 30, a := .reg 40, b := .src (.reg 50), ty := .b32 } false 2) ∧
  decodeWords [0x2240A080] =
    .ok (.add { Head.plain with d := 20, a := .reg 16, b := .src (.reg 17), ty := .s32 } ⟨0, false, false, .rne⟩) ∧
  decodeWords [0xF5E0A880] =
    .ok (.add { Head.plain with d := 21, a := .latch 1, b := .src (.latch 3), ty := .s32 } ⟨0, false, false, .rne⟩) ∧
  decodeWords [0x28500490] =
    .ok (.mul { Head.plain with nw := true, a := .reg 20, b := .src (.reg 20), ty := .s32 } ⟨0, false, false, .rne⟩) ∧
  decodeWords [0x2240A140] =
    .ok (.fadd { Head.plain with d := 20, a := .reg 16, b := .src (.reg 17), ty := .f32 } ⟨0, false, false, .rne⟩) ∧
  decodeWords [0x0000F172, 0x1121201F, 0] =
    .ok (.fma2 { Head.plain with form := .ext, d := 30, a := .reg 31, b := .src (.reg 32), c := .reg 33, ty := .bf16 }
      ⟨0, false, false, .rne⟩) ∧
  decodeWords [0x000141A2, 0x120F0029, 0x30] =
    .ok (.cvt { Head.plain with form := .ext, d := 40, a := .reg 41, ty := .e4m3, ty2 := .f32 } ⟨3, false, false, .rne⟩
      false) ∧
  decodeWords [0x1000F1A6, 0x121E1716, 0x30] =
    .ok (.pack { Head.plain with form := .ext, d := 30, a := .reg 22, b := .src (.reg 23), c := .reg 30, ty := .e4m3 }
      ⟨3, false, false, .rne⟩ 1 false) ∧
  decodeWords [0x2440A1AC] =
    .ok (.rand { Head.plain with d := 20, a := .reg 16, b := .src (.reg 18), ty := .b32 } false 0) ∧
  decodeWords [0x005001B0] = .ok (.cntflush { Head.plain with a := .reg 20 }) ∧
  decodeWords [0x0000A1C1, 8, 0] =
    .ok (.lalloc { Head.plain with form := .baseLit, d := 20, b := .lit 8#64, ty := .b32 } ⟨0, 0, 0, .plain⟩ false) ∧
  decodeWords [0x005001C4] = .ok (.lfree { Head.plain with a := .reg 20, ty := .b32 } ⟨0, 0, 0, .plain⟩) ∧
  decodeWords [0x1000A9D2, 0x10, 0] =
    .ok (.ldl { Head.plain with form := .ext, d := 21, a := .reg 16, ty := .b32 } ⟨0, 0, 0, .plain⟩ .take) ∧
  decodeWords [0x000001D6, 0x1410, 0x20000] =
    .ok (.stl { Head.plain with form := .ext, a := .reg 16, b := .src (.reg 20), ty := .b32 } ⟨128, 0, 0, .plain⟩ .plain) ∧
  decodeWords [0x224001DC] =
    .ok (.setfull { Head.plain with a := .reg 16, b := .src (.reg 17), ty := .b32 } ⟨0, 0, 0, .plain⟩) ∧
  decodeWords [0x22400200] = .ok (.binit { Head.plain with a := .reg 16, b := .src (.reg 17) } 0 false) ∧
  decodeWords [0x00082A40] = .ok (.ldg { Head.plain with d := 5, a := .reg 2, ty := .b32 } ⟨0, 0, 0, .plain⟩) ∧
  decodeWords [0x0000A299, 3, 0] = .ok (.steptag { Head.plain with form := .baseLit, d := 20, b := .lit 3#64 }) ∧
  decodeWords [0x2000A29C] = .ok (.snapStat { Head.plain with d := 20, b := .src (.reg 16) }) ∧
  decodeWords [0x1000A29F, 0, 0, 3, 0] = .ok (.snapGo { Head.plain with form := .extLit, d := 20, b := .lit 3#64 }) ∧
  decodeWords [0x0000A2A2, 0x00181210, 0] =
    .ok (.digest { Head.plain with form := .ext, d := 20, a := .reg 16, b := .src (.reg 18), c := .reg 24 }) ∧
  decodeWords [0x0040A290] = .ok (.repart { Head.plain with d := 20, a := .reg 16 }) ∧
  decodeWords [0x0040F2C0] = .ok (.mma { Head.plain with d := 30, a := .reg 16 } 0)

/-- Encoding a well-formed instruction and decoding the words, whatever words follow, gives that instruction with every operand
(R12, R15 to R22). -/
def Claim.DecodeEncode : Prop :=
  ∀ (i : Instr) (rest : List Nat), i.wf = true → decodeWords (encode i ++ rest) = .ok i

/-- The bytes of a well-formed instruction, each word little-endian, decode to it and leave the bytes behind them (R7, R12). -/
def Claim.DecodeEncodeBytes : Prop :=
  ∀ (i : Instr) (rest : List Byte), i.wf = true → decode (encodeBytes i ++ rest) = .ok (i, rest)

/-- Decoding the words or the bytes of every well-formed instruction gives it back, with every operand. -/
def Obligations.DecodeOfEncodeIsIdentity : Prop :=
  Claim.DecodeEncode ∧ Claim.DecodeEncodeBytes

/-- Every instruction that the decoder gives is well-formed (R28). -/
def Claim.DecodesWellFormed : Prop :=
  ∀ (ws : List Nat) (i : Instr), (∀ w ∈ ws, w < 2 ^ 32) → decodeWords ws = .ok i → i.wf = true

/-- Every word of an unassigned opcode decodes to no instruction and has detail 0x01; so does a word of zeros (R28, R30). -/
def Claim.UnassignedOpcodes : Prop :=
  decodeWords [0] = .error (.illegal 0x01) ∧
  ∀ (w : Nat) (ws : List Nat),
    field w 2 8 ∈ [0x00, 0x17, 0x18, 0x19, 0x1A, 0x1B, 0x1C, 0x1D, 0x1E, 0x1F, 0x2E, 0x2F, 0x4D, 0x4E, 0x4F, 0x5F, 0x6D, 0x6E, 0x6F,
        0x7C, 0x7D, 0x7E, 0x7F, 0x8A, 0x8B, 0x8C, 0x8D, 0x8E, 0x8F, 0x97, 0x98, 0x99, 0x9A, 0x9B, 0x9C, 0x9D, 0x9E, 0x9F, 0xA9, 0xAA,
        0xAB, 0xAC, 0xAD, 0xAE, 0xAF, 0xB6, 0xB7, 0xB8, 0xB9, 0xBA, 0xBB, 0xBC, 0xBD, 0xBE, 0xBF] ∨ 0xC0 ≤ field w 2 8 →
    wordCount w ≤ (w :: ws).length → decodeWords (w :: ws) = .error (.illegal 0x01)

/-- What decodes is well-formed, and an unassigned opcode decodes to no instruction. -/
def Obligations.OnlyWellFormedInstructionsDecode : Prop :=
  Claim.DecodesWellFormed ∧ Claim.UnassignedOpcodes

/-- When a SIMD unit takes its turn, and the words at the issue point of the threads that issue decode to an instruction, the step
is the meaning of that instruction in those threads, after the turn has begun; the turn then closes and time passes (R44, R45). -/
def Claim.StepRunsDecoded : Prop :=
  ∀ (s s' : State) (c u ns g : Nat) (grp : Group) (k : Nat) (t : Thread) (rest : List (Nat × Thread)) (ws : List Nat) (r : Raw)
    (i : Instr),
    s.nextMove = (.act (.issue c u), ns, s') → s'.stage ≠ 15 → (s'.core ((4 * c + u) / 4)).gated = false →
    s'.pickGroup (4 * c + u) = some (g, grp) →
    s'.pickThreads g = (k, t) :: rest → (∀ p ∈ (k, t) :: rest, p.2.hold = .none) → t.rep = none →
    s'.fetchInstr (coreOf k) (s'.asidOf k) (s'.launchOf k) t.pc.toNat = .words ws → rawOf ws = some r → decodeWords ws = .ok i →
    step s = match exec i (s'.issues (4 * c + u) g (k :: rest.map Prod.fst) r.extWords) with
      | .next t => .next (t.closeTurn.passes ns)
      | o => o

/-- An encoding that is no instruction traps with cause 0x01 and its detail in every issuing thread, and does nothing else
(R28). -/
def Claim.IllegalEncodingTraps : Prop :=
  ∀ (s : State) (u g : Nat) (grp : Group) (k : Nat) (t : Thread) (rest : List (Nat × Thread)) (ws : List Nat) (r : Raw) (d : Nat),
    s.stage ≠ 15 → (s.core (u / 4)).gated = false → s.pickGroup u = some (g, grp) → s.pickThreads g = (k, t) :: rest →
    (∀ p ∈ (k, t) :: rest, p.2.hold = .none) → t.rep = none →
    s.fetchInstr (coreOf k) (s.asidOf k) (s.launchOf k) t.pc.toNat = .words ws → rawOf ws = some r →
    decodeWords ws = .error (.illegal d) →
    s.takeTurn u = .done ((((k :: rest.map Prod.fst).foldl (fun (s : State) k => s.trap k 0x01 d 0)
      { s.fresh.2.beginTurn u g s.serial (k :: rest.map Prod.fst) with
          issuing := some ⟨g, k :: rest.map Prod.fst, s.serial, r.extWords⟩ }).endTurn (k :: rest.map Prod.fst) s.serial))

/-- No instruction and no step of the device stops the machine: what the specification turns away it answers with a trap, a report or no
effect, and a value it leaves open is a free value. -/
def Claim.EveryInstructionAnswers : Prop := ∀ (i : Instr) (s : State), ∃ t, exec i s = .next t

/-- A step that the agenda names is that step of the device, and takes it off the agenda. The agenda is the model's own (log 1). -/
def Claim.AgendaStep : Prop :=
  ∀ (s : State) (i : Instr) (ns : Nat) (rest : List Move), s.agenda = ⟨ns, .event i⟩ :: rest → i.parts = none →
    step s = match exec i { s with agenda := rest } with
      | .next t => .next (t.passes ns)
      | o => o

/-- A step runs the instruction that the words at the program counter decode to, or its trap, or the agenda's move. -/
def Obligations.StepRunsDecodedInstruction : Prop :=
  Claim.StepRunsDecoded ∧ Claim.IllegalEncodingTraps ∧ Claim.EveryInstructionAnswers ∧ Claim.AgendaStep

/-- Reset leaves every store of bytes in its canonical form. -/
def Claim.ResetCanonical : Prop := Canonical State.reset

/-- What reset leaves where the specification gives it (R69, R101, R152, R291, R335, R366, R380): no thread, block or context, a larder,
banks and logs with nothing in them, start-up at stage 0, and no ticket or fault outstanding. -/
def Claim.ResetState : Prop :=
  State.reset.threads = [] ∧ State.reset.blocks = [] ∧ State.reset.contexts = [] ∧ State.reset.records = [] ∧
  State.reset.regs.bootstage = 0 ∧ State.reset.timebase = 0 ∧ State.reset.arrlog = [] ∧ State.reset.xfrlog = [] ∧
  State.reset.faillog = [] ∧ State.reset.tickets = [] ∧ State.reset.memory = []

/-- What reset leaves, and that its stores of bytes are in canonical form. -/
def Obligations.ResetIsAsSpecified : Prop :=
  Claim.ResetCanonical ∧ Claim.ResetState

/-- Every step keeps every store of bytes in its canonical form: host memory, device memory, the storage-class stacks, the larders
and the B banks. -/
def Obligations.StepKeepsMemoryCanonical : Prop := ∀ s s' : State, Canonical s → step s = .next s' → Canonical s'

/-- Writing bytes and reading them back gives those bytes, every other address reads as before, and the canonical form stays. -/
def Obligations.BytesWrittenAreRead : Prop :=
  ∀ (m : List Host.Cell) (a : Nat) (bs : List Byte), Memory.wf m →
    Memory.wf (putBytes m a bs) ∧ bytesAt (putBytes m a bs) a bs.length = bs ∧
    ∀ x, x < a ∨ a + bs.length ≤ x → byteAt (putBytes m a bs) x = byteAt m x

/-- What the results of an instruction leave in its thread: D and then E are written, the window takes D, the pc moves on, and
no other register and no other part of the thread changes (R21, R69, R72 to R74). -/
def Claim.ResultsInThread : Prop :=
  ∀ (t : Thread) (i : Instr) (h : Head) (r : Res),
    let w := regWords (destWidth i)
    let t' := t.finish i h r
    t'.reg 0 = 0 ∧
    (∀ v, r.e = some v → h.e ≠ 0 → t'.reg h.e = BitVec.ofNat 32 v) ∧
    (∀ j, j < w → h.nw = false → h.d ≠ 0 → (r.e = none ∨ h.e ≠ h.d + j) → t'.reg (h.d + j) = BitVec.ofNat 32 (r.d / 2 ^ (32 * j))) ∧
    (∀ n, (r.e = none ∨ n ≠ h.e) → (h.nw = true ∨ h.d = 0 ∨ n < h.d ∨ h.d + w ≤ n) → t'.reg n = t.reg n) ∧
    (t'.window = if entersWindow i then (⟨r.d, destWidth i, latchReadable i⟩ :: t.window).take 8 else t.window) ∧
    (t.rep = none → t'.pc = t.pc + BitVec.ofNat 64 (lenOf i) ∧ t'.rep = none) ∧
    (t.keptLog = none → t'.keptLog = none) ∧
    { t' with regs := t.regs, incoming := t.incoming, keptLog := t.keptLog, window := t.window, pc := t.pc, rep := t.rep } = t

/-- An older load no longer writes a register that a younger instruction has written, and neither does the replay of the access whose
trap the thread handles; every other incoming write stays as it was (R72). -/
def Claim.YoungerWriteWins : Prop :=
  ∀ (t : Thread) (n w v : Nat), n ≠ 0 →
    (∀ x ∈ (t.write n w v).incoming, ∀ j, j < regWords w → n + j ∉ x.live) ∧
    (t.write n w v).incoming.map Incoming.wid = t.incoming.map Incoming.wid ∧
    (∀ x ∈ t.incoming, (∀ j, j < regWords w → n + j ∉ x.live) → x ∈ (t.write n w v).incoming) ∧
    (t.write n w v).keptLog.map (fun g => { g with live := [] }) = t.keptLog.map (fun g => { g with live := [] }) ∧
    ∀ g, t.keptLog = some g → ∃ g', (t.write n w v).keptLog = some g' ∧
      ∀ x, x ∈ g'.live ↔ x ∈ g.live ∧ ∀ j, j < regWords w → x ≠ n + j

/-- R72, R74, R75 and R129: an instruction of rows 0x7 to 0xB sends its result off: no register changes yet, the registers of D are the
youngest incoming write, and the window takes a position that cannot be read; with no register to write, nothing is on its way. -/
def Claim.ResultsSentOff : Prop :=
  ∀ (t : Thread) (i : Instr) (h : Head) (wid : Nat), t.rep = none →
    let w := destWidth i
    let t' := t.sendOff i h wid
    t'.regs = t.regs ∧ t'.pc = t.pc + BitVec.ofNat 64 (lenOf i) ∧
    (wid ≠ 0 → ∃ l, t'.incoming = l ++ [⟨wid, h.d, w, List.range' h.d ((w + 31) / 32), none⟩] ∧
      l.map Incoming.wid = t.incoming.map Incoming.wid ∧ ∀ x ∈ l, ∀ r ∈ x.live, r < h.d ∨ h.d + (w + 31) / 32 ≤ r) ∧
    (wid = 0 → t'.incoming = t.incoming) ∧
    (w ≠ 0 → t'.window = ((⟨0, w, false⟩ : Latch) :: t.window).take 8) ∧ (w = 0 → t'.window = t.window) ∧
    { t' with pc := t.pc, incoming := t.incoming, window := t.window } = t

/-- What the results of an instruction leave in its thread, at once or as an incoming write. -/
def Obligations.ResultsInThread : Prop :=
  Claim.ResultsInThread ∧ Claim.YoungerWriteWins ∧ Claim.ResultsSentOff

/-- R83 and R84: add, sub, mul, mad, their 64-bit forms, mulhi, mulw, and the carry chains addc and subc, complete in the thread
that issues them with the value and the `sat` event that the rules give, and change nothing else. -/
def Obligations.IntegerArithmetic : Prop :=
  ∀ (s : State) (k : Nat) (t : Thread) (h : Head) (m : ModA),
    let a := intVal h.ty (t.rd h.a h.ty.regWidth)
    let b := intVal h.ty (t.rdB h.b h.ty.regWidth)
    let c := intVal h.ty (t.rd h.c h.ty.regWidth)
    let ua : Int := t.rd h.a 32
    let ub : Int := t.rdB h.b 32
    let c0 : Int := (t.rd h.c 32 % 2 : Nat)
    let out (x : Int) : Res :=
      if m.sat then ⟨intOut h.ty (clampInt x h.ty), none, if clampInt x h.ty ≠ x then .oneSat else .none⟩
      else ⟨intOut h.ty x, none, .none⟩
    (Runs (.add h m) h s k t → exec (.add h m) s = .next (wrote (.add h m) h m.tid (out (a + b)) s k t)) ∧
    (Runs (.sub h m) h s k t → exec (.sub h m) s = .next (wrote (.sub h m) h m.tid (out (a - b)) s k t)) ∧
    (Runs (.mul h m) h s k t → exec (.mul h m) s = .next (wrote (.mul h m) h m.tid (out (a * b)) s k t)) ∧
    (Runs (.mad h m) h s k t → exec (.mad h m) s = .next (wrote (.mad h m) h m.tid (out (a * b + c)) s k t)) ∧
    (Runs (.add64 h m) h s k t → exec (.add64 h m) s = .next (wrote (.add64 h m) h m.tid (out (a + b)) s k t)) ∧
    (Runs (.sub64 h m) h s k t → exec (.sub64 h m) s = .next (wrote (.sub64 h m) h m.tid (out (a - b)) s k t)) ∧
    (Runs (.mul64 h m) h s k t → exec (.mul64 h m) s = .next (wrote (.mul64 h m) h m.tid (out (a * b)) s k t)) ∧
    (Runs (.mulhi h m) h s k t →
      exec (.mulhi h m) s = .next (wrote (.mulhi h m) h m.tid ⟨(a * b / 2 ^ 32 % 2 ^ 32).toNat, none, .none⟩ s k t)) ∧
    (Runs (.mulw h m) h s k t →
      exec (.mulw h m) s = .next (wrote (.mulw h m) h m.tid ⟨(a * b % 2 ^ 64).toNat, none, .none⟩ s k t)) ∧
    (Runs (.addc h m) h s k t →
      exec (.addc h m) s = .next (wrote (.addc h m) h m.tid
        ⟨((ua + ub + c0) % 2 ^ 32).toNat, some (if 2 ^ 32 ≤ ua + ub + c0 then 1 else 0), .none⟩ s k t)) ∧
    (Runs (.subc h m) h s k t →
      exec (.subc h m) s = .next (wrote (.subc h m) h m.tid
        ⟨((ua - ub - c0) % 2 ^ 32).toNat, some (if ua - ub - c0 < 0 then 1 else 0), .none⟩ s k t))

/-- R85 and R86: min, max, abs, cmp, sel, their 64-bit forms, and lea. -/
def Obligations.IntegerCompareSelect : Prop :=
  ∀ (s : State) (k : Nat) (t : Thread) (h : Head) (m : ModA) (cond : Cond) (sh : Nat),
    let a := intVal h.ty (t.rd h.a h.ty.regWidth)
    let b := intVal h.ty (t.rdB h.b h.ty.regWidth)
    let pick (x : Int) : Res := ⟨intOut h.ty x, none, .none⟩
    let holds : Bool := match cond with
      | .eq => a = b
      | .ne => a ≠ b
      | .lt => a < b
      | .le => a ≤ b
      | .gt => a > b
      | .ge => a ≥ b
    let x : Int := if 0 ≤ a then a else -a
    let index : Int := if h.ty = .s32 then (BitVec.ofNat 32 (t.rdB h.b 32)).toInt else t.rdB h.b 32
    (Runs (.min h m) h s k t → exec (.min h m) s = .next (wrote (.min h m) h m.tid (pick (if a ≤ b then a else b)) s k t)) ∧
    (Runs (.max h m) h s k t → exec (.max h m) s = .next (wrote (.max h m) h m.tid (pick (if a ≥ b then a else b)) s k t)) ∧
    (Runs (.min64 h m) h s k t → exec (.min64 h m) s = .next (wrote (.min64 h m) h m.tid (pick (if a ≤ b then a else b)) s k t)) ∧
    (Runs (.max64 h m) h s k t → exec (.max64 h m) s = .next (wrote (.max64 h m) h m.tid (pick (if a ≥ b then a else b)) s k t)) ∧
    (Runs (.abs h m) h s k t →
      exec (.abs h m) s = .next (wrote (.abs h m) h m.tid
        (if m.sat then ⟨intOut h.ty (clampInt x h.ty), none, if clampInt x h.ty ≠ x then .oneSat else .none⟩ else pick x) s k t)) ∧
    (Runs (.cmp h m cond) h s k t →
      exec (.cmp h m cond) s = .next (wrote (.cmp h m cond) h m.tid ⟨if holds then 1 else 0, none, .none⟩ s k t)) ∧
    (Runs (.cmp64 h m cond) h s k t →
      exec (.cmp64 h m cond) s = .next (wrote (.cmp64 h m cond) h m.tid ⟨if holds then 1 else 0, none, .none⟩ s k t)) ∧
    (Runs (.sel h m) h s k t →
      exec (.sel h m) s = .next (wrote (.sel h m) h m.tid
        ⟨if t.rd h.c 32 % 2 = 1 then t.rd h.a h.ty.regWidth else t.rdB h.b h.ty.regWidth, none, .none⟩ s k t)) ∧
    (Runs (.lea h m sh) h s k t →
      exec (.lea h m sh) s = .next (wrote (.lea h m sh) h m.tid
        ⟨((t.rd h.a 64 + index * 2 ^ sh) % 2 ^ 64).toNat, none, .none⟩ s k t))

/-- R87: the bitwise operations on patterns of the type's width w, the shifts by the count in bits [7:0] of B, and the rotations.
The 32-bit patterns are taken as bit vectors. -/
def Obligations.LogicAndShifts : Prop :=
  ∀ (s : State) (k : Nat) (t : Thread) (h : Head) (m : ModA),
    let w := h.ty.regWidth
    let a := BitVec.ofNat w (t.rd h.a w)
    let b := BitVec.ofNat w (t.rdB h.b w)
    let x := BitVec.ofNat 32 (t.rd h.a 32)
    let y := BitVec.ofNat 64 (t.rd h.a 64)
    let n := t.rdB h.b 32 % 256
    let res (v : Nat) : Res := ⟨v, none, .none⟩
    (h.ty = .b32 ∨ h.ty = .b64 →
      (Runs (.and h m) h s k t → exec (.and h m) s = .next (wrote (.and h m) h m.tid (res (a &&& b).toNat) s k t)) ∧
      (Runs (.or h m) h s k t → exec (.or h m) s = .next (wrote (.or h m) h m.tid (res (a ||| b).toNat) s k t)) ∧
      (Runs (.xor h m) h s k t → exec (.xor h m) s = .next (wrote (.xor h m) h m.tid (res (a ^^^ b).toNat) s k t)) ∧
      (Runs (.andn h m) h s k t → exec (.andn h m) s = .next (wrote (.andn h m) h m.tid (res (a &&& ~~~b).toNat) s k t)) ∧
      (Runs (.not h m) h s k t → exec (.not h m) s = .next (wrote (.not h m) h m.tid (res (~~~a).toNat) s k t))) ∧
    (Runs (.shl h m) h s k t → exec (.shl h m) s = .next (wrote (.shl h m) h m.tid (res (x <<< n).toNat) s k t)) ∧
    (Runs (.shr h m) h s k t → exec (.shr h m) s = .next (wrote (.shr h m) h m.tid (res (x >>> n).toNat) s k t)) ∧
    (Runs (.sar h m) h s k t → exec (.sar h m) s = .next (wrote (.sar h m) h m.tid (res (x.sshiftRight n).toNat) s k t)) ∧
    (Runs (.rol h m) h s k t → exec (.rol h m) s = .next (wrote (.rol h m) h m.tid (res (x.rotateLeft (n % 32)).toNat) s k t)) ∧
    (Runs (.ror h m) h s k t → exec (.ror h m) s = .next (wrote (.ror h m) h m.tid (res (x.rotateRight (n % 32)).toNat) s k t)) ∧
    (Runs (.shl64 h m) h s k t → exec (.shl64 h m) s = .next (wrote (.shl64 h m) h m.tid (res (y <<< n).toNat) s k t)) ∧
    (Runs (.shr64 h m) h s k t → exec (.shr64 h m) s = .next (wrote (.shr64 h m) h m.tid (res (y >>> n).toNat) s k t)) ∧
    (Runs (.sar64 h m) h s k t → exec (.sar64 h m) s = .next (wrote (.sar64 h m) h m.tid (res (y.sshiftRight n).toNat) s k t))

/-- R88 to R91: bit fields, counts, bit reversal, moves and extensions, with the field cut off at bit 31 and a field width of 0 or
beyond 32 read as 32. -/
def Obligations.FieldsCountsMoves : Prop :=
  ∀ (s : State) (k : Nat) (t : Thread) (h : Head) (m : ModA),
    let w := h.ty.regWidth
    let a := BitVec.ofNat w (t.rd h.a w)
    let x := BitVec.ofNat 32 (t.rd h.a 32)
    let c := BitVec.ofNat 32 (t.rd h.c 32)
    let f := t.rdB h.b 32
    let p := f % 256
    let n := if 32 ≤ p then 0 else min (f / 256 % 256) (32 - p)
    let v := (x >>> p).toNat % 2 ^ n
    let mask := BitVec.ofNat 32 ((2 ^ n - 1) * 2 ^ p)
    let e := if f % 128 = 0 ∨ 32 < f % 128 then 32 else f % 128
    let res (v : Nat) : Res := ⟨v, none, .none⟩
    (h.ty = .b32 ∨ h.ty = .s32 →
      (Runs (.bfe h m) h s k t →
        exec (.bfe h m) s = .next (wrote (.bfe h m) h m.tid
          (res (if n = 0 then 0 else if h.ty = .s32 then ((BitVec.ofNat n v).signExtend 32).toNat else v)) s k t)) ∧
      (Runs (.bfi h m) h s k t →
        exec (.bfi h m) s = .next (wrote (.bfi h m) h m.tid (res ((c &&& ~~~mask) ||| ((x <<< p) &&& mask)).toNat) s k t))) ∧
    (h.ty = .b32 ∨ h.ty = .b64 →
      (Runs (.popc h m) h s k t →
        exec (.popc h m) s = .next (wrote (.popc h m) h m.tid (res ((List.range w).countP fun i => a.getLsbD i)) s k t)) ∧
      (Runs (.clz h m) h s k t → exec (.clz h m) s = .next (wrote (.clz h m) h m.tid (res a.clz.toNat) s k t)) ∧
      (Runs (.ctz h m) h s k t → exec (.ctz h m) s = .next (wrote (.ctz h m) h m.tid (res a.ctz.toNat) s k t)) ∧
      (Runs (.brev h m) h s k t → exec (.brev h m) s = .next (wrote (.brev h m) h m.tid (res a.reverse.toNat) s k t))) ∧
    (Runs (.mov h m) h s k t → exec (.mov h m) s = .next (wrote (.mov h m) h m.tid (res (t.rd h.a w)) s k t)) ∧
    (Runs (.movi h m) h s k t → exec (.movi h m) s = .next (wrote (.movi h m) h m.tid (res (t.rdB h.b w)) s k t)) ∧
    (Runs (.sext h m) h s k t →
      exec (.sext h m) s = .next (wrote (.sext h m) h m.tid
        (res (((BitVec.ofNat e (t.rd h.a 32)).signExtend h.ty.width).toNat)) s k t)) ∧
    (Runs (.zext h m) h s k t →
      exec (.zext h m) s = .next (wrote (.zext h m) h m.tid (res (t.rd h.a 32 % 2 ^ e)) s k t))

/-- R27 and R107 to R109: the sums, products and choices of one and of two packed values complete with one rounding each, where an
IMM22 immediate is a binary32 value converted to the type. -/
def Obligations.FloatArithmetic : Prop :=
  ∀ (s : State) (k : Nat) (t : Thread) (h : Head) (m : ModA),
    let f := fmtOf h.ty
    let r : Round := ⟨m.rnd, m.sat, m.ftz, false⟩
    let a := t.rd h.a h.ty.regWidth
    let c := t.rd h.c h.ty.regWidth
    let imm (v : BitVec 22) : Nat := (f.round ⟨m.rnd, false, false, false⟩ ((fmtOf .f32).value (v.toNat * 2 ^ 10))).1
    let b := match h.b with
      | .imm22 v => imm v
      | b => t.rdB b h.ty.regWidth
    let b2 := match h.b with
      | .imm22 v => imm v + imm v * 2 ^ 16
      | b => t.rdB b 32
    let half (v i : Nat) : Nat := v / 2 ^ (16 * i) % 2 ^ 16
    let one (x : Nat × Events) : Res := ⟨x.1, none, x.2⟩
    let two (g : Nat → Nat × Events) : Res := ⟨(g 0).1 + (g 1).1 * 2 ^ 16, none, (g 0).2.plus (g 1).2⟩
    (Runs (.fadd h m) h s k t → exec (.fadd h m) s = .next (wrote (.fadd h m) h m.tid (one (f.addP r a b)) s k t)) ∧
    (Runs (.fsub h m) h s k t → exec (.fsub h m) s = .next (wrote (.fsub h m) h m.tid (one (f.subP r a b)) s k t)) ∧
    (Runs (.fmul h m) h s k t → exec (.fmul h m) s = .next (wrote (.fmul h m) h m.tid (one (f.mulP r a b)) s k t)) ∧
    (Runs (.fma h m) h s k t → exec (.fma h m) s = .next (wrote (.fma h m) h m.tid (one (f.fmaP r a b c)) s k t)) ∧
    (Runs (.fmin h m) h s k t → exec (.fmin h m) s = .next (wrote (.fmin h m) h m.tid (one (f.pickP m.ftz false a b)) s k t)) ∧
    (Runs (.fmax h m) h s k t → exec (.fmax h m) s = .next (wrote (.fmax h m) h m.tid (one (f.pickP m.ftz true a b)) s k t)) ∧
    (Runs (.fadd2 h m) h s k t →
      exec (.fadd2 h m) s = .next (wrote (.fadd2 h m) h m.tid
        (two fun i => f.addP r (half (t.rd h.a 32) i) (half b2 i)) s k t)) ∧
    (Runs (.fmul2 h m) h s k t →
      exec (.fmul2 h m) s = .next (wrote (.fmul2 h m) h m.tid
        (two fun i => f.mulP r (half (t.rd h.a 32) i) (half b2 i)) s k t)) ∧
    (Runs (.fma2 h m) h s k t →
      exec (.fma2 h m) s = .next (wrote (.fma2 h m) h m.tid
        (two fun i => f.fmaP r (half (t.rd h.a 32) i) (half b2 i) (half (t.rd h.c 32) i)) s k t)) ∧
    (Runs (.fmin2 h m) h s k t →
      exec (.fmin2 h m) s = .next (wrote (.fmin2 h m) h m.tid
        (two fun i => f.pickP m.ftz false (half (t.rd h.a 32) i) (half b2 i)) s k t)) ∧
    (Runs (.fmax2 h m) h s k t →
      exec (.fmax2 h m) s = .next (wrote (.fmax2 h m) h m.tid
        (two fun i => f.pickP m.ftz true (half (t.rd h.a 32) i) (half b2 i)) s k t))

/-- R110 to R113: fcmp, fclass, fround and fscale. -/
def Obligations.FloatCompareClassScale : Prop :=
  ∀ (s : State) (k : Nat) (t : Thread) (h : Head) (m : ModA) (cond : FCond) (exp : Bool),
    let f := fmtOf h.ty
    let a := t.rd h.a h.ty.regWidth
    let b := match h.b with
      | .imm22 v => (f.round ⟨m.rnd, false, false, false⟩ ((fmtOf .f32).value (v.toNat * 2 ^ 10))).1
      | b => t.rdB b h.ty.regWidth
    let fa := f.operand m.ftz a
    let fb := f.operand m.ftz b
    let holds : Bool := match f.value fa.1, f.value fb.1 with
      | .nan, _ | _, .nan => cond = .ne || cond = .un
      | x, y => match cond with
        | .eq => Machine.Num.cmp x y = .eq
        | .ne => Machine.Num.cmp x y ≠ .eq
        | .lt => Machine.Num.cmp x y = .lt
        | .le => Machine.Num.cmp x y = .lt || Machine.Num.cmp x y = .eq
        | .gt => Machine.Num.cmp x y = .gt
        | .ge => Machine.Num.cmp x y = .gt || Machine.Num.cmp x y = .eq
        | .un => false
        | .or => true
    let cls : Nat := match f.value a with
      | .inf true => 0
      | .fin true 0 _ => 3
      | .fin true _ _ => if f.subnormal a then 2 else 1
      | .fin false 0 _ => 4
      | .fin false _ _ => if f.subnormal a then 5 else 6
      | .inf false => 7
      | .nan => 8
    let ex : Nat := match f.value a with
      | .fin _ 0 _ => 0x80000000
      | .fin _ n e => (((Nat.log2 n : Int) + e) % 2 ^ 32).toNat
      | _ => 0x7FFFFFFF
    let rounded : Nat × Events := match f.value fa.1 with
      | .nan => (f.canon, fa.2.plus .oneNan)
      | .inf _ => (fa.1, fa.2)
      | .fin neg n e =>
        if n = 0 ∨ 0 ≤ e then (fa.1, fa.2)
        else ((f.round ⟨.rne, false, false, false⟩ (.fin neg (roundShift m.rnd neg n (-e) false) 0)).1, fa.2)
    let scaled := f.round ⟨m.rnd, m.sat, m.ftz, false⟩ ((f.value fa.1).scale (BitVec.ofNat 32 (t.rdB h.b 32)).toInt)
    (Runs (.fcmp h m cond) h s k t →
      exec (.fcmp h m cond) s =
        .next (wrote (.fcmp h m cond) h m.tid ⟨if holds then 1 else 0, none, fa.2.plus fb.2⟩ s k t)) ∧
    (Runs (.fclass h m exp) h s k t →
      exec (.fclass h m exp) s =
        .next (wrote (.fclass h m exp) h m.tid ⟨if exp then ex else 2 ^ cls, none, .none⟩ s k t)) ∧
    (Runs (.fround h m) h s k t →
      exec (.fround h m) s = .next (wrote (.fround h m) h m.tid ⟨rounded.1, none, rounded.2⟩ s k t)) ∧
    (Runs (.fscale h m) h s k t →
      exec (.fscale h m) s = .next (wrote (.fscale h m) h m.tid ⟨scaled.1, none, fa.2.plus scaled.2⟩ s k t))

/-- A value that a format holds rounds to its own pattern, in every mode, and records nothing (R92, R97). -/
def Obligations.RepresentableValuesRoundToThemselves : Prop :=
  ∀ (ty : Ty) (v : Nat) (r : Round), ty ∈ [Ty.f64, .f32, .f16, .bf16, .e4m3, .e5m2] → v < 2 ^ (fmtOf ty).width → r.ftz = false →
    (∃ neg m e, (fmtOf ty).value v = .fin neg m e) → (fmtOf ty).round r ((fmtOf ty).value v) = (v, .none)

/-- R114, R115, R117 to R125: approximations, conversions, packing, unpacking and random numbers complete with the value and the
events of the operation on the operands read; rand counts nothing. The values of the approximations on finite operands are those of
fixed-point evaluations (log 9). -/
def Obligations.ApproxConvertPackRand : Prop :=
  ∀ (s : State) (k : Nat) (t : Thread) (h : Head) (m : ModA) (ovn unit : Bool) (n : Nat),
    let r : Round := ⟨m.rnd, m.sat, m.ftz, false⟩
    let ap (op : Approx) : Res :=
      let x := (fmtOf h.ty).approxP op r (t.rd h.a h.ty.regWidth)
      ⟨x.1, none, x.2⟩
    let e := (BitVec.ofNat 16 (t.rdB h.b 32)).toInt
    let y := randWords (t.rd h.a 64) (t.rd h.c 64) (t.rdB h.b 64)
    let word : Nat := match n with
      | 0 => y.x0
      | 1 => y.x1
      | 2 => y.x2
      | _ => y.x3
    let pair : Nat := if n % 2 = 0 then y.x0 + 2 ^ 32 * y.x1 else y.x2 + 2 ^ 32 * y.x3
    let drawn : Nat := if h.ty = .b64
      then (if unit then ((fmtOf .f64).round ⟨.rne, false, false, false⟩ (.fin false (pair / 2 ^ 11) (-53))).1 else pair)
      else (if unit then ((fmtOf .f32).round ⟨.rne, false, false, false⟩ (.fin false (word / 2 ^ 8) (-24))).1 else word)
    let (e0, e1, ev) := packPair m ovn h t
    let w := h.ty.width
    let base := t.rd h.c 32
    let lo := 2 ^ (2 * w * n)
    (Runs (.frcp h m) h s k t → exec (.frcp h m) s = .next (wrote (.frcp h m) h m.tid (ap .rcp) s k t)) ∧
    (Runs (.frsq h m) h s k t → exec (.frsq h m) s = .next (wrote (.frsq h m) h m.tid (ap .rsq) s k t)) ∧
    (Runs (.fsqrt h m) h s k t → exec (.fsqrt h m) s = .next (wrote (.fsqrt h m) h m.tid (ap .sqrt) s k t)) ∧
    (Runs (.fexp2 h m) h s k t → exec (.fexp2 h m) s = .next (wrote (.fexp2 h m) h m.tid (ap .exp2) s k t)) ∧
    (Runs (.flog2 h m) h s k t → exec (.flog2 h m) s = .next (wrote (.flog2 h m) h m.tid (ap .log2) s k t)) ∧
    (Runs (.fsin h m) h s k t → exec (.fsin h m) s = .next (wrote (.fsin h m) h m.tid (ap .sin) s k t)) ∧
    (Runs (.fcos h m) h s k t → exec (.fcos h m) s = .next (wrote (.fcos h m) h m.tid (ap .cos) s k t)) ∧
    (Runs (.ftanh h m) h s k t → exec (.ftanh h m) s = .next (wrote (.ftanh h m) h m.tid (ap .tanh) s k t)) ∧
    (Runs (.cvt h m ovn) h s k t →
      exec (.cvt h m ovn) s =
        .next (wrote (.cvt h m ovn) h m.tid (cvtVal m ovn h.ty h.ty2 (t.rd h.a h.ty2.regWidth) e) s k t)) ∧
    (Runs (.pack h m n ovn) h s k t → e0 < 2 ^ w → e1 < 2 ^ w →
      exec (.pack h m n ovn) s =
        .next (wrote (.pack h m n ovn) h m.tid
          ⟨base % lo + (e0 + 2 ^ w * e1) * lo + base / (lo * 2 ^ (2 * w)) * (lo * 2 ^ (2 * w)), none, ev⟩ s k t)) ∧
    (Runs (.unpack h m n) h s k t →
      exec (.unpack h m n) s = .next (wrote (.unpack h m n) h m.tid (unpackRes m n h t) s k t)) ∧
    (Runs (.rand h unit n) h s k t →
      exec (.rand h unit n) s = .next (wrote (.rand h unit n) h 0 ⟨drawn, none, .none⟩ s k t))

/-- R115: what the approximations give for zeros, infinities and NaN, and for negative operands of frsq, fsqrt and flog2, as
binary32 patterns. -/
def Claim.ApproxSpecialOperands : Prop :=
  let inf := 0x7F800000
  let nan := 0x7FC00000
  let minus := 0x80000000
  let one := 0x3F800000
  let f (op : Approx) (a : Nat) : Nat := ((fmtOf .f32).approxP op ⟨.rne, false, false, false⟩ a).1
  [Approx.rcp, .rsq, .sqrt, .exp2, .log2, .sin, .cos, .tanh].map (fun op => f op 0) = [inf, inf, 0, one, minus + inf, 0, one, 0] ∧
  [Approx.rcp, .rsq, .sqrt, .exp2, .log2, .sin, .cos, .tanh].map (fun op => f op minus) =
    [minus + inf, minus + inf, minus, one, minus + inf, minus, one, minus] ∧
  [Approx.rcp, .rsq, .sqrt, .exp2, .log2, .sin, .cos, .tanh].map (fun op => f op inf) = [0, 0, inf, inf, inf, nan, nan, one] ∧
  [Approx.rcp, .rsq, .sqrt, .exp2, .log2, .sin, .cos, .tanh].map (fun op => f op (minus + inf)) =
    [minus, nan, nan, 0, nan, nan, nan, minus + one] ∧
  [Approx.rcp, .rsq, .sqrt, .exp2, .log2, .sin, .cos, .tanh].map (fun op => f op 0x7F800001) = [nan, nan, nan, nan, nan, nan, nan, nan] ∧
  ∀ v, minus < v → v < minus + inf → [Approx.rsq, .sqrt, .log2].map (fun op => f op v) = [nan, nan, nan]

/-- R116: the exact cases of the approximations for normal f32 operands: powers of two for frcp and flog2, even powers of two for
frsq and fsqrt, and integers for fexp2, with no event. -/
def Claim.ApproxExactCases : Prop :=
  ∀ (ftz : Bool) (k : Nat), 1 ≤ k → k ≤ 253 →
    let f (op : Approx) (a : Nat) : Nat × Events := (fmtOf .f32).approxP op ⟨.rne, false, ftz, false⟩ a
    let int (j : Int) : Nat := ((fmtOf .f32).round ⟨.rne, false, false, false⟩ (.fin (decide (j < 0)) j.natAbs 0)).1
    f .rcp (k * 2 ^ 23) = ((254 - k) * 2 ^ 23, .none) ∧
    f .log2 (k * 2 ^ 23) = (int ((k : Int) - 127), .none) ∧
    f .exp2 (int ((k : Int) - 127)) = (k * 2 ^ 23, .none) ∧
    (k % 2 = 1 → f .sqrt (k * 2 ^ 23) = ((k + 127) / 2 * 2 ^ 23, .none) ∧ f .rsq (k * 2 ^ 23) = ((381 - k) / 2 * 2 ^ 23, .none))

/-- What the approximations give for special operands, and their exact cases. -/
def Obligations.ApproxSpecialOperands : Prop :=
  Claim.ApproxSpecialOperands ∧ Claim.ApproxExactCases

/-- The checks that come before an instruction's own effect, in their order: a register at or beyond the declared count (R28,
detail 0x0B), a privileged opcode in user mode and selftest without SYS (R29), the latch of P, the predicate, the latches of the
sources, of which those with detail 0x01 come first (R25, R77). -/
def Claim.ChecksInOrder : Prop :=
  ∀ (s : State) (i : Instr) (k : Nat) (t : Thread) (h : Head),
    let sys := ((s.ctx? (s.asidOf k)).map Context.sys).getD false
    let pLatch := match h.pred with
      | some { src := .latch n, .. } => t.latchBad n
      | _ => none
    let pOn := match h.pred with
      | none => true
      | some p => (t.rd p.src 32 % 2 == 1) != p.neg
    (i.overRegs (s.regCount k) = true → s.gate i k t h = .trap 0x01 0x0B 0) ∧
    (i.overRegs (s.regCount k) = false → isPrivileged i = true → t.priv = false → s.gate i k t h = .trap 0x02 0x01 0) ∧
    (i.overRegs (s.regCount k) = false → (isPrivileged i = true → t.priv = true) → opOf i = 0x0E → sys = false →
      s.gate i k t h = .trap 0x02 0x02 0) ∧
    (i.overRegs (s.regCount k) = false → (isPrivileged i = true → t.priv = true) → (opOf i = 0x0E → sys = true) →
      (∀ d, pLatch = some d → ∃ n, s.gate i k t h = .trap 0x04 d n) ∧
      (pLatch = none → pOn = false → s.gate i k t h = .off) ∧
      (pLatch = none → pOn = true → (∀ n ∈ i.latches, t.latchBad n = none) → s.gate i k t h = .on) ∧
      (pLatch = none → pOn = true → ∀ l n r, i.latches = l ++ n :: r →
        ((∀ x ∈ l, t.latchBad x ≠ some 0x01) → t.latchBad n = some 0x01 → s.gate i k t h = .trap 0x04 0x01 n) ∧
        ((∀ x ∈ i.latches, t.latchBad x ≠ some 0x01) → (∀ x ∈ l, t.latchBad x = none) → t.latchBad n = some 0x02 →
          s.gate i k t h = .trap 0x04 0x02 n)))

/-- A latch position takes the trap when fewer results have entered the window, and when its producer is not latch-readable (R77). -/
def Claim.LatchChecks : Prop :=
  ∀ (t : Thread) (n : Nat), 1 ≤ n →
    (t.window.length < n → t.latchBad n = some 0x01) ∧
    (∀ l, t.window[n - 1]? = some l → t.latchBad n = if l.readable then none else some 0x02)

/-- The checks before an instruction come in their order, and what a latch position answers. -/
def Obligations.ChecksComeInOrder : Prop :=
  Claim.ChecksInOrder ∧ Claim.LatchChecks

/-- A disabled instruction writes no register and no memory, parks, traps and counts nothing: its thread moves on by the
instruction's length, and the window takes the value D held, or zero under NW (R25). repeat is left to the statement about it. -/
def Claim.DisabledOnlyMovesOn : Prop :=
  ∀ (s : State) (i : Instr) (h : Head) (k : Nat) (t : Thread),
    Alone s k t → FreshCycle s → i.head = some h → s.gate i k t h = .off → opOf i ≠ 0x09 →
    exec i s = .next (s.setThread k
      (({ t with window := if entersWindow i then
            ((⟨if h.nw then 0 else t.readReg h.d (destWidth i) % 2 ^ entryWidth i, destWidth i, latchReadable i⟩ : Latch) :: t.window).take 8
          else t.window }).next (lenOf i)))

/-- A check that stops an instruction in the one thread that issues delivers its trap, and nothing of the instruction happens (R28,
R29, R77). repeat is left to the statement about it. -/
def Claim.ChecksTrap : Prop :=
  ∀ (s : State) (i : Instr) (h : Head) (k : Nat) (t : Thread) (c d v : Nat),
    Alone s k t → FreshCycle s → i.head = some h → s.gate i k t h = .trap c d v → opOf i ≠ 0x09 →
    exec i s = .next (s.trap k c d v)

/-- A disabled instruction only moves on, and a check that stops an instruction only traps. -/
def Obligations.DisabledAndTrappingInstructions : Prop :=
  Claim.DisabledOnlyMovesOn ∧ Claim.ChecksTrap

/-- R357: a trap in user mode with a handler saves the pc, cause, info, words and REPEAT state, empties the window, and continues in
privileged mode at the handler; registers and everything else stay. -/
def Claim.TrapEntersHandler : Prop :=
  ∀ (s : State) (k : Nat) (t : Thread) (g : Issue) (grp : Group) (cause detail info : Nat),
    s.thread? k = some t → t.priv = false → s.issuing = some g → s.groups.look (groupOf k) = some grp → grp.hdr.handler ≠ 0 →
    s.trap k cause detail info = s.setThread k
      { t with
          tepc := t.pc
          tcause := BitVec.ofNat 32 (cause * 2 ^ 8 + detail)
          tinfo := BitVec.ofNat 64 info
          tinsta := BitVec.ofNat 64 (g.words.getD 0 0 + 2 ^ 32 * g.words.getD 1 0)
          tinstb := BitVec.ofNat 64 (g.words.getD 2 0)
          savedRep := t.rep, rep := none, window := [], priv := true, pc := BitVec.ofNat 64 grp.hdr.handler, keptLog := none
          hold := .none }

/-- R359, R361 and R362: a trap without a handler, or in privileged mode, ends the thread, marks its block failed and is reported with
cause 0x20; the thread waits in its slot while the fault queue has no room. -/
def Claim.UnhandledTrap : Prop :=
  ∀ (s : State) (k : Nat) (t : Thread) (b : Block) (g : Issue) (cause detail info : Nat),
    s.thread? k = some t → s.blocks.look t.bid = some b → s.issuing = some g →
    (t.priv = true ∨ ((s.headerOf k).map Header.handler).getD 0 = 0) →
    let entry := s.reportEntry b.asid 0x20 (cause % 2 ^ 8) (unhandledRecord t.pc.toNat (cause * 2 ^ 8 + detail) b.handle info
      (g.words.getD 0 0) (laneOf k) t.priv)
    let failed := s.updBlock t.bid fun b => { b with failed := true }
    detail < 2 ^ 8 →
    s.trap k cause detail info =
      if failed.canReport b.asid then (failed.fileReport b.asid entry).endThread k
      else failed.setThread k { t with hold := .report entry .ends }

/-- A trap enters the handler of its context, or ends its thread with a report. -/
def Obligations.TrapsAreTaken : Prop :=
  Claim.TrapEntersHandler ∧ Claim.UnhandledTrap

/-- R101 and R102: a counter reached by events adds them up to 0xFFFF_FFFF and stays there; the counters of other slots and kinds,
and the sets of other launches, stay as they are. -/
def Claim.CountersSaturate : Prop :=
  ∀ (c : CounterSet) (tid : Nat) (e : Events), Map.wf 0 c.counts → tid < 64 →
    (c.add tid e).counts.lookD (3 * tid) 0 = min 0xFFFFFFFF (c.counts.lookD (3 * tid) 0 + e.sat) ∧
    (c.add tid e).counts.lookD (3 * tid + 1) 0 = min 0xFFFFFFFF (c.counts.lookD (3 * tid + 1) 0 + e.flush) ∧
    (c.add tid e).counts.lookD (3 * tid + 2) 0 = min 0xFFFFFFFF (c.counts.lookD (3 * tid + 2) 0 + e.nan) ∧
    (∀ x, x ≠ 3 * tid → x ≠ 3 * tid + 1 → x ≠ 3 * tid + 2 → (c.add tid e).counts.lookD x 0 = c.counts.lookD x 0) ∧
    Map.wf 0 (c.add tid e).counts ∧ (c.add tid e).launch = c.launch

/-- R101, R104: cntflush is a release: while its block's stash lines have still to be written back, its thread issues it again (R162);
then it zeroes the set of its launch on its core, dumps it to the address that A gives, and moves its thread on; of a launch without a
set it only moves on; the set of a launch without a dump address goes nowhere when A is v0. -/
def Claim.CounterFlush : Prop :=
  ∀ (s : State) (k : Nat) (t : Thread) (h : Head),
    let addr := if h.a = .reg 0 then none else some (t.rd h.a 64 / 64 * 64)
    let u := s.releaseStash t.bid
    let v := u.flushSet (coreOf k) (s.launchOf k) addr
    (Runs (.cntflush h) h s k t → s.releaseStash t.bid = s → s.stashHeld t.bid = false →
      s.counterSet (coreOf k) (s.launchOf k) = none → exec (.cntflush h) s = .next (moved (.cntflush h) s k t)) ∧
    (Runs (.cntflush h) h s k t → Runs (.cntflush h) h u k t → u.stashHeld t.bid = true →
      exec (.cntflush h) s = .next (u.holdReplay k)) ∧
    (Runs (.cntflush h) h s k t → Runs (.cntflush h) h u k t → Runs (.cntflush h) h v k t → u.launchOf k = s.launchOf k →
      u.stashHeld t.bid = false → exec (.cntflush h) s = .next (moved (.cntflush h) v k t)) ∧
    ∀ (core launch : Nat) (c : CounterSet) (l : Launch), s.counterSet core launch = some c → s.launches.look launch = some l →
      l.hdr.dump = 0 → s.flushSet core launch none = s.updCore core fun x =>
        { x with counters := x.counters.map fun y => if y.launch = launch then { y with counts := [] } else y }

/-- Event counters saturate, and cntflush zeroes the set of its launch. -/
def Obligations.CountersSaturateAndFlush : Prop :=
  Claim.CountersSaturate ∧ Claim.CounterFlush

/-- R45 and R225: threads that issue one register instruction together each do what they would do alone: the results of a thread
depend on that thread's own operands and on no other. A register instruction is one whose meaning gives each thread its results. -/
def Obligations.ThreadsOfGroupAreIndependent : Prop :=
  ∀ (s : State) (g : Issue) (i : Instr) (h : Head) (tid : Nat) (f : Head → Thread → Res),
    exec i s = alu i tid f s → i.head = some h → pairingMatters i = false → s.issuing = some g → g.threads.Nodup →
    (∀ k ∈ g.threads, ∃ t, s.thread? k = some t ∧ t.passed = false ∧ (s.gate i k t h = .on ∨ s.gate i k t h = .off)) →
    ∃ s', exec i s = .next s' ∧
      (∀ k ∈ g.threads, ∀ t, s.thread? k = some t →
        s'.thread? k = some (if s.gate i k t h = .on then t.finish i h (f h t) else t.disabled i)) ∧
      (∀ k, k ∉ g.threads → s'.thread? k = s.thread? k) ∧
      s' = { s with threads := s'.threads, cores := s'.cores }

/-- R57: bra, brz, brnz and call go to the address plus four times the offset, which a literal's low 32 bits or OFS24 gives; a
branch that is not taken checks no target; a taken one beyond 52 bits takes the instruction-address trap; call writes its link. -/
def Claim.Branches : Prop :=
  ∀ (s : State) (k : Nat) (t : Thread) (h : Head) (ofs : Int),
    let off : Int := match h.b with
      | .lit v => (BitVec.ofNat 32 v.toNat).toInt
      | _ => ofs
    let target := ((t.pc.toNat + 4 * off) % 2 ^ 64).toNat
    let go (s : State) : State := s.setThread k { t with pc := BitVec.ofNat 64 target }
    let bad := s.trap k 0x03 0x02 target
    let link : Res := ⟨(t.pc + BitVec.ofNat 64 (lenOf (.call h ofs))).toNat, none, .none⟩
    (Runs (.bra h ofs) h s k t → exec (.bra h ofs) s = .next (if 2 ^ 52 ≤ target then bad else go s)) ∧
    (Runs (.brz h ofs) h s k t →
      exec (.brz h ofs) s = .next
        (if t.rd h.a 32 ≠ 0 then moved (.brz h ofs) s k t else if 2 ^ 52 ≤ target then bad else go s)) ∧
    (Runs (.brnz h ofs) h s k t →
      exec (.brnz h ofs) s = .next
        (if t.rd h.a 32 = 0 then moved (.brnz h ofs) s k t else if 2 ^ 52 ≤ target then bad else go s)) ∧
    (Runs (.call h ofs) h s k t →
      exec (.call h ofs) s = .next
        (if 2 ^ 52 ≤ target then bad
         else s.setThread k { t.writeResults (.call h ofs) h link with pc := BitVec.ofNat 64 target }))

/-- R58: jmp and ret go to the address that pair A held before anything is written; jmp writes its link; an address that is no
multiple of 4, or beyond 52 bits, takes the instruction-address trap, and then no link is written. -/
def Claim.IndirectBranches : Prop :=
  ∀ (s : State) (k : Nat) (t : Thread) (h : Head),
    let target := t.rd h.a 64
    let link : Res := ⟨(t.pc + BitVec.ofNat 64 (lenOf (.jmp h))).toNat, none, .none⟩
    let run (good : State) : State :=
      if target % 4 ≠ 0 then s.trap k 0x03 0x01 target else if 2 ^ 52 ≤ target then s.trap k 0x03 0x02 target else good
    (Runs (.jmp h) h s k t →
      exec (.jmp h) s = .next (run (s.setThread k { t.writeResults (.jmp h) h link with pc := BitVec.ofNat 64 target }))) ∧
    (Runs (.ret h) h s k t → exec (.ret h) s = .next (run (s.setThread k { t with pc := BitVec.ofNat 64 target })))

/-- R363 and R364: trap raises the user trap with its code; eret returns to TEPC in user mode with an empty window and the saved
REPEAT state if TEPC lies in its body; a TEPC that is no instruction address is an unhandled trap. -/
def Claim.TrapAndEret : Prop :=
  ∀ (s : State) (k : Nat) (t : Thread) (h : Head) (code : Nat),
    let c := match h.b with
      | .lit v => v.toNat % 2 ^ 16
      | _ => code
    let word := ((s.issuing.map Issue.words).getD []).headD 0
    let rep := match t.savedRep with
      | some r =>
        if r.addr + r.len ≤ t.tepc.toNat ∧ t.tepc.toNat < r.addr + r.len + 4 * r.body.length then some { r with fetched := false }
        else none
      | none => none
    (Runs (.trap h code) h s k t → exec (.trap h code) s = .next (s.trap k 0x0F 0 c)) ∧
    (Runs (.eret h) h s k t → t.tepc.toNat % 4 = 0 → t.tepc.toNat < 2 ^ 52 → t.keptLog = none →
      exec (.eret h) s = .next (s.setThread k { t with priv := false, pc := t.tepc, rep := rep, savedRep := none, window := [] })) ∧
    (Runs (.eret h) h s k t → t.tepc.toNat % 4 ≠ 0 → exec (.eret h) s = .next (s.unhandled k 0x301 t.tepc.toNat word)) ∧
    (Runs (.eret h) h s k t → t.tepc.toNat % 4 = 0 → 2 ^ 52 ≤ t.tepc.toNat →
      exec (.eret h) s = .next (s.unhandled k 0x302 t.tepc.toNat word))

/-- Branches, calls, returns, trap and eret complete where the specification sends them. -/
def Obligations.BranchesTrapsAndReturns : Prop :=
  Claim.Branches ∧ Claim.IndirectBranches ∧ Claim.TrapAndEret

/-- R59 and R60: nop and yield go to the next instruction, and yield makes the group stand back once; exit ends the thread. -/
def Claim.NopYieldExit : Prop :=
  ∀ (s : State) (k : Nat) (t : Thread) (h : Head),
    (Runs (.nop h) h s k t → exec (.nop h) s = .next (moved (.nop h) s k t)) ∧
    (Runs (.yield h) h s k t →
      exec (.yield h) s = .next ((moved (.yield h) s k t).updGroup (groupOf k) fun g => { g with yielded := true })) ∧
    (Runs (.exit h) h s k t → exec (.exit h) s = .next (s.endThread k))

/-- R59: after a yield the unit does not pick that group again while another group of it is ready. -/
def Claim.YieldStandsBack : Prop :=
  ∀ (s : State) (u g g' : Nat) (x y : Group),
    let back (v : Group) : Prop := v.yielded = true ∧ v.lastIssue = (s.unit u).turn
    s.pickGroup u = some (g, x) → (g', y) ∈ s.groups → g' / 16 = u → s.readyThreads g' ≠ [] → ¬ back y → ¬ back x

/-- A thread that ends leaves its lane position and its block has one thread fewer; no other thread changes (R60). -/
def Claim.ThreadEnds : Prop :=
  ∀ (s : State) (k : Nat) (t : Thread), (s.threads.Pairwise fun a b => a.1 < b.1) → s.thread? k = some t →
    (s.endThread k).thread? k = none ∧ (∀ n, n ≠ k → (s.endThread k).thread? n = s.thread? n) ∧
    (∀ b, s.blocks.look t.bid = some b → (s.endThread k).blocks.look t.bid = some { b with alive := b.alive - 1 }) ∧
    (s.endThread k).memory = s.memory ∧ (s.endThread k).records = s.records

/-- R344: exit with successors adds the addresses it names, zeros left out and each once, to its block's list in ascending order of
their pairs, and ends the thread; a bad address and a fifth successor trap and leave the list. -/
def Claim.ExitWithSuccessors : Prop :=
  ∀ (s : State) (k : Nat) (t : Thread) (h : Head) (n : Nat) (b : Block), Runs (.exitWithSuccessors h n) h s k t →
    s.blockOf k = some b →
    let named := successorsOf t h n
    let all := named.foldl (fun acc a => if a ∈ acc then acc else acc ++ [a]) b.succ
    ((∀ a ∈ named, a % 64 = 0 ∧ a < 2 ^ 52) → all.length ≤ 4 →
      exec (.exitWithSuccessors h n) s = .next ((s.updBlock t.bid fun b => { b with succ := all }).endThread k)) ∧
    (∀ a l l', named = l ++ a :: l' → (∀ x ∈ l, x % 64 = 0 ∧ x < 2 ^ 52) → (a % 64 ≠ 0 ∨ 2 ^ 52 ≤ a) →
      exec (.exitWithSuccessors h n) s = .next (s.trap k 0x0E 0x02 a)) ∧
    ((∀ a ∈ named, a % 64 = 0 ∧ a < 2 ^ 52) → 4 < all.length →
      ∃ a, exec (.exitWithSuccessors h n) s = .next (s.trap k 0x0E 0x01 a))

/-- nop and yield move on, yield stands back once, and exit ends its thread with its successors. -/
def Obligations.NopYieldExit : Prop :=
  Claim.NopYieldExit ∧ Claim.YieldStandsBack ∧ Claim.ThreadEnds ∧ Claim.ExitWithSuccessors

/-- R61, R63 and R64: repeat enters its body with pass 0, or passes over it when the count is 0; a body it may not have takes detail
0x0C of the illegal-instruction trap; a word of the body that a peer holds is asked for, and the thread issues again (R314). -/
def Claim.RepeatEnters : Prop :=
  ∀ (s : State) (k : Nat) (t : Thread) (h : Head) (byReg : Bool) (count body : Nat) (ws : List Nat),
    let i := Instr.repeatLoop h byReg count body
    let first := t.pc + BitVec.ofNat 64 (lenOf i)
    let n := if byReg then min (t.rd h.a 32) 65535 else count
    let got := s.fetchWords (coreOf k) (s.asidOf k) (s.launchOf k) first.toNat (if 32 < body then 0 else body)
    Runs i h s k t →
    (got = .words ws → repeatBad body ws h.b.literal = false → exec (.repeatLoop h byReg count body) s = .next (s.setThread k
      (if n = 0 then { t with pc := first + BitVec.ofNat 64 (4 * body) }
       else { t with pc := first, rep := some ⟨t.pc.toNat, lenOf i, 0, n, ws, h.b.literal, true⟩ }))) ∧
    (got = .words ws → repeatBad body ws h.b.literal = true → exec (.repeatLoop h byReg count body) s = .next (s.trap k 0x01 0x0C 0)) ∧
    (∀ pa l, got = .ask pa l → exec (.repeatLoop h byReg count body) s = .next ((s.askCode (s.asidOf k) (s.launchOf k) pa l).holdReplay k))

/-- R64: at the end of its body a thread starts the next pass at the body's first word, and leaves it with its REPEAT state empty after
the last pass. -/
def Claim.RepeatPasses : Prop :=
  ∀ (t : Thread) (r : Repeat) (len : Nat), t.rep = some r →
    let after := t.pc + BitVec.ofNat 64 len
    let first := r.addr + r.len
    (after.toNat = first + 4 * r.body.length → r.pass + 1 < r.count →
      t.next len = { t with pc := BitVec.ofNat 64 first, rep := some { r with pass := r.pass + 1 } }) ∧
    (after.toNat = first + 4 * r.body.length → r.count ≤ r.pass + 1 → t.next len = { t with pc := after, rep := none }) ∧
    (after.toNat ≠ first + 4 * r.body.length → t.next len = { t with pc := after })

/-- R62: an increment adds pass times its step to the field it selects of the instruction at its word index: operand codes stay
register codes or name none, an offset may leave its field, and steps of SEL 5 and 6 count in units of 4 and 256 bytes. -/
def Claim.RepeatIncrements : Prop :=
  ∀ (r : Raw) (idx pass w : Nat) (step : Int), -128 ≤ step → step < 128 → w < 32 →
    let entry (sel : Nat) : Nat := w * 2 ^ 11 + sel * 2 ^ 8 + (step % 256).toNat
    let by_ : Int := pass * step
    let code (c : Int) : Int := if 0 ≤ c + by_ ∧ c + by_ ≤ 247 then c + by_ else -1
    (idx ≠ w → ∀ sel, sel < 8 → applyInc r (entry sel) idx pass = r) ∧
    applyInc r (entry 1) w pass = { r with d := code r.d } ∧ applyInc r (entry 2) w pass = { r with a := code r.a } ∧
    applyInc r (entry 3) w pass = { r with b := code r.b } ∧ applyInc r (entry 4) w pass = { r with c := code r.c } ∧
    applyInc r (entry 5) w pass = { r with ofsAdd := r.ofsAdd + 4 * by_ } ∧
    applyInc r (entry 6) w pass = { r with ofsAdd := r.ofsAdd + 256 * by_ } ∧
    applyInc r (entry 7) w pass = { r with repAdd := r.repAdd + by_ }

/-- repeat enters, repeats and leaves its body, and increments the fields it selects. -/
def Obligations.RepeatRunsItsBody : Prop :=
  Claim.RepeatEnters ∧ Claim.RepeatPasses ∧ Claim.RepeatIncrements

/-- R365 and R366: csrr and csrw take the control-register trap for an unassigned number, a register without a writable field, and an
access class that is not met, in that order. -/
def Claim.ControlRegisterTraps : Prop :=
  ∀ (s : State) (k : Nat) (t : Thread) (h : Head) (n : Nat),
    let assigned : Bool := n ≤ 0x004 || (0x010 ≤ n && n ≤ 0x012) || n = 0x100 || (0x200 ≤ n && n ≤ 0x208) ||
      (0x300 ≤ n && n ≤ 0x311) || n = 0x400 || n = 0x401 || (0x410 ≤ n && n ≤ 0x4FF)
    let sys := t.priv && ((s.ctx? (s.asidOf k)).map Context.sys).getD false
    let user : Bool := (0x010 ≤ n && n ≤ 0x012) || n = 0x100 || n = 0x203 || (0x300 ≤ n && n ≤ 0x30F) || n = 0x400 || n = 0x401
    let handler : Bool := n ≤ 0x004
    let readOnly : Bool := (0x001 ≤ n && n ≤ 0x004) || (0x010 ≤ n && n ≤ 0x012) || n = 0x100 || n = 0x208 ||
      (0x300 ≤ n && n ≤ 0x30F) || n = 0x311 || n = 0x400 || n = 0x401
    let mayRead : Bool := n ≠ 0x201 && (user || (handler && t.priv) || sys)
    let mayWrite : Bool := if n = 0x000 then t.priv else sys
    (Runs (.csrr h n) h s k t → assigned = false → exec (.csrr h n) s = .next (s.trap k 0x0D 0x01 n)) ∧
    (Runs (.csrr h n) h s k t → assigned = true → (if handler then t.priv else mayRead) = false →
      exec (.csrr h n) s = .next (s.trap k 0x0D 0x03 n)) ∧
    (Runs (.csrw h n) h s k t → FreshCycle s → assigned = false → exec (.csrw h n) s = .next (s.trap k 0x0D 0x01 n)) ∧
    (Runs (.csrw h n) h s k t → FreshCycle s → assigned = true → readOnly = true →
      exec (.csrw h n) s = .next (s.trap k 0x0D 0x02 n)) ∧
    (Runs (.csrw h n) h s k t → FreshCycle s → assigned = true → readOnly = false → mayWrite = false →
      exec (.csrw h n) s = .next (s.trap k 0x0D 0x03 n))

/-- R365 and R366: csrr writes the register to its pair, for every register that its thread may read, and a log loses the entry that
it gives; a thread reads its own trap registers, its core and package numbers, its ASID, the timebase, its core's retention, and the
registers of the package as they stand. -/
def Claim.ControlRegisterReads : Prop :=
  ∀ (s : State) (k : Nat) (t : Thread) (h : Head) (n : Nat),
    (Runs (.csrr h n) h s k t → s.readTrap k t n = none →
      exec (.csrr h n) s =
        .next ((s.readRegister k t n).2.setThread k (t.finish (.csrr h n) h ⟨(s.readRegister k t n).1, none, .none⟩))) ∧
    ∀ v, (n, v) ∈ [(0x000, t.tepc.toNat), (0x001, t.tcause.toNat), (0x002, t.tinfo.toNat), (0x003, t.tinsta.toNat),
        (0x004, t.tinstb.toNat), (0x010, s.timebase.toNat), (0x011, coreOf k + s.pkg % 1024 * 2 ^ 8), (0x012, s.asidOf k),
        (0x100, (s.core (coreOf k)).lret.toNat), (0x200, s.regs.tlbinv.toNat), (0x202, s.regs.deadsig.toNat),
        (0x203, s.regs.pstat.toNat), (0x204, s.regs.rstctl.toNat), (0x205, s.regs.ctxbase.toNat), (0x206, s.regs.ctxctl.toNat),
        (0x207, s.regs.prectl.toNat), (0x208, s.regs.prestat.toNat), (0x310, s.regs.tlmctl.toNat), (0x311, s.regs.tlmres.toNat),
        (0x400, s.regs.clkstep.toNat), (0x401, s.regs.bootstage.toNat), (0x416, s.regs.stitch.toNat), (0x417, s.regs.defsel.toNat),
        (0x419, s.regs.vmctl.toNat), (0x41A, s.regs.vmres.toNat)] →
      s.readRegister k t n = (v, s)

/-- R372, R378: reading ARRLOG, XFRLOG or FAILLOG gives its oldest entry, zero when it is empty, and removes it, for a thread as for the
host, whose reply it is. -/
def Claim.LogReads : Prop :=
  ∀ (s : State) (k : Nat) (t : Thread) (h : Head),
    let first (l : List (BitVec 64)) : BitVec 64 := l.headD 0
    let reply (s : State) (v : BitVec 64) : State := s.send (.hostReply (some (toBytes 8 v.toNat)))
    (Runs (.csrr h 0x410) h s k t → s.readTrap k t 0x410 = none →
      exec (.csrr h 0x410) s =
        .next ({ s with arrlog := s.arrlog.tail }.setThread k (t.finish (.csrr h 0x410) h ⟨(first s.arrlog).toNat, none, .none⟩))) ∧
    (Runs (.csrr h 0x411) h s k t → s.readTrap k t 0x411 = none →
      exec (.csrr h 0x411) s =
        .next ({ s with xfrlog := s.xfrlog.tail }.setThread k (t.finish (.csrr h 0x411) h ⟨(first s.xfrlog).toNat, none, .none⟩))) ∧
    (Runs (.csrr h 0x415) h s k t → s.readTrap k t 0x415 = none →
      exec (.csrr h 0x415) s =
        .next ({ s with faillog := s.faillog.tail }.setThread k (t.finish (.csrr h 0x415) h ⟨(first s.faillog).toNat, none, .none⟩))) ∧
    exec .arrlogRead s = .next (reply { s with arrlog := s.arrlog.tail } (first s.arrlog)).settleOps ∧
    exec .xfrlogRead s = .next (reply { s with xfrlog := s.xfrlog.tail } (first s.xfrlog)).settleOps ∧
    exec .faillogRead s = .next (reply { s with faillog := s.faillog.tail } (first s.faillog)).settleOps

/-- csrr gives the value of a control register, or the trap that its number and access class give. -/
def Obligations.ControlRegisterReads : Prop :=
  Claim.ControlRegisterTraps ∧ Claim.ControlRegisterReads ∧ Claim.LogReads

/-- R162, R365 and R366: csrw first writes back its block's stash lines, and its thread issues it again while a write-back is still to
come; then it moves its thread on, and writes the pair to the register: TEPC, which also discards a kept log (R357), or a register of
the package, as REGISTER_WRITE by the host does from 0x200 upward. -/
def Claim.ControlRegisterWrites : Prop :=
  ∀ (s : State) (k : Nat) (t : Thread) (h : Head) (n value : Nat),
    let v := t.rd h.a 64
    let u := s.releaseStash t.bid
    let before := u.setThread k (t.next (lenOf (.csrw h n)))
    let cycle := (s.issuing.map Issue.cycle).getD 0
    (Runs (.csrw h n) h s k t → s.writeTrap k t n = none → u.stashHeld t.bid = true →
      exec (.csrw h n) s = .next ((u.holdReplay k).settleCycle cycle)) ∧
    (Runs (.csrw h n) h s k t → s.writeTrap k t n = none → u.stashHeld t.bid = false →
      exec (.csrw h n) s = .next ((if n = 0 then before.updThread k fun t => { t with tepc := BitVec.ofNat 64 v, keptLog := none }
        else before.writePackage n v).settleCycle cycle)) ∧
    exec (.registerWrite n value) s = .next (if 0x200 ≤ n then s.writePackage n (value % 2 ^ 64) else s).settleOps ∧
    (∀ th, exec (.tepcWrite th value) s =
      .next (s.updThread th fun t => if t.priv then { t with tepc := BitVec.ofNat 64 value, keptLog := none } else t).settleOps)

/-- R8, R198, R291, R335, R376, R383: a write of a register of the package changes its writable fields and nothing else: DEADSIG and
PSTAT clear a bit that is written as 1, CTXBASE takes the whole word, HBMCFG waits for its time, THSEL and DEFSEL take their fields,
and a register without a writable field stays. -/
def Claim.RegisterWriteFields : Prop :=
  ∀ (s : State) (v : Nat), v < 2 ^ 64 →
    let r := s.regs
    s.writePackage 0x202 v =
      { s with regs := { r with deadsig := if v.testBit 63 then r.deadsig &&& ~~~(1#64 <<< 63) else r.deadsig } } ∧
    s.writePackage 0x203 v =
      { s with regs := { r with pstat := if v.testBit 61 then r.pstat &&& ~~~(1#64 <<< 61) else r.pstat } } ∧
    s.writePackage 0x205 v = { s with regs := { r with ctxbase := BitVec.ofNat 64 v } } ∧
    s.writePackage 0x412 v = { s with regs := { r with hbmcfgNext := some (BitVec.ofNat 64 v &&& 0xFFFF#64) } } ∧
    s.writePackage 0x413 v = { s with regs := { r with thsel := BitVec.ofNat 64 v &&& 0x1F#64 } } ∧
    s.writePackage 0x417 v = { s with regs := { r with defsel := BitVec.ofNat 64 v &&& 0x1FFFF#64 } } ∧
    (∀ n ∈ [0x208, 0x300, 0x30F, 0x311, 0x400, 0x401, 0x410, 0x411, 0x414, 0x415, 0x418, 0x41A], s.writePackage n v = s)

/-- csrw and the host write the writable fields of a control register and nothing else. -/
def Obligations.ControlRegisterWrites : Prop :=
  Claim.ControlRegisterWrites ∧ Claim.RegisterWriteFields

/-- R373 and R374: selftest sends its thread on with D an incoming write and adds its test to those that run; .lane and .rf empty the
unit they name, where it exists. -/
def Claim.SelftestStarts : Prop :=
  ∀ (s : State) (k : Nat) (t : Thread) (h : Head),
    let sel := t.rd h.a 32
    let started (i : Instr) (x : Nat) : State :=
      { sentOff i h s k t with
        serial := resultNext i h s + 1, tests := s.tests ++ [⟨resultNext i h s, x, sel, resultWid i h s⟩] }
    let emptied (i : Instr) (x : Nat) : State :=
      (if sel < 768 then (started i x).emptyUnit sel else started i x).settleCycle ((s.issuing.map Issue.cycle).getD 0)
    (Runs (.selftestLane h) h s k t → exec (.selftestLane h) s = .next (emptied (.selftestLane h) 0)) ∧
    (Runs (.selftestRf h) h s k t → exec (.selftestRf h) s = .next (emptied (.selftestRf h) 1)) ∧
    (Runs (.selftestLar h) h s k t → exec (.selftestLar h) s = .next (started (.selftestLar h) 2)) ∧
    (Runs (.selftestDrw h) h s k t → exec (.selftestDrw h) s = .next (started (.selftestDrw h) 3)) ∧
    (Runs (.selftestArr h) h s k t → exec (.selftestArr h) s = .next (started (.selftestArr h) 4)) ∧
    (Runs (.selftestBank h) h s k t → exec (.selftestBank h) s = .next (started (.selftestBank h) 5)) ∧
    (Runs (.selftestHbm h) h s k t → exec (.selftestHbm h) s = .next (started (.selftestHbm h) 6)) ∧
    (Runs (.selftestScm h) h s k t → exec (.selftestScm h) s = .next (started (.selftestScm h) 7)) ∧
    (Runs (.selftestLink h) h s k t → exec (.selftestLink h) s = .next (started (.selftestLink h) 8))

/-- R374: a test that is the first of its target, with its unit empty where it tests one, ends with its outcome in D: outcome 3 for a
selector that names no target; a lasting fault is fenced. -/
def Claim.SelftestEnds : Prop :=
  ∀ (s : State) (q : RunningTest) (outcome index : Nat), s.tests.find? (fun t => t.serial = q.serial) = some q →
    s.tests.find? (sameTarget q) = some q →
    (selectorOk q.x q.selector = false →
      exec (.selftestComplete q.serial outcome index) s =
        .next ({ s with tests := s.tests.filter fun t => t.serial ≠ q.serial }.setIncoming q.wid (3 * 2 ^ 30 + q.x * 2 ^ 26)).settleOps) ∧
    (selectorOk q.x q.selector = true → 2 ≤ q.x → outcome < 2 →
      exec (.selftestComplete q.serial outcome index) s =
        .next ({ s with tests := s.tests.filter fun t => t.serial ≠ q.serial }.setIncoming q.wid
          (outcome * 2 ^ 30 + q.x * 2 ^ 26 + if outcome = 1 then index % 2 ^ 20 else 0)).settleOps) ∧
    (selectorOk q.x q.selector = true → 2 ≤ q.x →
      exec (.selftestComplete q.serial 2 index) s =
        .next ((({ s.fenceTested q.x q.selector (index % 2 ^ 20) with
            tests := (s.fenceTested q.x q.selector (index % 2 ^ 20)).tests.filter fun t => t.serial ≠ q.serial } : State)).setIncoming q.wid
          (2 * 2 ^ 30 + q.x * 2 ^ 26 + index % 2 ^ 20)).settleOps)

/-- selftest starts its test, and the test ends with its outcome in D. -/
def Obligations.Selftest : Prop :=
  Claim.SelftestStarts ∧ Claim.SelftestEnds

/-- R66 to R68: shfl, vote, elect and match give every participant a result that depends on all of them, read before anything is
written; the other threads move on. -/
def Claim.LaneInstructions : Prop :=
  ∀ (s : State) (g : Issue) (h : Head) (mode : ShflMode) (vm : VoteMode) (b : Bool),
    let w := h.ty.regWidth
    let bit0 (t : Thread) : Bool := t.rd h.a 32 % 2 = 1
    let mask (l : List (Nat × Thread)) : Nat := (l.map fun p => 2 ^ p.1).sum
    (∀ P, P = takingPart (.shfl h mode) h s g → Together (.shfl h mode) h s g →
      exec (.shfl h mode) s = .next (laneAfter (.shfl h mode) h s g fun k t =>
        let x := t.rdB h.b 32
        let j : Int := match mode with
          | .idx => (x % 32 : Nat)
          | .up => (laneOf k : Int) - x
          | .down => (laneOf k : Int) + x
          | .xor => (laneOf k ^^^ (x % 32) : Nat)
        match P.find? fun p => (p.1 : Int) = j with
        | some q => ⟨q.2.rd h.a w, some 1, .none⟩
        | none => ⟨t.rd h.a w, some 0, .none⟩)) ∧
    (∀ P, P = takingPart (.vote h vm) h s g → Together (.vote h vm) h s g →
      exec (.vote h vm) s = .next (laneAfter (.vote h vm) h s g fun _ _ =>
        ⟨match vm with
          | .all => if P.all fun p => bit0 p.2 then 1 else 0
          | .any => if P.any fun p => bit0 p.2 then 1 else 0
          | .ballot => mask (P.filter fun p => bit0 p.2)
          | .count => P.countP fun p => bit0 p.2, none, .none⟩)) ∧
    (∀ P, P = takingPart (.elect h b) h s g → Together (.elect h b) h s g →
      exec (.elect h b) s = .next (laneAfter (.elect h b) h s g fun k _ =>
        let winner := ((P.find? fun p => b = false ∨ bit0 p.2 = true).map Prod.fst).getD 32
        ⟨if laneOf k = winner then 1 else 0, some winner, .none⟩)) ∧
    (∀ P, P = takingPart (.matchLanes h b) h s g → Together (.matchLanes h b) h s g →
      exec (.matchLanes h b) s = .next (laneAfter (.matchLanes h b) h s g fun _ t =>
        let same := P.filter fun p => p.2.rd h.a w = t.rd h.a w
        if b then (if same = P then ⟨mask P, some 1, .none⟩ else ⟨0, some 0, .none⟩) else ⟨mask same, none, .none⟩))

/-- R67 and R68: lred gives every participant the reduction of all their values, and counts its events once, in the launch of the
lowest participant. -/
def Claim.LaneReduction : Prop :=
  ∀ (s : State) (g : Issue) (h : Head) (op : RedOp) (tid : Nat) (ftz : Bool) (rnd : Rnd) (k : Nat) (rest : List Nat),
    let i := Instr.lred h op tid ftz rnd
    Together i h s g → participants i h s = k :: rest →
    let r := lredRes op ftz rnd (takingPart i h s g) h
    exec (.lred h op tid ftz rnd) s = .next (laneAfter i h (s.count k tid r.2) g fun _ _ => ⟨r.1, none, .none⟩)

/-- R68: the integer reductions: a sum modulo 2^w, a minimum and a maximum of the values under the type, and the bitwise ones; the
order of the participants does not matter. -/
def Claim.LaneReductionOfIntegers : Prop :=
  ∀ (h : Head) (P : List (Nat × Thread)), P ≠ [] → h.ty ∈ [Ty.s32, .n32, .s64, .n64] →
    let w := h.ty.regWidth
    let val (p : Nat × Thread) : Nat := p.2.rd h.a w
    (lredRes .add false .rne P h).1 = (P.map val).sum % 2 ^ w ∧
    (∃ p ∈ P, (lredRes .min false .rne P h).1 = val p ∧ ∀ q ∈ P, intVal h.ty (val p) ≤ intVal h.ty (val q)) ∧
    (∃ p ∈ P, (lredRes .max false .rne P h).1 = val p ∧ ∀ q ∈ P, intVal h.ty (val q) ≤ intVal h.ty (val p)) ∧
    ∀ i, ((lredRes .and false .rne P h).1.testBit i = P.all fun p => (val p).testBit i) ∧
      ((lredRes .or false .rne P h).1.testBit i = P.any fun p => (val p).testBit i) ∧
      ((lredRes .xor false .rne P h).1.testBit i = (P.countP (fun p => (val p).testBit i) % 2 == 1))

/-- shfl, vote, elect, match and lred give every participant a result of all of them. -/
def Obligations.LaneOperations : Prop :=
  Claim.LaneInstructions ∧ Claim.LaneReduction ∧ Claim.LaneReductionOfIntegers

/-- R126 to R130: a thread that parks with room for its record leaves its lane; the record holds what it keeps: registers v1 to vK, its
REPEAT state, its incoming writes to kept registers, the resume address, the event and its log. -/
def Claim.ParkingWritesRecord : Prop :=
  ∀ (s : State) (k : Nat) (p : ParkReq) (t : Thread) (b : Block) (hdr : Header) (place : Place),
    s.thread? k = some t → s.blockOf k = some b → s.headerOf k = some hdr → (s.threads.Pairwise fun a b => a.1 < b.1) →
    s.placeFor (coreOf k) b.asid (recordSize p.keep t.rep.isSome p.mode) = some place → (∀ o n, place ≠ .overflow o n) →
    ∃ r, (s.parkThread k p).records.look s.serial = some r ∧ r.core = coreOf k ∧ r.asid = b.asid ∧ r.bid = t.bid ∧
      r.lane = laneOf k ∧ r.keep = p.keep ∧ r.mode = p.mode ∧ r.rep = t.rep ∧ r.resume = p.resume ∧ r.event = p.event ∧
      r.satisfied = p.satisfied ∧ r.place = place ∧ (∀ n, r.regs.lookD n 0 = if n ≤ p.keep then t.regs.lookD n 0 else 0) ∧
      (s.parkThread k p).thread? k = none ∧ (∀ n, n ≠ k → (s.parkThread k p).thread? n = s.thread? n) ∧
      (s.parkThread k p).memory = s.memory

/-- R145, R146, R358: park.now parks its thread with an event that is satisfied; park.until and park.ne complete at once when the time
has come or the word differs, with their reason, and park on their event otherwise. A thread in privileged mode waits in its slot. A word
of a peer's page is asked for first, and the instruction issues again (R314). -/
def Claim.ParkInstructions : Prop :=
  ∀ (s : State) (k : Nat) (t : Thread) (h : Head) (keep : Nat) (g : Issue),
    s.issuing = some g →
    let d := t.rd h.a 64
    let passed := d ≤ s.timebase.toNat ∧ d < 2 ^ 60
    let K := if keep = 0 then s.regCount k - 1 else keep
    let log (i : Instr) (ea b c aux : Nat) : OpLog := ⟨g.words, ea, b, c, lenOf i, aux, [], false⟩
    let waits (s : State) (event : Nat) (l : OpLog) : State :=
      (s.parkThread k ⟨1, event, K, t.pc.toNat, some l, 0, false, g.cycle⟩).settleCycle g.cycle
    (Runs (.parkNow h keep) h s k t → t.priv = false →
      exec (.parkNow h keep) s = .next ((s.parkThread k
        ⟨1, 0, K, t.pc.toNat, some (log (.parkNow h keep) 0 0 0 0), 0, true, g.cycle⟩).settleCycle g.cycle)) ∧
    (Runs (.parkNow h keep) h s k t → FreshCycle s → t.priv = true →
      exec (.parkNow h keep) s = .next (s.setThread k (t.finish (.parkNow h keep) h ⟨2, none, .none⟩))) ∧
    (Runs (.parkUntil h keep) h s k t → FreshCycle s → passed →
      exec (.parkUntil h keep) s = .next (s.setThread k (t.finish (.parkUntil h keep) h ⟨1, none, .none⟩))) ∧
    (Runs (.parkUntil h keep) h s k t → ¬passed → t.priv = false →
      exec (.parkUntil h keep) s = .next (waits s (0x8 * 2 ^ 60 + d % 2 ^ 60) (log (.parkUntil h keep) 0 0 0 d))) ∧
    (∀ p, Runs (.parkNe h keep) h s k t → FreshCycle s → d / 4 * 4 + 4 ≤ 2 ^ 52 →
      s.translate (coreOf k) (s.asidOf k) .load [(d / 4 * 4, 0, 4)] = .all [p] →
      let who := Party.thread t.bid t.lin
      let held := match s.pairingWho who with
        | some q => q.held.filter fun y => y.who = who
        | none => []
      let word := if 2 ≤ s.spaceOf p.leaf then (((s.watchAsked who).bind PeerAccess.got).map ofBytes).getD 0
        else ofBytes (s.overlaid held (s.spaceOf p.leaf) p.pa 4)
      let late := h.c ≠ .reg 0 ∧ t.rd h.c 64 ≤ s.timebase.toNat ∧ t.rd h.c 64 < 2 ^ 60
      let away := s.watchAway who p = true
      (away → exec (.parkNe h keep) s = .next ((s.askWatch who (s.asidOf k) p).setThread k { t with hold := .replay })) ∧
      (¬away → word ≠ t.rdB h.b 32 →
        exec (.parkNe h keep) s = .next ((s.dropWatch who).setThread k (t.finish (.parkNe h keep) h ⟨0, none, .none⟩))) ∧
      (¬away → word = t.rdB h.b 32 → late →
        exec (.parkNe h keep) s = .next ((s.dropWatch who).setThread k (t.finish (.parkNe h keep) h ⟨1, none, .none⟩))) ∧
      (¬away → word = t.rdB h.b 32 → ¬late → t.priv = false →
        exec (.parkNe h keep) s = .next (waits (s.dropWatch who) (0x9 * 2 ^ 60 + d / 4)
          (log (.parkNe h keep) (d / 4 * 4) (t.rdB h.b 32) (t.rd h.c 64) (if h.c ≠ .reg 0 then 1 else 0)))))

/-- R147 and R148: spawn writes a record of a new thread of its block that is ready, with the arguments in v1 upward and the entry
address; D receives the child's lane; a bad entry takes the instruction-address trap. -/
def Claim.SpawnWritesRecord : Prop :=
  ∀ (s : State) (k : Nat) (t : Thread) (h : Head) (given : Bool) (narg : Nat) (b : Block) (hdr : Header) (l : List Nat),
    let i := Instr.spawn h given narg
    let e := t.rd h.a 64
    let lane := if given then t.rd h.c 32 % 32 else laneOf k
    Runs i h s k t → s.blockOf k = some b → s.headerOf k = some hdr →
    (e % 4 ≠ 0 → exec (.spawn h given narg) s = .next (s.trap k 0x03 0x01 e)) ∧
    (e % 4 = 0 → 2 ^ 52 ≤ e → exec (.spawn h given narg) s = .next (s.trap k 0x03 0x02 e)) ∧
    (e % 4 = 0 → e < 2 ^ 52 → s.placeFor (coreOf k) b.asid (32 + 4 * narg) = some (.drawer l) →
      exec (.spawn h given narg) s = .next ((({ s with
          serial := s.serial + 1
          records := s.records.ins s.serial (spawnRecord k b t.bid hdr e lane narg (spawnRegs t h narg) s.serial (.drawer l)) }.updBlock
        t.bid fun b => { b with threads := b.threads + 1, alive := b.alive + 1 }).settleUnit s.serial).setThread k
        (t.finish i h ⟨lane, none, .none⟩)))

/-- park and spawn complete at once or write the record of a thread. -/
def Obligations.ParkAndSpawn : Prop :=
  Claim.ParkingWritesRecord ∧ Claim.ParkInstructions ∧ Claim.SpawnWritesRecord

/-- R157: an access outside every allocation takes detail 0x01 of the larder-address trap, one that is not aligned to its size detail
0x02, and neither has any other effect. -/
def Claim.LarderAddressTraps : Prop :=
  ∀ (s : State) (k : Nat) (t : Thread) (h : Head) (m : ModM) (lm : LdlMode) (sm : StlMode) (b : Block),
    s.blockOf k = some b →
    let ea := larEa h m.ofs t
    let n := tyBytes h.ty
    let outside : Prop := b.allocAt ea = none ∨ b.allocAt (ea + n - 1) = none
    (∀ i ∈ [Instr.ldl h m lm, .stl h m sm], Runs i h s k t → FreshCycle s →
      (outside → exec i s = .next (s.trap k 0x05 0x01 ea)) ∧
      (¬outside → ea % n ≠ 0 → exec i s = .next (s.trap k 0x05 0x02 ea))) ∧
    (∀ e, ∀ i ∈ [Instr.lfree h m, .luseby h m e, .smap h m, .sunmap h m], Runs i h s k t →
      (b.allocAt (t.rd h.a 32) = none → exec i s = .next (s.trap k 0x05 0x01 (t.rd h.a 32))) ∧
      (∀ a, b.allocAt (t.rd h.a 32) = some a → a.base ≠ t.rd h.a 32 → exec i s = .next (s.trap k 0x05 0x04 (t.rd h.a 32))))

/-- R127, R158: ldl of an empty line, and a plain stl to one, park on the line with their address and value in the log. -/
def Claim.LarderWaits : Prop :=
  ∀ (s : State) (k : Nat) (t : Thread) (h : Head) (m : ModM) (lm : LdlMode) (b : Block) (a : Alloc) (g : Issue),
    let ea := larEa h m.ofs t
    let n := tyBytes h.ty
    let waits (i : Instr) (v : Nat) : State :=
      (s.parkThread k ⟨1, 0x3 * 2 ^ 60 + ea / 128, s.regCount k - 1, t.pc.toNat, some ⟨g.words, ea, v, 0, lenOf i, 0, [], false⟩, 0, false,
        g.cycle⟩).settleCycle g.cycle
    s.issuing = some g → s.blockOf k = some b → b.addrTrap ea n = none → b.allocAt ea = some a → a.stash = none →
    (s.line (a.lineAt b.core ea)).full = false → t.priv = false →
    (Runs (.ldl h m lm) h s k t → lm ≠ .any → exec (.ldl h m lm) s = .next (waits (.ldl h m lm) 0)) ∧
    (Runs (.stl h m .plain) h s k t →
      exec (.stl h m .plain) s = .next (waits (.stl h m .plain) (t.rdB h.b h.ty.regWidth)))

/-- Where accesses to the larder trap, and where they wait for a full line. -/
def Obligations.LarderAddressTrapsAndWaits : Prop :=
  Claim.LarderAddressTraps ∧ Claim.LarderWaits

/-- R153, R158 and R172: ldl of a full line that is not stale gives D the bytes at its address; ldl.take leaves the line empty,
ldl.any reads whatever the bit holds; a stale line takes the stale-data trap; nothing else changes. Bytes that no code corrects take the
path of R372 instead. -/
def Claim.LarderLoads : Prop :=
  ∀ (s : State) (k : Nat) (t : Thread) (h : Head) (m : ModM) (mode : LdlMode) (b : Block) (a : Alloc),
    let i := Instr.ldl h m mode
    let ea := larEa h m.ofs t
    let n := tyBytes h.ty
    let no := a.lineAt b.core ea
    let v := ofBytes (bytesAt s.larder (no * 128 + ea % 128) n)
    let sent : State := sentOff i h s k t
    Runs i h s k t → FreshCycle s → s.blockOf k = some b → b.addrTrap ea n = none → b.allocAt ea = some a →
    a.stash = none → ((s.line no).full = true ∨ mode = .any) →
    (s.isStale b.core no a = true → exec (.ldl h m mode) s = .next (s.trap k 0x06 0x01 ea)) ∧
    (s.isStale b.core no a = false → s.larBad (no * 128 + ea % 128) n = false → mode ≠ .take → exec (.ldl h m mode) s = .next (sent.setIncoming (resultWid i h s) v)) ∧
    (s.isStale b.core no a = false → s.larBad (no * 128 + ea % 128) n = false → mode = .take →
      exec (.ldl h m mode) s = .next ((sent.setLine no { s.line no with full := false }).setIncoming (resultWid i h s) v))

/-- R153, R158 and R173: stl to a full line, and stl.any and stl.fill to any line, put the bytes of B at the address; the stamp of the
line restarts, and the rest of a stale line becomes zero; words written whole can be read again (R372); stl.fill makes the line full and
its waiters ready. -/
def Claim.LarderStores : Prop :=
  ∀ (s : State) (k : Nat) (t : Thread) (h : Head) (m : ModM) (mode : StlMode) (b : Block) (a : Alloc),
    let i := Instr.stl h m mode
    let ea := larEa h m.ofs t
    let n := tyBytes h.ty
    let no := a.lineAt b.core ea
    let bytes := toBytes n (t.rdB h.b h.ty.regWidth)
    let sent := s.setThread k (t.sendOff i h 0)
    let zeroed := (if s.isStale b.core no a then sent.zeroLine no else sent).cleanWords (no * 128 + ea % 128) n
    let stored : State := { zeroed with
      larder := putBytes (if s.isStale b.core no a then s.larder.filter fun c => c.1 / 128 ≠ no else s.larder)
        (no * 128 + ea % 128) bytes
      lines := s.lines.ins no { s.line no with stamp := s.now % 2 ^ 16, stale := false } }
    Runs i h s k t → FreshCycle s → s.blockOf k = some b → b.addrTrap ea n = none → b.allocAt ea = some a → a.stash = none →
    (mode = .plain → (s.line no).full = true → exec (.stl h m mode) s = .next stored) ∧
    (mode = .any → exec (.stl h m mode) s = .next stored) ∧
    (mode = .fill → exec (.stl h m mode) s = .next ((stored.fillLine t.bid no ea).settleCycle ((s.issuing.map Issue.cycle).getD 0)))

/-- ldl reads and stl writes the bytes of the larder at its address and no others. -/
def Obligations.LarderLoadsAndStores : Prop :=
  Claim.LarderLoads ∧ Claim.LarderStores

/-- R151 and R168: lalloc gives the block the lowest free run of its window and physical units that no allocation uses, with zero bytes
and lines full or empty, and D the address of the run; it gives D all ones when there is no room. -/
def Claim.LarderAllocates : Prop :=
  ∀ (s : State) (k : Nat) (t : Thread) (h : Head) (m : ModM) (empty : Bool) (b : Block),
    let i := Instr.lalloc h m empty
    let u := t.rdB h.b 32
    let sent (s : State) (v : Nat) : State :=
      (sentOff i h s k t).setIncoming (resultWid i h s) v
    Runs i h s k t → s.blockOf k = some b →
    (u = 0 ∨ 512 < u ∨ (s.freePhys b.core).length < u ∨ b.freeWindow u = none → exec (.lalloc h m empty) s = .next (sent s 0xFFFFFFFF)) ∧
    (∀ w, 1 ≤ u → u ≤ 512 → u ≤ (s.freePhys b.core).length → b.freeWindow u = some w →
      let phys := (s.freePhys b.core).take u
      let given := (s.initUnits b.core phys (!empty)).updBlock t.bid fun b =>
        { b with allocs := b.allocs ++ [⟨4096 * w, t.rd h.a 64 % 2 ^ 40, !liveTag s.now (t.rd h.a 64 % 2 ^ 40), none, phys⟩] }
      exec (.lalloc h m empty) s = .next (sent given (4096 * w)) ∧
      (∀ a ∈ b.allocs, a.base + a.size ≤ 4096 * w ∨ 4096 * (w + u) ≤ a.base) ∧ w + u ≤ 512)

/-- R154, R165, R169, R170 and R175: lfree ends an allocation; luseby changes the tag of a live one and answers 1, or answers 0; lstate
answers the line word, the allocation word, the retention word or the number of free units. -/
def Claim.LarderFreesTagsStates : Prop :=
  ∀ (s : State) (k : Nat) (t : Thread) (h : Head) (m : ModM) (ext : Bool) (b : Block) (a : Alloc), s.blockOf k = some b →
    let x := t.rd h.a 32
    let ea := larEa h m.ofs t
    let n := t.rdB h.b 64 % 2 ^ 40
    let tag := if ext then laterTag s.now a.tag n else n
    let tagged := s.updAlloc t.bid a.base fun a => { a with tag := tag }
    let l := s.line (a.lineAt b.core ea)
    let stale := s.isStale b.core (a.lineAt b.core ea) a
    let age := if stale then 0xFFFF else if a.stash.isSome ∧ l.present = false then 0 else (s.now + 2 ^ 16 - l.stamp % 2 ^ 16) % 2 ^ 16
    let word := age * 2 ^ 16 + (if l.dirty then 16 else 0) + (if a.stash.isNone ∨ l.present then 8 else 0) +
      (if a.stash.isSome then 4 else 0) + (if stale then 2 else 0) + (if l.full then 1 else 0)
    (b.allocAt x = some a → a.base = x →
      (Runs (.lfree h m) h s k t → exec (.lfree h m) s = .next ((s.endAlloc t.bid a).updThread k fun t => t.sendOff (.lfree h m) h 0)) ∧
      (Runs (.luseby h m ext) h s k t → liveTag s.now a.tag = false →
        exec (.luseby h m ext) s = .next (s.answer k t (.luseby h m ext) h 0)) ∧
      (Runs (.luseby h m ext) h s k t → liveTag s.now a.tag = true → liveTag s.now tag = true →
        exec (.luseby h m ext) s = .next (tagged.answer k t (.luseby h m ext) h 1)) ∧
      (Runs (.luseby h m ext) h s k t → liveTag s.now a.tag = true → liveTag s.now tag = false →
        exec (.luseby h m ext) s = .next ((tagged.expireAlloc t.bid b a).answer k t (.luseby h m ext) h 1))) ∧
    (b.allocAt ea = some a →
      (Runs (.lstateLine h m) h s k t → exec (.lstateLine h m) s = .next (s.answer k t (.lstateLine h m) h word)) ∧
      (Runs (.lstateAlloc h m) h s k t →
        exec (.lstateAlloc h m) s = .next (s.answer k t (.lstateAlloc h m) h
          (a.tag + a.phys.length * 2 ^ 40 + if a.stash.isSome then 2 ^ 50 else 0)))) ∧
    (Runs (.lstateRet h m) h s k t →
      exec (.lstateRet h m) s = .next (s.answer k t (.lstateRet h m) h (s.core (coreOf k)).lret.toNat)) ∧
    (Runs (.lstateFree h m) h s k t →
      exec (.lstateFree h m) s = .next (s.answer k t (.lstateFree h m) h (s.freePhys (coreOf k)).length))

/-- R162, R165 and R169: an allocation that ends has its dirty stash lines written back as far as nothing delays it, leaves its block, and
its waiters are woken; its units are free at once when no request is writing into them and no write-back is to come, and wait otherwise.
The other allocations of the block stay. -/
def Claim.AllocationEnds : Prop :=
  ∀ (s : State) (bid : Nat) (b : Block) (a : Alloc), s.blocks.look bid = some b →
    let u := s.flushSome (s.dirtyAmong ((a.lines b.core).map fun p => (p.2, bid, b.asid, a.global p.1)))
    let f : FreedUnits := ⟨u.serial, b.core, b.asid, a.phys, bid, b.launch, a.base, a.stash,
      ({ u with serial := u.serial + 1 } : State).inFlight bid a.base a.size⟩
    let t := ({ (u.updBlock bid fun b => { b with allocs := b.allocs.filter fun x => x.base ≠ a.base }) with
      serial := u.serial + 1 } : State).wakeRange bid a.base a.size
    s.endAlloc bid a = (if t.unitsFree f then t else { t with freed := t.freed ++ [f] }) ∧
    (a.stash = none → s.inFlight bid a.base a.size = [] → (∀ p ∈ a.lines b.core, (s.line p.2).dirty = false) →
      s.endAlloc bid a = ({ (s.updBlock bid fun b => { b with allocs := b.allocs.filter fun x => x.base ≠ a.base }) with
        serial := s.serial + 1 } : State).wakeRange bid a.base a.size)

/-- Allocations of the larder are made, tagged, read out, freed and ended. -/
def Obligations.LarderAllocations : Prop :=
  Claim.LarderAllocates ∧ Claim.LarderFreesTagsStates ∧ Claim.AllocationEnds

/-- R157, R167, R171, R174 and R177: lrenew, setempty, setfull and sflush act on the lines of a range of one allocation: lrenew restarts
the stamps of those that are not stale and answers how many are; setempty and setfull set their bits; sflush of an allocation that is no
stash answers 0. An empty range touches no line; a range outside one allocation, or not in whole lines, traps. -/
def Claim.LarderRanges : Prop :=
  ∀ (s : State) (k : Nat) (t : Thread) (h : Head) (m : ModM) (inv : Bool) (b : Block), s.blockOf k = some b →
    let ea := larEa h m.ofs t
    let n := t.rdB h.b 32
    let later (s : State) (i : Instr) (v : Nat) (renew : Bool) : State :=
      let r : PendingResult := ⟨resultNext i h s, t.bid, resultWid i h s, v, b.asid, [], []⟩
      let s' : State := { sentOff i h s k t with serial := resultNext i h s + 1 }
      if renew then { s' with lrenews := s.lrenews ++ [r] } else { s' with sflushes := s.sflushes ++ [r] }
    (∀ i ∈ [Instr.lrenew h m, .setempty h m, .setfull h m, .sflush h m inv], Runs i h s k t →
      (n = 0 → ea % 128 ≠ 0 → exec i s = .next (s.trap k 0x05 0x02 ea)) ∧
      (n ≠ 0 → b.allocAt ea = none → exec i s = .next (s.trap k 0x05 0x01 ea)) ∧
      (∀ a, n ≠ 0 → b.allocAt ea = some a → a.base + a.size < ea + n → exec i s = .next (s.trap k 0x05 0x01 ea)) ∧
      (∀ a, n ≠ 0 → b.allocAt ea = some a → ea + n ≤ a.base + a.size → ea % 128 ≠ 0 ∨ n % 128 ≠ 0 →
        exec i s = .next (s.trap k 0x05 0x02 ea))) ∧
    (∀ a, n ≠ 0 → b.allocAt ea = some a → ea + n ≤ a.base + a.size → ea % 128 = 0 → n % 128 = 0 → a.stash = none →
      let ls := a.range b.core ea n
      let young := ls.filter fun p => s.isStale b.core p.2 a = false
      let sent : State := s.setThread k (t.sendOff (.setempty h m) h 0)
      (Runs (.lrenew h m) h s k t → exec (.lrenew h m) s = .next
        (young.foldl (fun (u : State) p => u.setLine p.2 { u.line p.2 with stamp := s.now % 2 ^ 16 })
          (later s (.lrenew h m) (ls.length - young.length) true))) ∧
      (Runs (.setempty h m) h s k t → exec (.setempty h m) s = .next
        (ls.foldl (fun (u : State) p => u.setLine p.2 { u.line p.2 with full := false }) sent)) ∧
      (Runs (.setfull h m) h s k t → exec (.setfull h m) s = .next
        (ls.foldl (fun (u : State) p => u.fillLine t.bid p.2 p.1) (s.setThread k (t.sendOff (.setfull h m) h 0)))) ∧
      (Runs (.sflush h m inv) h s k t → exec (.sflush h m inv) s = .next (later s (.sflush h m inv) 0 false)))

/-- R160, R162, R176 and R177: smap makes an allocation a window on global memory, with no line present; sunmap ends that, and what was
not present becomes zero and full; it issues again while a write-back is to come; sflush writes back the dirty lines of its range and is to
answer how many there were. -/
def Claim.StashMaps : Prop :=
  ∀ (s : State) (k : Nat) (t : Thread) (h : Head) (m : ModM) (inv : Bool) (b : Block) (a : Alloc), s.blockOf k = some b →
    let x := t.rd h.a 32
    let g := t.rdB h.b 64
    let ea := larEa h m.ofs t
    let n := t.rdB h.b 32
    let absent (u : State) (l : Nat) (f : Bool) : State :=
      u.setLine l { u.line l with present := false, full := false, dirty := false, stale := false, fetching := f }
    (b.allocAt x = some a → a.base = x → a.stash = none → g % 128 = 0 → g < 2 ^ 52 → g / 2 ^ 30 = (g + a.size - 1) / 2 ^ 30 →
      Runs (.smap h m) h s k t → exec (.smap h m) s = .next
        ((a.lines b.core).foldl (fun (u : State) p => absent u p.2 (u.awaited t.bid p.1))
          ((s.setThread k (t.sendOff (.smap h m) h 0)).updAlloc t.bid a.base fun a => { a with stash := some g }))) ∧
    (b.allocAt x = some a → a.base = x → a.stash ≠ none → Runs (.sunmap h m) h s k t →
      let u := s.flushSome (s.dirtyAmong ((a.lines b.core).map fun p => (p.2, t.bid, b.asid, a.global p.1)))
      ((∃ p ∈ a.lines b.core, (u.line p.2).dirty = true) →
        exec (.sunmap h m) s = .next (u.setThread k { t with hold := .replay })) ∧
      ((∀ p ∈ a.lines b.core, (u.line p.2).dirty = false) → exec (.sunmap h m) s = .next
        ((a.lines b.core).foldl (fun (u : State) p =>
            if (u.line p.2).present then u.setLine p.2 { u.line p.2 with present := false, fetching := false }
            else ((u.zeroLine p.2).setLine p.2 { Line.reset with stamp := u.now % 2 ^ 16 }).fillLine t.bid p.2 p.1)
          ((u.setThread k (t.sendOff (.sunmap h m) h 0)).updAlloc t.bid a.base fun a => { a with stash := none })))) ∧
    (n ≠ 0 → b.allocAt ea = some a → ea + n ≤ a.base + a.size → ea % 128 = 0 → n % 128 = 0 → a.stash ≠ none →
      Runs (.sflush h m inv) h s k t →
      let i := Instr.sflush h m inv
      let ls := a.range b.core ea n
      let sent : State := { sentOff i h s k t with serial := resultNext i h s + 1 }
      let u := sent.flushSome (sent.dirtyAmong (ls.map fun p => (p.2, t.bid, b.asid, a.global p.1)))
      let dirty := (ls.filter fun p => (s.line p.2).dirty).map fun p => (p.2, a.global p.1)
      exec (.sflush h m inv) s = .next { u with
        sflushes := u.sflushes ++ [⟨resultNext i h s, t.bid, resultWid i h s, dirty.length, b.asid, dirty,
          if inv then ls.map Prod.snd else []⟩] })

/-- lrenew, setempty, setfull and sflush act on their range; smap and sunmap make and end a stash. -/
def Obligations.LarderRangesAndStashes : Prop :=
  Claim.LarderRanges ∧ Claim.StashMaps

/-- R180, R184, R187, R188: binit, barr, bwait, barrw and bbytes on a barrier object that the thread may use: binit makes a new
object; arrivals add their count, 0 counting as 1 for barr and barrw, and complete a generation when they reach EXPECT, which wakes
the object's waiters; bwait and barrw complete at once when their generation is over, and park with their lane in WAITERS otherwise;
an object that is not what the instruction needs takes the barrier trap. -/
def Claim.BarrierObjects : Prop :=
  ∀ (s : State) (k : Nat) (t : Thread) (h : Head) (ofs : Int) (keep : Nat) (bytes exp : Bool) (b : Block) (g : Issue),
    s.issuing = some g → s.blockOf k = some b → FreshCycle s →
    let ea := larEa h ofs t
    let o := s.objAt b ea
    let n := t.rdB h.b 32
    let count := if n = 0 then 1 else n
    let sent (i : Instr) : State := s.setThread k (t.sendOff i h 0)
    let given (i : Instr) (u : State) (v : Nat) : State :=
      (sentOff i h u k t).setIncoming (resultWid i h u) v
    let arrived (u : State) (n : Nat) : State :=
      let q := (o.arrived + n) / o.expect
      let u' := u.putObj b ea ⟨if q = 0 then o.waiters else 0, o.kind, (o.gen + q) % 2 ^ 30, o.expect, (o.arrived + n) % o.expect⟩
      if n = 0 then u else if q = 0 then u' else u'.wake fun key x => x = t.bid && (key / 2 ^ 60 = 0x1 || key / 2 ^ 60 = 0x5) &&
        key / 2 ^ 32 % 2 ^ 21 = ea
    let waits (i : Instr) (u : State) (o : Obj) (gen aux : Nat) : State :=
      ((u.putObj b ea { o with waiters := Nat.lor o.waiters (2 ^ laneOf k) }).parkThread k
        ⟨1, eventKey 0x1 (ea * 2 ^ 32 + gen), if keep = 0 then s.regCount k - 1 else keep, t.pc.toNat,
          some ⟨g.words, ea, n, 0, lenOf i, aux, [], false⟩, 0, false, g.cycle⟩)
    s.objTrap b ea = none →
    (Runs (.binit h ofs bytes) h s k t →
      (n ≠ 0 → o.waiters = 0 →
        exec (.binit h ofs bytes) s = .next ((sent (.binit h ofs bytes)).putObj b ea ⟨0, if bytes then 1 else 0, 0, n, 0⟩)) ∧
      (n = 0 ∨ o.waiters ≠ 0 → exec (.binit h ofs bytes) s = .next (s.trap k 0x07 0x03 ea))) ∧
    (Runs (.barr h ofs) h s k t → o.expect ≠ 0 → o.kind = 0 →
      exec (.barr h ofs) s = .next (arrived (given (.barr h ofs) s o.gen) count)) ∧
    (Runs (.bwait h ofs keep) h s k t → o.expect ≠ 0 → o.kind ≤ 1 →
      (o.gen ≠ n % 2 ^ 30 → exec (.bwait h ofs keep) s = .next (sent (.bwait h ofs keep))) ∧
      (o.gen = n % 2 ^ 30 → t.priv = false →
        exec (.bwait h ofs keep) s = .next ((waits (.bwait h ofs keep) s o (n % 2 ^ 30) 0).settleCycle g.cycle))) ∧
    (Runs (.barrw h ofs keep) h s k t → o.expect ≠ 0 → o.kind = 0 →
      o.gen ≠ (o.gen + (o.arrived + count) / o.expect) % 2 ^ 30 →
      exec (.barrw h ofs keep) s = .next ((given (.barrw h ofs keep) (arrived s count) o.gen).settleCycle g.cycle)) ∧
    (Runs (.barrw h ofs keep) h s k t → o.expect ≠ 0 → o.kind = 0 → t.priv = false → o.gen < 2 ^ 30 → o.arrived + count < o.expect →
      exec (.barrw h ofs keep) s = .next ((waits (.barrw h ofs keep) (arrived s count)
        ((arrived s count).objAt b ea) o.gen o.gen).settleCycle g.cycle)) ∧
    (Runs (.bbytes h ofs exp) h s k t → o.expect ≠ 0 → o.kind = 1 →
      (exp = false → exec (.bbytes h ofs exp) s = .next (arrived (sent (.bbytes h ofs exp)) n)) ∧
      (exp = true → o.expect + n < 2 ^ 32 →
        exec (.bbytes h ofs exp) s = .next ((sent (.bbytes h ofs exp)).putObj b ea { o with expect := o.expect + n })) ∧
      (exp = true → 2 ^ 32 ≤ o.expect + n → exec (.bbytes h ofs exp) s = .next (s.trap k 0x07 0x04 ea))) ∧
    (∀ i ∈ [Instr.barr h ofs, .bwait h ofs keep, .barrw h ofs keep, .bbytes h ofs exp], Runs i h s k t → (o.expect = 0 ∨ 1 < o.kind) →
      exec i s = .next (s.trap k 0x07 0x01 ea)) ∧
    (∀ i ∈ [Instr.barr h ofs, .barrw h ofs keep], Runs i h s k t → o.expect ≠ 0 → o.kind = 1 →
      exec i s = .next (s.trap k 0x07 0x02 ea)) ∧
    (Runs (.bbytes h ofs exp) h s k t → o.expect ≠ 0 → o.kind = 0 → exec (.bbytes h ofs exp) s = .next (s.trap k 0x07 0x02 ea))

/-- R157, R178: an instruction on a barrier object outside an allocation, not aligned to 16 bytes, in a stash, or on a stale line,
traps in that order and does nothing else. -/
def Claim.BarrierAddressTraps : Prop :=
  ∀ (s : State) (k : Nat) (t : Thread) (h : Head) (ofs : Int) (keep : Nat) (x : Bool) (b : Block),
    s.blockOf k = some b → FreshCycle s →
    let ea := larEa h ofs t
    ∀ i ∈ [Instr.binit h ofs x, .barr h ofs, .bwait h ofs keep, .barrw h ofs keep, .bbytes h ofs x], Runs i h s k t →
      (b.allocAt ea = none ∨ b.allocAt (ea + 15) = none → exec i s = .next (s.trap k 0x05 0x01 ea)) ∧
      (∀ a a', b.allocAt ea = some a → b.allocAt (ea + 15) = some a' →
        (ea % 16 ≠ 0 → exec i s = .next (s.trap k 0x05 0x02 ea)) ∧
        (ea % 16 = 0 → a.stash ≠ none → exec i s = .next (s.trap k 0x05 0x03 ea)) ∧
        (ea % 16 = 0 → a.stash = none → s.isStale b.core (a.lineAt b.core ea) a = true →
          exec i s = .next (s.trap k 0x06 0x01 ea)))

/-- Barrier objects count arrivals, complete generations and wake their waiters. -/
def Obligations.BarrierObjects : Prop :=
  Claim.BarrierObjects ∧ Claim.BarrierAddressTraps

/-- R190: arrivals that reach every member's quota complete generations in order, modulo 2^32; a member that joins takes part from the
open generation on, or from the next one when an arrival has been counted; a member that leaves is counted in full for the open one. -/
def Claim.HarnessGenerations : Prop :=
  ∀ (g : HGroup) (pkg handle quota : Nat),
    (g.member pkg handle = none → g.members.length < 65536 → quota ≤ 1048576 →
      g.join pkg handle quota = 
        let first := if g.isStarted then (g.completed + 1) % 2 ^ 32 else g.completed
        (some first, 0, ⟨g.completed, g.members ++ [⟨pkg, handle, if quota = 0 then 1 else quota, first, 0, none⟩]⟩)) ∧
    (g.member pkg handle ≠ none → g.join pkg handle quota = (none, 1, g)) ∧
    (g.member pkg handle = none → g.leave pkg handle = (some 0xFFFFFFFF, 1, g)) ∧
    (∀ m, g.member pkg handle = some m → genLe m.first g.completed = true →
      ∃ g', g.leave pkg handle = (some g.completed, 0, g') ∧ g'.completed = g.completed ∧ g'.members.length = g.members.length) ∧
    ((∀ m ∈ g.members, m.last = none ∧ 1 ≤ m.quota ∧ genDist m.first g.completed + m.lead g.completed < 2 ^ 31) →
      g.settled.canComplete = false ∧ genLe g.completed g.settled.completed = true) ∧
    (g.canComplete = false → g.settled = g)

/-- R190 to R194: hjoin and hleave answer with their results from the home agent, which is asked by a message when it is elsewhere;
harr first writes back its block's stash lines (R162), counts its arrivals, or sends them to the home agent, and gives its token, and
traps in a block that is no member; hwait completes at once for a complete token and parks otherwise; the messages, once the fabric has
delivered them, do at the home agent what the instructions do there. -/
def Claim.HarnessInstructions : Prop :=
  ∀ (s : State) (k : Nat) (t : Thread) (h : Head) (grp keep : Nat) (b : Block) (g : Issue),
    s.issuing = some g → s.blockOf k = some b → FreshCycle s →
    let asid := s.asidOf k
    let G := (t.rd h.a 32 + grp) % 256
    let n := t.rdB h.b 32
    let count := if n = 0 then 1 else n
    let joins (i : Instr) (join : Bool) : State :=
      let (wd, we, u) := s.sendTwo k t i h
      let r := if join then (u.hgroup asid G).join u.pkg b.handle n else (u.hgroup asid G).leave u.pkg b.handle
      if u.isHome asid then (u.settleHarness asid G r.2.2).giveTwo wd we r.1 r.2.1
      else ({ u with harnessWaits := u.harnessWaits ++ [⟨asid, G, b.handle, t.bid, t.lin, join, n, wd, we⟩] } : State).send
        (.harnessMember asid G u.pkg b.handle join n)
    (Runs (.hjoin h grp) h s k t → exec (.hjoin h grp) s = .next (joins (.hjoin h grp) true)) ∧
    (Runs (.hleave h grp) h s k t → exec (.hleave h grp) s = .next (joins (.hleave h grp) false)) ∧
    (Runs (.harr h grp) h s k t → (s.hgroup asid G).member s.pkg b.handle = none →
      exec (.harr h grp) s = .next (s.trap k 0x07 0x05 G)) ∧
    (∀ m, Runs (.harr h grp) h s k t → (s.hgroup asid G).member s.pkg b.handle = some m →
      let c := (s.hgroup asid G).completed
      let start := if genLe m.first c then c else m.first
      let u := s.releaseStash t.bid
      let v := u.answer k t (.harr h grp) h ((start + m.lead start / m.quota) % 2 ^ 32)
      (u.stashHeld t.bid = true → exec (.harr h grp) s = .next (u.holdReplay k)) ∧
      (u.stashHeld t.bid = false → v.isHome asid = true →
        exec (.harr h grp) s = .next (v.countArrival asid G v.pkg b.handle count)) ∧
      (u.stashHeld t.bid = false → v.isHome asid = false →
        exec (.harr h grp) s = .next ((v.setHgroup asid G ((v.hgroup asid G).updMember v.pkg b.handle fun m =>
          { m with count := (m.count + count) % 2 ^ 32 })).send (.harnessArrive asid G v.pkg b.handle count)))) ∧
    (Runs (.hwait h grp keep) h s k t → tokenDone (s.hgroup asid G).completed n = true →
      exec (.hwait h grp keep) s = .next (s.setThread k (t.sendOff (.hwait h grp keep) h 0))) ∧
    (Runs (.hwait h grp keep) h s k t → tokenDone (s.hgroup asid G).completed n = false → t.priv = false →
      exec (.hwait h grp keep) s = .next ((s.parkThread k ⟨1, eventKey 0x2 (G * 2 ^ 32 + n), if keep = 0 then s.regCount k - 1 else keep,
        t.pc.toNat, some ⟨g.words, 0, n, 0, lenOf (.hwait h grp keep), 0, [], false⟩, 0, false, g.cycle⟩).settleCycle g.cycle)) ∧
    (∀ pkg handle n u, s.isHome asid = true → s.takeMessage 5 pkg = some u → u.isHome asid = true →
      ((u.hgroup asid G).member pkg handle).isSome = true →
      exec (.harnessArrivalMessage asid G pkg handle n) s = .next (u.countArrival asid G pkg handle n).settleOps) ∧
    (∀ pkg handle n, s.isHome asid = true → s.takeMessage 5 pkg = none →
      exec (.harnessArrivalMessage asid G pkg handle n) s = .next s.settleOps) ∧
    (∀ pkg handle join q u, s.isHome asid = true → s.takeMessage 5 pkg = some u → u.isHome asid = true →
      let r := if join then (u.hgroup asid G).join pkg handle q else (u.hgroup asid G).leave pkg handle
      exec (.harnessMembershipMessage asid G pkg handle join q) s =
        .next ((u.settleHarness asid G r.2.2).send
          (.harnessReply asid G pkg handle (r.1.getD 0 % 2 ^ 32 * 4 + r.2.1))).settleOps) ∧
    (∀ pkg handle join q, s.isHome asid = true → s.takeMessage 5 pkg = none →
      exec (.harnessMembershipMessage asid G pkg handle join q) s = .next s.settleOps)

/-- The Harness counts arrivals of members, and its instructions answer from the home agent. -/
def Obligations.HarnessMembership : Prop :=
  Claim.HarnessGenerations ∧ Claim.HarnessInstructions

/-- R195 to R198: hsig traps for a malformed name; otherwise it writes back its block's stash lines (R162) and applies its arrival to the
object that the name selects here, or sends it to the package it names, where HSIG_APPLY applies it once the fabric has delivered it; a
signal with no context, no block or no usable object is counted in DEADSIG with its reason; a signal to a block that is not on its core
is held; a core that is powered again receives the signals held for its blocks. -/
def Obligations.Signals : Prop :=
  ∀ (s : State) (k : Nat) (t : Thread) (h : Head) (bytes : Bool) (asid name count core : Nat),
    let N := t.rd h.a 64
    let u := s.releaseStash t.bid
    let sent := u.setThread k (t.sendOff (.hsig h bytes) h 0)
    let dropped (u : State) (why : Nat) : State :=
      let n := min (2 ^ 48 - 1) (u.regs.deadsig.toNat % 2 ^ 48 + 1)
      let ovf := u.regs.deadsig.toNat / 2 ^ 63 % 2 = 1 ∨ n = 2 ^ 48 - 1
      let w := (if ovf then 2 ^ 63 else 0) + asid % 512 * 2 ^ 54 + why * 2 ^ 48 + n
      { u with regs := { u.regs with deadsig := BitVec.ofNat 64 w } }
    let handle := name / 2 ^ 22 % 2 ^ 32
    let ea := name / 2 ^ 4 % 2 ^ 17 * 16
    let mine (b : Nat × Block) : Bool := b.2.asid = asid && b.2.handle = handle && handle ≠ 0
    (Runs (.hsig h bytes) h s k t → s.badName N = true → exec (.hsig h bytes) s = .next (s.trap k 0x01 0x02 0)) ∧
    (Runs (.hsig h bytes) h s k t → s.badName N = false → u.stashHeld t.bid = true →
      exec (.hsig h bytes) s = .next (u.holdReplay k)) ∧
    (Runs (.hsig h bytes) h s k t → s.badName N = false → u.stashHeld t.bid = false → N / 2 ^ 54 % 2 ^ 10 = sent.pkg →
      exec (.hsig h bytes) s = .next (sent.applySignal (s.asidOf k) N (t.rdB h.b 32) bytes)) ∧
    (Runs (.hsig h bytes) h s k t → s.badName N = false → u.stashHeld t.bid = false → N / 2 ^ 54 % 2 ^ 10 ≠ sent.pkg →
      exec (.hsig h bytes) s = .next (sent.send (.signal (s.asidOf k) N (t.rdB h.b 32) bytes))) ∧
    (s.takeAny 5 = none → exec (.hsigApply asid name count bytes) s = .next s.settleOps) ∧
    (∀ v, s.takeAny 5 = some v →
      (v.ctx? asid = none → exec (.hsigApply asid name count bytes) s = .next (dropped v 1).settleOps) ∧
      (v.ctx? asid ≠ none → v.blocks.filter mine = [] → exec (.hsigApply asid name count bytes) s = .next (dropped v 2).settleOps) ∧
      (∀ bid b, v.ctx? asid ≠ none → v.blocks.filter mine = [(bid, b)] → v.notResident b = false → v.blocks.look bid = some b →
        v.objTrap b ea = none → (v.objAt b ea).arrivalTrap (if bytes then 1 else 0) = none →
        exec (.hsigApply asid name count bytes) s = .next (v.arriveAt bid b ea count).settleOps) ∧
      (∀ bid b, v.ctx? asid ≠ none → v.blocks.filter mine = [(bid, b)] → v.notResident b = true →
        exec (.hsigApply asid name count bytes) s =
          .next ({ v with signals := holdSignal v.signals asid bid ea bytes count } : State).settleOps)) ∧
    ((s.core core).gated = true → exec (.powerGatedCoreWake core) s =
      .next ((s.blocks.filter fun p => p.2.core = core && p.2.state = .running).foldl (fun (u : State) p => u.releaseSignals p.1)
        (s.updCore core fun c => { c with gated := false })).settleOps) ∧
    ((s.core core).gated = false → exec (.powerGatedCoreWake core) s = .next s.settleOps)

/-- R199, R206, R209, R217 to R221, R225, R229: an access of row 0x9 whose pages its core's TLB holds, and for which miss-status entries
are free, is issued: after the dirty stash lines of its block if it is a release of a wider scope, it is performed at once, or stands
among the accesses that wait. Performed, a load brings the bytes at its pieces, sign-extended for s8 and s16; a store writes the bytes of
B; an atom brings the old value and stores what its operation makes of it; a reduction stores its result, or keeps it in its core's
partial of a page of scope PKG. fence moves on and is issued like an access; pref only moves on. -/
def Obligations.GlobalAccesses : Prop :=
  ∀ (s : State) (k : Nat) (t : Thread) (h : Head) (m : ModM) (aop : AtomOp) (rop : RedOp) (hbm : Bool) (ps : List Piece),
    let asid := s.asidOf k
    let core := coreOf k
    let va := ((t.rd h.a 64 + m.ofs) % 2 ^ 64).toNat
    let n := tyBytes h.ty
    let b := t.rdB h.b h.ty.regWidth
    let c := t.rd h.c h.ty.regWidth
    let acquire : Bool := m.ord = .acquire || m.ord = .acqRel
    let release : Bool := m.ord = .release || m.ord = .acqRel
    let access (i : Instr) (g : GAccess) : Pending :=
      { no := resultNext i h s, who := .thread t.bid t.lin, core := core, asid := asid, launch := s.launchOf k
        wid := resultWid i h s, acc := g, pieces := ps, reply := none, cycle := (s.issuing.map Issue.cycle).getD 0 }
    let sent (i : Instr) (g : GAccess) : State :=
      ({ sentOff i h s k t with serial := resultNext i h s + 1 } : State).takeMiss core asid (access i g).cycle
        (if resultWid i h s = 0 then resultNext i h s else resultWid i h s) g
    let issued (u : State) (x : Pending) : State :=
      let v := u.releaseOf x
      match v.tryPerform x with
      | some w => w
      | none => { v with ops := v.ops ++ [x] }
    let ready (i : Instr) (g : GAccess) : Prop :=
      Runs i h s k t ∧ va + n ≤ 2 ^ 52 ∧ s.tlbHas core asid (piecesOf va n) = true ∧
      s.translate core asid g.kind (piecesOf va n) = .all ps ∧ straddles ps = false ∧
      ((s.misses.filter fun e => e.core = core) = [] ∨
        (s.misses.filter fun e => e.core = core).length + (s.missNeed core [(asid, g)]).length ≤ 256)
    let load : GAccess := ⟨.load h.ty, va, n, 0, 0, acquire, false, m.tid⟩
    let cload : GAccess := ⟨.load h.ty, va, n, 0, 0, false, false, m.tid⟩
    let store : GAccess := ⟨.store, va, n, b, 0, false, release, m.tid⟩
    let atom : GAccess := ⟨.atom aop h.ty, va, n, b, c, acquire, release, m.tid⟩
    let red : GAccess := ⟨.red rop h.ty, va, n, b, 0, false, release, m.tid⟩
    (ready (.ldg h m) load → exec (.ldg h m) s = .next (issued (sent (.ldg h m) load) (access (.ldg h m) load))) ∧
    (ready (.ldc h m) cload → exec (.ldc h m) s = .next (issued (sent (.ldc h m) cload) (access (.ldc h m) cload))) ∧
    (ready (.stg h m) store → exec (.stg h m) s = .next (issued (sent (.stg h m) store) (access (.stg h m) store))) ∧
    (ready (.atom h m aop) atom → va % n = 0 →
      exec (.atom h m aop) s = .next (issued (sent (.atom h m aop) atom) (access (.atom h m aop) atom))) ∧
    (ready (.red h m rop) red → va % n = 0 →
      exec (.red h m rop) s = .next (issued (sent (.red h m rop) red) (access (.red h m rop) red))) ∧
    (Runs (.fence h) h s k t →
      exec (.fence h) s = .next (issued { moved (.fence h) s k t with serial := s.serial + 1 }
        { access (.fence h) ⟨.fence, 0, 0, 0, 0, false, false, 0⟩ with no := s.serial, wid := 0, pieces := [] })) ∧
    (Runs (.pref h m hbm) h s k t → exec (.pref h m hbm) s = .next (moved (.pref h m hbm) s k t)) ∧
    (∀ (v w y : State) (x : Pending), x.reply = none → v.blocked x = false → v.stashHeld x.who.bid = false →
      (∀ p ∈ x.pieces, v.spaceOf p.leaf < 2) →
      let ended (w : State) : State := if x.wid = 0 then w.freeMiss x.no else w
      let old := w.piecesValue x
      (∀ ty, x.acc.op = .load ty → v.tryTouch x.pieces = some w →
        v.tryPerform x = some (ended ((w.logPieces x).setIncoming x.wid (loadValue ty old)))) ∧
      (x.acc.op = .store → v.tryPieces x x.acc.b = some w → v.tryPerform x = some (ended w)) ∧
      (∀ op ty r e, x.acc.op = .atom op ty → v.tryTouch x.pieces = some w → atomCombine op ty old x.acc.b x.acc.c = (some r, e) →
        w.tryPieces x r = some y →
        v.tryPerform x = some (ended (((y.setIncoming x.wid old).countFor x.core x.launch x.acc.tid e).giveOld x.who old))) ∧
      (∀ op ty e, x.acc.op = .atom op ty → v.tryTouch x.pieces = some w → atomCombine op ty old x.acc.b x.acc.c = (none, e) →
        v.tryPerform x = some (ended (((w.setIncoming x.wid old).countFor x.core x.launch x.acc.tid e).giveOld x.who old))) ∧
      (∀ op ty p, x.acc.op = .red op ty → x.pieces = [p] → p.leaf.scope = 2 → p.leaf.tier ≤ 1 → p.leaf.pdom = 0 → x.core < 192 →
        v.tryRedPartial x op ty p.pa = some w → v.tryPerform x = some (ended w)) ∧
      (∀ op ty p, x.acc.op = .red op ty → x.pieces = [p] → p.leaf.scope ≠ 2 → v.tryTouch x.pieces = some w →
        w.tryPieces x (redCombine op ty old x.acc.b).1 = some y →
        v.tryPerform x = some (ended (y.countFor x.core x.launch x.acc.tid (redCombine op ty old x.acc.b).2))))

/-- R199, R206, R210, R211, R219: an access whose bytes pass 2^52 takes detail 0x01 of the global-address trap, an atom or reduction that
is not aligned detail 0x02; an access on pages of two tiers takes the tier trap; one whose page the TLB does not hold waits for a walk;
one that faults at once is logged under a ticket, and issues again while there is no room for the report. -/
def Claim.GlobalTrapsAndWalks : Prop :=
  ∀ (s : State) (k : Nat) (t : Thread) (h : Head) (m : ModM) (aop : AtomOp) (rop : RedOp) (i : Instr) (g : GAccess),
    let asid := s.asidOf k
    let core := coreOf k
    let va := ((t.rd h.a 64 + m.ofs) % 2 ^ 64).toNat
    let pieces := piecesOf va (tyBytes h.ty)
    let log : OpLog := ⟨(s.issuing.map Issue.words).getD [], va, g.b, g.c, lenOf i, 0, [], false⟩
    let wid := resultWid i h s
    let no := resultNext i h s
    let cycle := (s.issuing.map Issue.cycle).getD 0
    let x : Pending :=
      { no := no, who := .thread t.bid t.lin, core := core, asid := asid, launch := s.launchOf k, wid := wid, acc := g
        pieces := [], reply := none, cycle := cycle }
    let sent : State := ({ sentOff i h s k t with serial := no + 1 } : State).takeMiss core asid cycle (if wid = 0 then no else wid) g
    i ∈ [Instr.ldg h m, .ldc h m, .stg h m, .atom h m aop, .red h m rop] → Runs i h s k t →
    gAccessOf i va (t.rdB h.b h.ty.regWidth) (t.rd h.c h.ty.regWidth) = some g →
    (s.misses.filter fun e => e.core = core) = [] →
    (2 ^ 52 < va + g.n → exec i s = .next (s.trap k 0x08 0x01 va)) ∧
    (va + g.n ≤ 2 ^ 52 → i ∈ [Instr.atom h m aop, .red h m rop] → va % g.n ≠ 0 → exec i s = .next (s.trap k 0x08 0x02 va)) ∧
    (gTrap g = none →
      (s.tlbHas core asid pieces = false → va / 2 ^ 30 = (va + g.n - 1) / 2 ^ 30 →
        exec i s = .next { (sent.updThread k fun t => { t with walk := some no } : State) with
          walks := s.walks ++ [⟨k, x, log, 0⟩] }) ∧
      (∀ ps, s.tlbHas core asid pieces = true → s.translate core asid g.kind pieces = .all ps → straddles ps = true →
        exec i s = .next (({ s with serial := no + 1 } : State).trap k 0x09 0x01 va)) ∧
      (∀ fa r l e b z, s.tlbHas core asid pieces = true → s.translate core asid g.kind pieces = .fault fa r l e b z →
        (s.canReport asid = true → exec i s = .next ((sent.freeMiss no).logFault k wid g.kind log fa r l e b z 1)) ∧
        (s.canReport asid = false → exec i s = .next { s with serial := no + 1 })))

/-- R205, R206, R210, R211: a walk that ends with a page for each piece performs the access that waited for it, once the TLB and the
walker's cache hold what it found; one that ends with a fault is logged under a ticket. A walk that is no longer there changes nothing, and
neither does one that is not among the 256 of its die that run. -/
def Claim.WalksEnd : Prop :=
  ∀ (s : State) (w : Walk) (no : Nat),
    let x := w.x
    let ends := (s.walks.find? fun y => y.x.no = x.no) = some w ∧ s.canReport x.asid = true ∧ s.walkRuns w = true ∧
      (s.walks.filter fun y => s.sharesWalk y w) = [w]
    let n := { s with serial := s.serial + 1 }
    let done := (piecesOf x.acc.va x.acc.n).foldl (fun (u : State) p => u.walkFill (dieOf x.core) x.asid p.1)
      { n with walks := s.walks.filter fun y => y.x.no ≠ x.no }
    let free (u : State) : State := u.updThread w.thread fun t => { t with walk := none }
    ((s.walks.find? fun y => y.x.no = no) = none → exec (.walkComplete no) s = .next s.settleOps) ∧
    ((s.walks.find? fun y => y.x.no = x.no) = some w → s.canReport x.asid = false ∨ s.walkRuns w = false →
      exec (.walkComplete x.no) s = .next s.settleOps) ∧
    (ends → w.ticket = 0 → n.walksFor w = true →
      (∀ ps, n.walkPieces w = .all ps → straddles ps = false → exec (.walkComplete x.no) s =
        .next (((free (done.fillPieces x.core x.asid ps)).admitPaired w.thread { x with pieces := ps }).settleCycle s.serial).settleOps) ∧
      (∀ va r l e b z, n.walkPieces w = .fault va r l e b z → exec (.walkComplete x.no) s =
        .next ((((done.freeMiss x.no).logFault w.thread x.wid x.acc.kind w.log va r l e b z (s.walkWaiters [w] w)).settleAsync
          w.thread s.serial).settleCycle s.serial).settleOps))

/-- Where accesses of row 0x9 trap or wait for a walk, and how walks end. -/
def Obligations.GlobalTrapsAndWalks : Prop :=
  Claim.GlobalTrapsAndWalks ∧ Claim.WalksEnd

/-- R226: a store that lies in one granule of a page of HBM or of the storage-class tier, of persist domain 0, that no capture, stash line,
partial sum or held stack has a part in and no earlier access delays, puts exactly its bytes at the physical address of its piece: they are read
back there, and every other byte of memory, the other tiers and every other thread stay as they were. -/
def Obligations.StoresReachMemory : Prop :=
  ∀ (s : State) (k : Nat) (t : Thread) (h : Head) (m : ModM) (l : Leaf),
    let asid := s.asidOf k
    let va := ((t.rd h.a 64 + m.ofs) % 2 ^ 64).toNat
    let n := tyBytes h.ty
    let pa := l.pa va (s.leafHalf asid l)
    Runs (.stg h m) h s k t → va + n ≤ 2 ^ 52 → va % 32 + n ≤ 32 → s.tlbHas (coreOf k) asid [(va, 0, n)] = true →
    s.translate (coreOf k) asid .store [(va, 0, n)] = .all [⟨va, 0, n, l, pa⟩] → l.tier ≤ 1 → l.pdom = 0 → s.captures = [] →
    s.partials = [] → (∀ b ∈ s.blocks, ∀ a ∈ b.2.allocs, a.stash = none) → (∀ f ∈ s.freed, f.stash = none) →
    s.ops = [] → s.peers = [] → s.walks = [] → (s.misses.filter fun e => e.core = coreOf k) = [] → s.selfRefresh = [] →
    s.regs.hbmcfgNext = none → ∃ s', exec (.stg h m) s = .next s' ∧ s'.memory = putBytes s.memory pa (toBytes n (t.rdB h.b h.ty.regWidth)) ∧
      (Memory.wf s.memory → bytesAt s'.memory pa n = toBytes n (t.rdB h.b h.ty.regWidth) ∧
        ∀ x, x < pa ∨ pa + n ≤ x → byteAt s'.memory x = byteAt s.memory x) ∧
      s'.hostMemory = s.hostMemory ∧ s'.scm = s.scm ∧ s'.larder = s.larder ∧ s'.regs = s.regs ∧ s'.cores = s.cores ∧
      (∀ j, j ≠ k → s'.thread? j = s.thread? j) ∧ s'.thread? k = some (t.sendOff (.stg h m) h 0)

/-- R245, R250, R251, R255 to R257, R328, R334: copy, enq, publish, coll.run, coll.load, coll.drop and repart hand their request over,
once the block's dirty stash lines are written back (R162); until then the thread issues the instruction again. The request, with the 64
bytes that the larder holds at its address, or with its operands, is the youngest of its engine, and D comes with its end; with the
engine full, the thread waits. An enq to a queue of another package sends its packet there, and takes its result from the answer. -/
def Obligations.EngineRequests : Prop :=
  ∀ (s : State) (k : Nat) (t : Thread) (h : Head) (ofs : Int) (keep seti tid : Nat) (b : Block) (g : Issue),
    s.issuing = some g → s.blockOf k = some b →
    let asid := s.asidOf k
    let bits (ea : Nat) : Nat := s.blockBits b ea 64
    let here (ea : Nat) : Prop := ∀ a, b.allocAt ea = some a → a.stash = none ∨ (s.line (a.lineAt b.core ea)).present = true
    let w := s.releaseStash t.bid
    let again : State := w.updThread k fun t => { t with hold := .replay }
    let rel (i : Instr) : State := sentOff i h w k t
    let wid (i : Instr) : Nat := resultWid i h w
    (∀ ea, ea = larEa h ofs t → Runs (.copy h ofs keep) h s k t → s.blockTrap b ea 64 = none →
      (s.engineLoad b.core < 64 → here ea → s.reqTrap b.asid (bits ea) = none →
        (w.stashHeld t.bid = true → exec (.copy h ofs keep) s = .next (again.settleCycle g.cycle)) ∧
        (w.stashHeld t.bid = false → exec (.copy h ofs keep) s = .next
          ((((w.advance k .issue (.copy h ofs keep) h).2.signRequest k (toBytes 64 (bits ea))).acceptCopy b.core b.asid
            t.bid b.launch ea (bits ea)).settleCycle g.cycle))) ∧
      (64 ≤ s.engineLoad b.core → t.priv = false →
        exec (.copy h ofs keep) s = .next ((s.parkThread k ⟨1, eventKey 0x7 0, if keep = 0 then s.regCount k - 1 else keep, t.pc.toNat,
          some ⟨g.words, ea, 0, 0, lenOf (.copy h ofs keep), 0, [], false⟩, 0, false, g.cycle⟩).settleCycle g.cycle)) ∧
      (∀ d, FreshCycle s → s.engineLoad b.core < 64 → here ea → s.reqTrap b.asid (bits ea) = some d →
        exec (.copy h ofs keep) s = .next (s.trap k 0x0A d ea))) ∧
    (∀ ea, ea = larEa h ofs t → Runs (.enq h ofs keep) h s k t → s.blockTrap b ea 64 = none → here ea → packetTrap (bits ea) = none →
      let sel := t.rdB h.b 32
      let who := Party.thread t.bid t.lin
      sel < 2 ^ 22 →
      (∀ d v va, selPkg sel = s.pkg → s.qdesc asid (sel % 2 ^ 12) = some d → w.stashHeld t.bid = false → w.claimIndex asid d = some v →
        let u := v.signRequest k (toBytes 64 (bits ea))
        u.slotFor (u.asidOf k) d d.widx = some va →
        let r := u.advance k .issue (.enq h ofs keep) h
        exec (.enq h ofs keep) s = .next (((r.2.putPacket (u.asidOf k) va (bits ea) d.widx).setIncoming r.1
          (d.widx % 2 ^ 32)).settleCycle g.cycle)) ∧
      (selPkg sel ≠ s.pkg → s.domain.contains (selPkg sel) = true → w.stashHeld t.bid = false →
        (w.packetOf who = none →
          exec (.enq h ofs keep) s = .next ((((w.signRequest k (toBytes 64 (bits ea))).sendPacket who asid sel (bits ea) 0 none).updThread k
            fun t => { t with hold := .replay }).settleCycle g.cycle)) ∧
        (∀ q bs, w.packetOf who = some q → q.got = some bs → (bs.drop 8).map BitVec.toNat = [1] →
          let r := (w.dropPacket who).advance k .issue (.enq h ofs keep) h
          exec (.enq h ofs keep) s = .next ((r.2.setIncoming r.1 (ofBytes (bs.take 8) % 2 ^ 32)).settleCycle g.cycle)))) ∧
    (Runs (.publish h seti) h s k t →
      let set := (t.rd h.a 32 + seti) % 64
      (s.setOpen asid set = false → exec (.publish h seti) s = .next (s.trap k 0x0A 0x08 set)) ∧
      (s.setOpen asid set = true → w.stashHeld t.bid = true → exec (.publish h seti) s = .next again) ∧
      (s.setOpen asid set = true → w.stashHeld t.bid = false →
        let u := rel (.publish h seti)
        exec (.publish h seti) s = .next { u with
          serial := u.serial + 1
          swaps := u.swaps ++ [⟨u.serial, asid, t.bid, set, (u.copies.filter fun c => c.writesSet asid set).map CopyReq.serial, none,
            wid (.publish h seti), 0⟩] })) ∧
    (∀ n, n = t.rdB h.b 32 → Runs (.collRun h tid) h s k t → n < 16 → s.blockTrap b (t.rd h.a 32) 64 = none → h.c = .reg 0 →
      (s.graph? b.asid n = none → exec (.collRun h tid) s = .next (s.answer k t (.collRun h tid) h 1)) ∧
      (∀ gr, s.graph? b.asid n = some gr → gr.dropped = none → (s.runs.filter fun r => r.asid = b.asid).length < 64 →
        here (t.rd h.a 32) →
        (w.stashHeld t.bid = true → exec (.collRun h tid) s = .next again) ∧
        (w.stashHeld t.bid = false →
          let number := ((w.ctx? b.asid).map fun c => c.runCounts.lookD n 0).getD 0
          let u := (rel (.collRun h tid)).signRequest k (toBytes 64 (bits (t.rd h.a 32)))
          let v := ({ u with serial := u.serial + 1 } : State).updCtx b.asid fun c =>
            { c with runCounts := c.runCounts.ins n ((number + 1) % 2 ^ 20) }
          let r := Run.fresh u.serial b.asid n number t.bid b.core b.launch tid (wid (.collRun h tid)) none
            (bits (t.rd h.a 32)) (({ u with serial := u.serial + 1 } : State).currentHalves b.asid) gr.nodes
          exec (.collRun h tid) s =
            .next ({ v with runs := v.runs ++ [{ r with active := (v.runsOf b.asid n).isEmpty }] } : State).startRuns))) ∧
    (Runs (.collLoad h tid) h s k t →
      let ctl := t.rdB h.b 32
      let addr := t.rd h.a 64
      let n := ctl % 2 ^ 13
      ctl / 2 ^ 13 % 2 ^ 3 = 0 → ctl / 2 ^ 20 = 0 → 1 ≤ n → n ≤ 4096 → addr + 32 * n ≤ 2 ^ 52 → addr % 32 = 0 →
      (w.stashHeld t.bid = true → exec (.collLoad h tid) s = .next again) ∧
      (w.stashHeld t.bid = false →
        let v := (rel (.collLoad h tid)).signRequest k (toBytes 8 addr ++ toBytes 4 ctl)
        let u : State := { v with serial := v.serial + 1 }
        exec (.collLoad h tid) s = .next { u with
          collLoads := u.collLoads ++ [⟨v.serial, asid, wid (.collLoad h tid), addr, n, ctl / 2 ^ 16 % 2 ^ 4, t.bid,
            u.currentHalves asid, none, []⟩] })) ∧
    (Runs (.collDrop h tid) h s k t →
      let id := t.rdB h.b 32
      let u := sentOff (.collDrop h tid) h s k t
      let mine := resultWid (.collDrop h tid) h s
      (16 ≤ id → exec (.collDrop h tid) s = .next (s.trap k 0x01 0x02 0)) ∧
      (id < 16 → s.graph? asid id = none → exec (.collDrop h tid) s = .next (s.answer k t (.collDrop h tid) h 0)) ∧
      (∀ gr, id < 16 → s.graph? asid id = some gr → gr.dropped ≠ none →
        exec (.collDrop h tid) s = .next (s.answer k t (.collDrop h tid) h 0)) ∧
      (∀ gr, id < 16 → s.graph? asid id = some gr → gr.dropped = none → s.runsOf asid id = [] →
        exec (.collDrop h tid) s = .next (u.freeGraph asid id mine)) ∧
      (∀ gr, id < 16 → s.graph? asid id = some gr → gr.dropped = none → s.runsOf asid id ≠ [] →
        exec (.collDrop h tid) s = .next (u.updCtx asid fun c =>
          { c with graphs := c.graphs.ins id { gr with dropped := some mine } }))) ∧
    (Runs (.repart h) h s k t →
      let ea := t.rd h.a 32
      s.blockTrap b ea 64 = none → here ea →
      (∀ x, repartTrap (bits ea) = some x → exec (.repart h) s = .next (s.trap k 0x0A x ea)) ∧
      (repartTrap (bits ea) = none → w.stashHeld t.bid = true → exec (.repart h) s = .next again) ∧
      (repartTrap (bits ea) = none → w.stashHeld t.bid = false →
        let v := (rel (.repart h)).signRequest k (toBytes 64 (bits ea))
        let u : State := { v with serial := v.serial + 1 }
        let x : State := { u with
          repartIssues := u.repartIssues ++ [⟨v.serial, b.asid, t.bid, b.core, wid (.repart h), bits ea, false, u.currentHalves b.asid,
            none, [], [], [], [], 0, none⟩] }
        exec (.repart h) s = .next (if x.isHome b.asid then x
          else x.send (.repart b.asid (x.homeOf b.asid) b.handle (bits ea) v.serial))))

/-- R293, R302 to R304: pfence is outstanding with its thread's die and reach, and D comes with its completion; steptag, once what its
block and the captured regions hold in stash lines is written back, adds 1 to the step word and starts the captures of the regions it
names with SNAP, or answers all ones while one of them runs; snap.stat reads STABLE; snap.go ends the lag of a running capture and
snap.abort fails it; digest hands its range over, or answers 0 when 256 are outstanding. -/
def Obligations.PersistInstructions : Prop :=
  ∀ (s : State) (k : Nat) (t : Thread) (h : Head),
    let asid := s.asidOf k
    let m := t.rdB h.b 32
    let entry (u : State) (r : Nat) : Nat := u.regionEntry asid r
    let named := (List.range 16).filter fun r => m.testBit r
    let fenced (i : Instr) (pkg : Bool) : State :=
      { sentOff i h s k t with
        serial := resultNext i h s + 1
        pfences := s.pfences ++ [⟨resultNext i h s, dieOf (coreOf k), pkg, resultWid i h s, .thread t.bid t.lin⟩] }
    (Runs (.pfenceDie h) h s k t → exec (.pfenceDie h) s = .next (fenced (.pfenceDie h) false)) ∧
    (Runs (.pfencePkg h) h s k t → exec (.pfencePkg h) s = .next (fenced (.pfencePkg h) true)) ∧
    (Runs (.steptag h) h s k t →
      (2 ^ 16 ≤ m ∨ (∃ r ∈ named, regV (entry s r) = false) → exec (.steptag h) s = .next (s.trap k 0x0C 0x01 m)) ∧
      (m < 2 ^ 16 → (∀ r ∈ named, regV (entry s r) = true) →
        let u := s.releaseStash t.bid
        let snaps := named.filter fun r => regSnap (entry u r)
        let step := u.stepWord asid
        let dirty (v : State) : List StashLine := snaps.flatMap fun r => v.regionDirty (v.newCapture asid r step)
        let v := u.flushSome (dirty u)
        let free : Prop := ∀ r ∈ snaps, regCapt (entry u r) = 2 ^ 64 - 1 ∧ u.captureOf asid r = none
        (u.stashHeld t.bid = true → exec (.steptag h) s = .next (u.holdReplay k)) ∧
        (u.stashHeld t.bid = false → ¬free →
          exec (.steptag h) s = .next (u.answer k t (.steptag h) h (2 ^ 64 - 1))) ∧
        (u.stashHeld t.bid = false → free → dirty v ≠ [] → exec (.steptag h) s = .next (v.holdReplay k)) ∧
        (u.stashHeld t.bid = false → free → dirty v = [] →
          exec (.steptag h) s = .next ((snaps.foldl (fun (x : State) r => x.startCapture asid r step)
            (v.ctxPut asid (v.trbase asid + 1024) 8 ((step + 1) % 2 ^ 64))).answer k t (.steptag h) h ((step + 1) % 2 ^ 64))))) ∧
    (∀ i ∈ [Instr.snapStat h, .snapGo h, .snapAbort h], Runs i h s k t → (16 ≤ m ∨ regV (entry s m) = false) →
      exec i s = .next (s.trap k 0x0C 0x02 m)) ∧
    (m < 16 → regV (entry s m) = true →
      (Runs (.snapStat h) h s k t → exec (.snapStat h) s = .next (s.answer k t (.snapStat h) h (regStable (entry s m)))) ∧
      (Runs (.snapGo h) h s k t → s.captureOf asid m = none → exec (.snapGo h) s = .next (s.answer k t (.snapGo h) h 0xFFFFFFFF)) ∧
      (Runs (.snapAbort h) h s k t → s.captureOf asid m = none → exec (.snapAbort h) s = .next (s.answer k t (.snapAbort h) h 0)) ∧
      (∀ c, s.captureOf asid m = some c →
        (Runs (.snapGo h) h s k t → exec (.snapGo h) s = .next ((s.updCapture c fun c => { c with lagOver := true }).answer k t
          (.snapGo h) h (regChunks (entry s m) - c.captured.length))) ∧
        (Runs (.snapAbort h) h s k t → exec (.snapAbort h) s = .next ((s.captureFail asid m).answer k t (.snapAbort h) h 1)))) ∧
    (Runs (.digest h) h s k t →
      let addr := t.rd h.a 64
      let dst := t.rd h.c 64
      (2 ^ 52 < addr + m ∨ 2 ^ 52 ≤ addr → exec (.digest h) s = .next (s.trap k 0x08 0x01 addr)) ∧
      (addr + m ≤ 2 ^ 52 → addr < 2 ^ 52 → 2 ^ 52 ≤ dst → exec (.digest h) s = .next (s.trap k 0x08 0x01 dst)) ∧
      (addr + m ≤ 2 ^ 52 → addr < 2 ^ 52 → dst < 2 ^ 52 → dst % 32 ≠ 0 → exec (.digest h) s = .next (s.trap k 0x08 0x02 dst)) ∧
      (addr + m ≤ 2 ^ 52 → addr < 2 ^ 52 → dst < 2 ^ 52 → dst % 32 = 0 →
        (256 ≤ s.digests.length → exec (.digest h) s = .next (s.answer k t (.digest h) h 0)) ∧
        (s.digests.length < 256 →
          let u := (sentOff (.digest h) h s k t).signRequest k (toBytes 8 addr ++ toBytes 4 m ++ toBytes 8 dst)
          let v : State := { u with serial := u.serial + 1 }
          exec (.digest h) s = .next { v with
            digests := v.digests ++ [⟨u.serial, v.asidOf k, t.bid, coreOf k, addr, m, dst, resultWid (.digest h) h s,
              v.currentHalves (v.asidOf k), none, [], []⟩] })))

/-- R259, R270, R273, R281 to R286: mma, mmscl, mmst.bank, mmst.acc and mmclr.acc whose parameters pass their checks are accepted with
their token in D, once the block's dirty stash lines are written back (R162), or refused with all ones while 8 operations are there;
parameters that do not pass take the matrix-parameter trap with
the check's detail; mmclr.claim takes all it names or nothing, and what it takes is zero; mmclr.free gives back what its block holds;
mmrd reads a cell and the word of its tile; mmwait completes at once for a complete token. -/
def Obligations.MatrixInstructions : Prop :=
  ∀ (s : State) (k : Nat) (t : Thread) (h : Head) (pbn : Nat) (ofs : Int) (keep : Nat) (b : Block) (g : Issue),
    s.issuing = some g → s.blockOf k = some b → FreshCycle s →
    let q := s.arrayQueue b.core
    let full : Prop := 8 ≤ q.length
    let a := (t.rd h.a 32 + 64 * pbn) % 2 ^ 32
    let p := s.blockBits b a 64
    let x := t.rd h.a 32
    let w := t.rdB h.b 32
    let c := t.rd h.c 32
    let here (ea : Nat) : Prop := ∀ a, b.allocAt ea = some a → a.stash = none ∨ (s.line (a.lineAt b.core ea)).present = true
    let released := s.releaseStash t.bid
    let accepted (i : Instr) (op sub blk addr cpl d : Nat) (sign : List Byte) : State :=
      let u := released.answer k t i h d
      let v := ({ u with serial := u.serial + 1 } : State).signRequest k sign
      v.setArrayQueue b.core (u.arrayQueue b.core ++ [⟨u.serial, b.asid, t.bid, b.launch, op, sub, blk, addr, cpl, d, 0, false, false, 0, 0⟩])
    let presented (i : Instr) (op sub blk addr cpl d : Nat) (sign : List Byte) : Prop :=
      (full → exec i s = .next (s.answer k t i h 0xFFFFFFFF)) ∧
      (¬full → released.stashHeld t.bid = true → exec i s = .next (released.holdReplay k)) ∧
      (¬full → released.stashHeld t.bid = false → exec i s = .next (accepted i op sub blk addr cpl d sign))
    (Runs (.mma h pbn) h s k t → s.blockTrap b a 64 = none → here a →
      (∀ d, s.pbTrap b t.bid p = some d → exec (.mma h pbn) s = .next (s.trap k 0x0B d a)) ∧
      (s.pbTrap b t.bid p = none → presented (.mma h pbn) 0xB0 0 p a (p / 2 ^ 160 % 2 ^ 32)
        (s.tokenFor b t.bid (p / 2 ^ 160 % 2 ^ 32)) (toBytes 64 p))) ∧
    (Runs (.mmscl h pbn) h s k t → s.blockTrap b a 64 = none → here a →
      (∀ d, s.sbTrap b t.bid p = some d → exec (.mmscl h pbn) s = .next (s.trap k 0x0B d a)) ∧
      (s.sbTrap b t.bid p = none → presented (.mmscl h pbn) 0xB4 0 p a (p / 2 ^ 160 % 2 ^ 32)
        (s.tokenFor b t.bid (p / 2 ^ 160 % 2 ^ 32)) (toBytes 64 p))) ∧
    (Runs (.mmstBank h) h s k t →
      (∀ d, s.mmstTrap b t.bid 0 w x c = some d → exec (.mmstBank h) s = .next (s.trap k 0x0B d x)) ∧
      (s.mmstTrap b t.bid 0 w x c = none →
        presented (.mmstBank h) 0xB5 0 w x c (s.tokenFor b t.bid c) (toBytes 64 (w * 2 ^ 32 + x)))) ∧
    (Runs (.mmstAcc h) h s k t →
      (∀ d, s.mmstTrap b t.bid 1 w x c = some d → exec (.mmstAcc h) s = .next (s.trap k 0x0B d x)) ∧
      (s.mmstTrap b t.bid 1 w x c = none →
        presented (.mmstAcc h) 0xB5 1 w x c (s.tokenFor b t.bid c) (toBytes 64 (w * 2 ^ 32 + x)))) ∧
    (Runs (.mmclrAcc h) h s k t →
      (2 ≤ x → exec (.mmclrAcc h) s = .next (s.trap k 0x0B 0x06 x)) ∧
      (x < 2 → (s.core b.core).claims.look x ≠ some t.bid → exec (.mmclrAcc h) s = .next (s.trap k 0x0B 0x05 x)) ∧
      (x < 2 → (s.core b.core).claims.look x = some t.bid → presented (.mmclrAcc h) 0xB3 0 x 0 0 0 (toBytes 64 x))) ∧
    (Runs (.mmclrClaim h) h s k t →
      (∀ d, claimTrap x = some d → exec (.mmclrClaim h) s = .next (s.trap k 0x0B d x)) ∧
      (claimTrap x = none → (∃ key ∈ claimKeys x, (s.core b.core).claims.look key ≠ none) →
        exec (.mmclrClaim h) s = .next (s.answer k t (.mmclrClaim h) h 0)) ∧
      (claimTrap x = none → (∀ key ∈ claimKeys x, (s.core b.core).claims.look key = none) →
        exec (.mmclrClaim h) s = .next
          (((claimKeys x).foldl (fun (u : State) key => u.grant b.core t.bid key) s).answer k t (.mmclrClaim h) h 1))) ∧
    (Runs (.mmclrFree h) h s k t →
      (∀ d, claimTrap x = some d → exec (.mmclrFree h) s = .next (s.trap k 0x0B d x)) ∧
      (claimTrap x = none →
        let mine := (claimKeys x).filter fun key =>
          (s.core b.core).claims.look key = some t.bid && !((s.core b.core).freeing.contains key)
        exec (.mmclrFree h) s = .next (((s.updCore b.core fun c => { c with freeing := c.freeing ++ mine }).settleClaims b.core).answer k t
          (.mmclrFree h) h (mine.map fun key => if key < 2 then 2 ^ key else 2 ^ (14 + key)).sum))) ∧
    (Runs (.mmrd h) h s k t →
      (2 ^ 15 ≤ x → exec (.mmrd h) s = .next (s.trap k 0x0B 0x06 x)) ∧
      (x < 2 ^ 15 → (s.core b.core).claims.look (x / 2 ^ 14) ≠ some t.bid → exec (.mmrd h) s = .next (s.trap k 0x0B 0x05 x)) ∧
      (x < 2 ^ 15 → (s.core b.core).claims.look (x / 2 ^ 14) = some t.bid →
        let (wd, we, u) := s.sendTwo k t (.mmrd h) h
        exec (.mmrd h) s = .next ((u.setIncoming wd (u.cell b.core (x / 2 ^ 14) (x / 2 ^ 7 % 2 ^ 7) (x % 2 ^ 7))).setIncoming we
          (u.tileWord b.core (x / 2 ^ 14))))) ∧
    (Runs (.mmwait h ofs keep) h s k t → s.objTrap b (larEa h ofs t) = none →
      let o := s.objAt b (larEa h ofs t)
      o.expect ≠ 0 → o.kind = 0 →
      (o.gen ≠ w % 2 ^ 30 → exec (.mmwait h ofs keep) s = .next (s.setThread k (t.sendOff (.mmwait h ofs keep) h 0))) ∧
      (o.gen = w % 2 ^ 30 → t.priv = false → exec (.mmwait h ofs keep) s = .next
        (((s.putObj b (larEa h ofs t) { o with waiters := Nat.lor o.waiters (2 ^ laneOf k) }).parkThread k
          ⟨1, eventKey 0x5 (larEa h ofs t * 2 ^ 32 + w % 2 ^ 30), if keep = 0 then s.regCount k - 1 else keep, t.pc.toNat,
            some ⟨g.words, larEa h ofs t, w, 0, lenOf (.mmwait h ofs keep), 0, [], false⟩, 0, false, g.cycle⟩).settleCycle g.cycle)))

/-- R259: what mmclr.claim takes is zero: a tile with its word, or a unit of every slice of the bank; every other tile and unit stays. -/
def Claim.GrantsAreZero : Prop :=
  ∀ (s : State) (core bid key : Nat), core < 192 → key < 18 → Map.wf 0 s.tileWords →
    let u := s.grant core bid key
    (u.core core).claims.look key = some bid ∧
    (key < 2 → (∀ i j, i < 128 → j < 128 → u.cell core key i j = 0) ∧ u.tileWord core key = 0 ∧ u.bank = s.bank) ∧
    (2 ≤ key → (∀ j o, j < 128 → o < 4096 → byteAt u.bank (bankAddr core j (4096 * (key - 2) + o)) = 0) ∧ u.tiles = s.tiles) ∧
    (∀ c i j, c < 192 → i < 128 → j < 128 → ∀ tile < 2, (c, tile) ≠ (core, key) → u.cell c tile i j = s.cell c tile i j) ∧
    (∀ c j o, c < 192 → j < 128 → o < 65536 → (c, o / 4096 + 2) ≠ (core, key) →
      byteAt u.bank (bankAddr c j o) = byteAt s.bank (bankAddr c j o))

/-- R271, R274, R276, R278, R281: the operation that a core's array is at starts; an mma takes one K step at a time, which makes every
cell of its tile what the step's row and column give, and it is over after its last; the end takes an operation off the queue, arrives
at its object and gives claims back that waited for it. -/
def Claim.MatrixSteps : Prop :=
  ∀ (s : State) (core : Nat) (o : MatOp) (b : Block) (d : StepData),
    s.current core = some o → s.blocks.look o.bid = some b → b.core = core →
    let p := o.blk
    let tile := pbTile p
    let own := (matMode (pbA p) (pbB p)).getD 0
    let mode := (s.tileWord core tile) / 2 ^ 16 % 4
    (o.started = false → o.op ≠ 0xB0 →
      exec (.matrixOpStart core) s = .next (s.updOp core o.serial fun o => { o with started := true }).settleOps) ∧
    (o.started = false → o.op = 0xB0 → o.steps = 0 → pbOvw p = true →
      exec (.matrixOpStart core) s = .next (((s.zeroTile core tile).setTileWord core tile false own 0).updOp
        core o.serial fun o => { o with started := true }).settleOps) ∧
    (o.op = 0xB0 → o.started = true → o.finished = false → s.arrayBad core = false → s.stepData b p o.steps = .ok d → pbSpar p = 0 →
      let u := s.subStep core o d 0
      exec (.mmaKStep core) s = .next ((u.setTileWord core tile false mode (o.steps + 1)).updOp core o.serial fun x =>
        { x with steps := x.steps + 1, finished := x.steps + 1 = pbSteps p }).settleOps ∧
      u.memory = s.memory ∧ u.larder = s.larder ∧ u.threads = s.threads ∧
      (d.a.length = 128 → d.rowMeta.length = 128 → d.b.length = 128 → ∀ i j, i < 128 → j < 128 →
        u.cell core tile i j = (cellStep p own 0 (pbLen p) (s.cell core tile i j) (d.a.getD i 0) (d.rowMeta.getD i 0)
          (d.b.getD j 0)).bits)) ∧
    (∀ r ea, o.op = 0xB0 → o.started = true → o.finished = false → s.arrayBad core = false → s.stepData b p o.steps = .error (r, ea) →
      exec (.mmaKStep core) s = .next (((s.logRead b r ea).setTileWord core tile true mode o.steps).updOp core o.serial fun x =>
        { x with finished := true, fault := r, faultAddr := ea }).settleOps) ∧
    (o.op = 0xB0 → o.started = true → o.finished = true → o.fault = 0 → s.canReport o.asid = true →
      ∀ u, (s.setArrayQueue core ((s.arrayQueue core).filter fun x => x.serial ≠ o.serial)).objArrive o.bid o.cpl 1 0 = some u →
        exec (.matrixOpEnd core) s = .next (u.settleClaims core).settleOps)

/-- What mmclr.claim takes is zero, and a matrix operation runs its steps and ends. -/
def Obligations.MatrixArrays : Prop :=
  Claim.GrantsAreZero ∧ Claim.MatrixSteps

/-- R367: a failed lane empties its unit, which admits no group any more; once the unit holds no group it is steered past the lane, and
a second failed lane fences it. -/
def Claim.LaneSteering : Prop :=
  ∀ (s : State) (core unit lane : Nat), core < 192 → unit < 4 → lane < 33 →
    let u := 4 * core + unit
    (s.unit u).fenced = false → lane ∉ s.failedLanes u → (s.unit u).emptying = false →
    let e := s.emptyUnit u
    (e.unitEmpty u = false → exec (.laneSteering core unit lane) s = .next e.settleOps) ∧
    (e.unitEmpty u = true →
      exec (.laneSteering core unit lane) s = .next ((e.steer u lane).setUnit u { (e.steer u lane).unit u with emptying := false }).settleOps)

/-- R371 and R372: the background test of an array logs its outcome; two failing passes or more are a lasting fault, which is fenced. -/
def Claim.TargetedSelfTest : Prop :=
  ∀ (s : State) (src unit loc failing : Nat), src < 7 → unit < 256 → loc < 2 ^ 50 →
    let e (cls : Nat) := BitVec.ofNat 64 (2 ^ 63 + src * 2 ^ 60 + cls * 2 ^ 58 + unit * 2 ^ 50 + loc)
    (failing < 2 → exec (.targetedSelfTest src unit loc failing) s =
      .next { s with arrlog := pushLog s.arrlog (e 0).toNat }.settleOps) ∧
    (2 ≤ failing →
      exec (.targetedSelfTest src unit loc failing) s = .next ({ s with arrlog := pushLog s.arrlog (e 1).toNat }.fenceArray src unit loc).settleOps)

/-- R372 and R378: a log holds at most 64 entries; a new one goes to the end, and the oldest of a full log goes. -/
def Claim.LogsKeepTheNewest : Prop :=
  ∀ (l : List (BitVec 64)) (e : Nat), l.length ≤ 64 →
    (pushLog l e).length ≤ 64 ∧ (pushLog l e).getLast? = some (BitVec.ofNat 64 e) ∧
    (l.length < 64 → pushLog l e = l ++ [BitVec.ofNat 64 e]) ∧ (l.length = 64 → pushLog l e = l.tail ++ [BitVec.ofNat 64 e])

/-- R370 and R372: a transfer that a retry saved is logged with ACTION 0; after four failed retries a spare lane takes over with
ACTION 1, and a pseudo-channel with no spare lane left is fenced with ACTION 2. -/
def Claim.TransferErrors : Prop :=
  ∀ (s : State) (stack chan pc lane retries : Nat) (write : Bool), stack < 8 → chan < 32 → pc < 2 → lane < 66 →
    let entry (n action : Nat) := 2 ^ 63 + stack * 2 ^ 60 + chan * 2 ^ 55 + pc * 2 ^ 54 + lane * 2 ^ 47 + n * 2 ^ 44 +
      action * 2 ^ 42 + (if write then 2 ^ 41 else 0) + s.timebase.toNat / 1000 % 2 ^ 40
    let logged (n action : Nat) : State := { s with xfrlog := pushLog s.xfrlog (entry n action) }
    let no := stack * 64 + chan * 2 + pc
    (1 ≤ retries → retries ≤ 4 →
      exec (.transferErrorRetry stack chan pc lane retries write) s = .next (logged retries 0).settleOps) ∧
    ((s.swapped stack chan pc).length < 2 → exec (.transferErrorRetry stack chan pc lane 5 write) s =
      .next ((logged 4 1).addDefect 9 stack (chan * 2 ^ 45 + pc * 2 ^ 44 + lane)).settleOps) ∧
    (2 ≤ (s.swapped stack chan pc).length → exec (.transferErrorRetry stack chan pc lane 5 write) s =
      .next { logged 4 2 with fencedPcs := no :: s.fencedPcs.filter fun x => x ≠ no }.settleOps)

/-- Failed lanes are steered past, tests and transfer errors are logged, and logs keep the newest entries. -/
def Obligations.ErrorsAndLogs : Prop :=
  Claim.LaneSteering ∧ Claim.TargetedSelfTest ∧ Claim.LogsKeepTheNewest ∧ Claim.TransferErrors

/-- R375 to R377: HBMCFG's split takes effect later than its write; a channel at 95 °C forces its stack into self-refresh, which it
leaves when every channel is below 85 °C. -/
def Claim.MemoryStacks : Prop :=
  ∀ (s : State) (v : BitVec 64) (value stack chan temp : Nat), stack < 8 → chan < 32 → temp < 256 →
    let measured : State := { s with temps := Map.put 0 s.temps (stack * 32 + chan) temp }
    exec (.hbmcfgWrite value) s =
      .next { s with regs := { s.regs with hbmcfgNext := some (BitVec.ofNat 64 (value % 2 ^ 16)) } }.settleOps ∧
    (s.regs.hbmcfgNext = some v →
      exec .hbmcfgTakesEffect s = .next { s with regs := { s.regs with hbmcfg := v, hbmcfgNext := none } }.settleOps) ∧
    (95 ≤ temp → exec (.channelTemperatureMeasure stack chan temp) s = .next (measured.heat stack).settleOps) ∧
    (temp < 95 → stack ∈ s.selfRefresh → (∀ c < 32, measured.tempOf stack c < 85) →
      exec (.channelTemperatureMeasure stack chan temp) s = .next (measured.cool stack).settleOps) ∧
    (temp < 95 → (stack ∉ s.selfRefresh ∨ ∃ c < 32, 85 ≤ measured.tempOf stack c) →
      exec (.channelTemperatureMeasure stack chan temp) s = .next measured.settleOps) ∧
    (stack ∉ s.selfRefresh → stack ∈ (s.heat stack).selfRefresh) ∧ stack ∉ (s.cool stack).selfRefresh

/-- R379 and R384: STITCH and VMCTL with GO start their work with BUSY set, unless BUSY is 1 already: then only the other fields
change (GO reads 1 as long as BUSY does, log 36); a rail that may not be measured is refused at once; the end of the work clears BUSY
and gives its status, a rebuild once its writes are performed. -/
def Claim.StitchAndVoltage : Prop :=
  ∀ (s : State) (value vmeas result status : Nat),
    let r := s.regs
    let x := r.stitch.toNat
    let v := r.vmctl.toNat
    let span (w : Nat) := w / 2 ^ 24 % 2 ^ 35 * 2 ^ 24
    let kept (w : Nat) := w / 2 ^ 48 % 2 ^ 14 * 2 ^ 48 + w % 2 ^ 32
    let at_ (busy : Nat) (st w : Nat) : BitVec 64 := BitVec.ofNat 64 (busy * (2 ^ 63 + 2 ^ 62) + st * 2 ^ 59 + span w)
    let volts (c q raised : Nat) : State := { s with regs :=
      { r with vmctl := BitVec.ofNat 64 c, vmres := BitVec.ofNat 64 q, raised := raised } }
    let run := s.restoreRun (r.rebuild / 2 ^ 50 % 2 ^ 9) (r.rebuild / 2 ^ 40 % 2 ^ 10) (r.rebuild / 2 ^ 24 % 2 ^ 16)
    let test := r.raised / 2 ^ 48 % 2 ^ 4
    let o := if test < 9 ∧ selectorOk test (r.raised % 2 ^ 32) = true then result / 2 ^ 30 % 4 else 3
    (value.testBit 63 = true → x.testBit 62 = false → exec (.stitch value) s =
      .next { s with regs := { r with stitch := at_ 1 1 value, rebuild := value } }.settleOps) ∧
    (x.testBit 62 = true → exec (.stitch value) s =
      .next { s with regs := { r with stitch := at_ 1 (x / 2 ^ 59 % 8) value } }.settleOps) ∧
    (x.testBit 62 = true → r.rebuilt = none → exec .stitchComplete s = .next
      ({ run.2.2 with regs := { run.2.2.regs with rebuilt := some run.1 } } : State).endRebuild.settleOps) ∧
    (r.rebuilt = some status → x.testBit 62 = true → s.opsOf .hub = [] → exec .stitchComplete s =
      .next { s with regs := { r with stitch := at_ 0 (status % 8) x, rebuilt := none } }.settleOps) ∧
    (value.testBit 63 = true → v.testBit 62 = false → exec (.vmctlGo value) s = .next (if s.railRefused (value / 2 ^ 58 % 2 ^ 4)
      then volts (kept value) (2 ^ 63 + 2 ^ 61) r.raised else volts (2 ^ 63 + 2 ^ 62 + kept value) 0 value).settleOps) ∧
    (v.testBit 62 = true → exec (.voltageMarginComplete vmeas result) s = .next
      (volts (kept v) (2 ^ 63 + (if o = 0 then 2 ^ 62 else 0) + vmeas % 2 ^ 16 * 2 ^ 32 + o * 2 ^ 30 +
        test * 2 ^ 26 + if o = 1 ∨ o = 2 then result % 2 ^ 20 else 0) r.raised).settleOps)

/-- R380 to R382: start-up goes stage by stage to 3, and full service releases the clock; a failure halts it in stage 15 with its
reason; the clock moves one step at a time between 3.3 GHz and FLOOR, once start-up no longer holds it; an attestation answers a nonce
of 32 bytes with the digests and their signature, which are not computed here (log 17). -/
def Claim.StartUpClockAttestation : Prop :=
  ∀ (s : State) (fail : Nat) (up therm power : Bool) (nonce : List Byte),
    let r := s.regs
    let clk := r.clkstep.toNat
    let floor := clk / 2 ^ 16 % 2 ^ 8
    let clocked (w : Nat) : State := { s with regs :=
      { r with clkstep := BitVec.ofNat 64 w, clkTicks := s.coreClock, clkSince := s.timebase.toNat } }
    (s.stage < 2 → exec (.bootStageAdvance 0) s =
      .next { s with regs := { r with bootstage := BitVec.ofNat 64 (s.stage + 1) } }.settleOps) ∧
    (s.stage = 2 → exec (.bootStageAdvance 0) s = .next
      { s with regs := { r with bootstage := 3, clkstep := BitVec.ofNat 64 (clk - clk / 2 ^ 10 % 2 * 2 ^ 10) } }.settleOps) ∧
    (s.stage < 3 → 1 ≤ fail → fail ≤ 4 →
      exec (.bootStageAdvance fail) s =
      .next { s with regs := { r with bootstage := BitVec.ofNat 64 (fail * 16 + 15) } }.settleOps) ∧
    (clk.testBit 10 = false → exec (.clockStepChange up therm power) s = .next
      (clocked (floor * 2 ^ 16 + (if therm then 2 ^ 9 else 0) + (if power then 2 ^ 8 else 0) +
        if up then clk % 256 - 1 else min floor (clk % 256 + 1))).settleOps) ∧
    (nonce.length = 32 → s.stage ≠ 0 → s.stage ≠ 15 →
      let body := nonce ++ Config.firmwareDigests s.stage ++ sm3 (mapBytes s.fusedMap) ++ sm3 (mapBytes s.serviceMap) ++
        sm3 (toBytes 8 s.hbmcfgRead)
      exec (.attestationRequest nonce) s = .next (s.send (.report (body ++ Config.sm2Sign body))).settleOps)

/-- Memory stacks, lane stitching, voltage, start-up, the clock and attestation. -/
def Obligations.PlatformRegisters : Prop :=
  Claim.MemoryStacks ∧ Claim.StitchAndVoltage ∧ Claim.StartUpClockAttestation

/-- R287, R288, R292, R395: after a reset or a loss of power the machine starts at stage 0 with nothing on its dies; the storage-class
tier holds what had been drained, by epoch and then in the order of entry, and of the granules that no lost write of a persist domain has
reached the last value or the drained one; the slots known stable stay; the log of the loss says whether every entry was drained. -/
def Obligations.PowerAndReset : Prop :=
  ∀ (s : State) (drained : Nat) (kept : List Nat),
    let order := s.drainOrder
    let drain := (order.take drained).foldl (fun m e => putBytes m e.pa e.bytes) s.scm
    let tier := kept.foldl (fun m g =>
      if isScm (32 * g) && !(s.touched (order.drop drained) g) then putBytes m (32 * g) (bytesAt s.memory (32 * g) 32) else m) drain
    (∃ t, exec (.powerFail drained kept) s = .next t ∧ t.scm = scmOf tier ∧ t.memory = scmOf tier ∧ t.threads = [] ∧ t.blocks = [] ∧
      t.contexts = [] ∧ t.larder = [] ∧ t.bank = [] ∧ t.wbqs = [[], [], [], []] ∧ t.regs.bootstage = 0 ∧ t.hostMemory = s.hostMemory ∧ t.ops = [] ∧ t.stableSlots = s.stableSlots ∧
      t.regs.pstat = BitVec.ofNat 64 ((if order.length ≤ drained then 2 else 1) * 2 ^ 61)) ∧
    (∃ t, exec .moduleReset s = .next t ∧ t.memory = scmOf s.memory ∧ t.scm = scmOf s.memory ∧ t.threads = [] ∧ t.blocks = [] ∧
      t.regs.bootstage = 0 ∧ t.hostMemory = s.hostMemory ∧ t.ops = [] ∧ t.fusedMap = s.fusedMap ∧ t.serviceMap = s.serviceMap)

/-- R71, R72, R129, R131, R209: when the data of an incoming write is there, the registers that it still writes receive it in its thread, or
in the record the thread has become, up to what the record keeps; records that awaited nothing else become ready, and miss-status entries
no longer serve it. A write whose data is not there yet changes nothing. -/
def Claim.IncomingWrites : Prop :=
  ∀ (s : State) (wid v : Nat),
    let waits (x : Incoming) : Prop := x.wid = wid ∧ x.data = none
    let got (x : Incoming) (m : Map Word) (keep n : Nat) : Word :=
      if n ∈ x.live ∧ n ≤ keep ∧ x.reg ≤ n ∧ n < x.reg + regWords x.width then BitVec.ofNat 32 (v / 2 ^ (32 * (n - x.reg))) else m.lookD n 0
    let hit := s.records.filter fun p => p.2.incoming.any fun x => x.wid = wid && p.2.awaits x
    let landed : State := { s with threads := s.threads.map fun p => (p.1, p.2.land wid), records := s.records.map fun p => (p.1, p.2.land wid) }
    ((∃ p ∈ s.threads, ∃ x ∈ p.2.incoming, waits x) → exec (.incomingWriteComplete wid) s = .next s.settleOps) ∧
    ((∀ p ∈ s.threads, ∀ x ∈ p.2.incoming, ¬waits x) → (∀ p ∈ s.records, ∀ x ∈ p.2.incoming, ¬waits x) →
      exec (.incomingWriteComplete wid) s =
        .next ((hit.foldl (fun (u : State) p => (u.syncRecord p.1).settleUnit p.2.unit) landed).freeMiss wid).settleOps) ∧
    (∀ (t : Thread) (x : Incoming), Map.wf 0 t.regs → t.incoming.filter (fun x => x.wid = wid) = [x] → x.data = some v →
      t.land wid = { t with regs := (t.land wid).regs, incoming := t.incoming.filter fun x => x.wid ≠ wid } ∧
      ∀ n, (t.land wid).regs.lookD n 0 = got x t.regs n n) ∧
    (∀ (r : Record) (x : Incoming), Map.wf 0 r.regs → r.incoming.filter (fun x => x.wid = wid) = [x] → r.awaits x = true → x.data = some v →
      r.land wid = { r with regs := (r.land wid).regs, landed := r.landed ++ [wid] } ∧ ∀ n, (r.land wid).regs.lookD n 0 = got x r.regs r.keep n) ∧
    (∀ e ∈ (s.freeMiss wid).misses, wid ∉ e.wids)

/-- R71, R126, R129, R209, R214, R358: a thread whose next instruction waits for a register parks before it with MODE 0, ready; one
whose access awaits translation parks on the ticket that its walk resolves; one in privileged mode stays; an access that waited for
miss-status entries issues again. -/
def Claim.PendingParksAndReplays : Prop :=
  ∀ (s : State) (group lane : Nat) (t : Thread) (i : Instr) (w : Walk),
    let k := threadNo group lane
    let n : State := { s with serial := s.serial + 1 }
    s.thread? k = some t →
    (t.hold = .none → t.priv = false → n.instrAt k t = some i → t.walk = none → (∃ r ∈ i.sources, r ∈ t.awaited) →
      exec (.pendingRegisterPark group [lane]) s = .next ((n.parkThread k
        ⟨0, 0x4 * 2 ^ 60, n.regCount k - 1, t.pc.toNat, none, 0, true, s.serial⟩).settleCycle s.serial).settleOps) ∧
    (t.hold = .none → t.priv = false → n.instrAt k t = some i → t.walk = some w.x.no → (s.walks.find? fun x => x.x.no = w.x.no) = some w →
      ((∃ r ∈ i.sources, r ∈ t.awaited) ∨ heldByWalk i = true) →
      exec (.pendingRegisterPark group [lane]) s = .next ((n.parkWalk k s.serial t w).settleCycle s.serial).settleOps) ∧
    (t.priv = true → exec (.pendingRegisterPark group [lane]) s = .next (n.settleCycle s.serial).settleOps) ∧
    (t.hold = .replay → exec (.missStatusReplay group [lane]) s = .next (s.setThread k { t with hold := .none }).settleOps) ∧
    (t.hold ≠ .replay → exec (.missStatusReplay group [lane]) s = .next (s.setThread k t).settleOps)

/-- Incoming writes reach the registers that still wait for them, and waiting instructions park or replay. -/
def Obligations.IncomingWritesAndReplays : Prop :=
  Claim.IncomingWrites ∧ Claim.PendingParksAndReplays

/-- R136, R139, R140, R146, R314: a deadline that the timebase has reached, and a word that differs from the value awaited, make a record
ready, with the reason of the wake in its log; a word on a peer's page is asked for first; a bin whose timer has run out launches what it
holds; what is not due changes nothing. -/
def Claim.TimersAndWatches : Prop :=
  ∀ (s : State) (rid core bin v : Nat) (r : Record) (l : OpLog) (p : Piece),
    let ready (u : State) (r : Record) : State := (u.updRecord rid fun r => { r with satisfied := true }).settleUnit r.unit
    let who := Party.thread r.bid r.lin
    let launched : State := s.launchBin core bin
    let here : Prop := s.watchPiece r.core r.asid l.ea = none ∨
      (s.watchPiece r.core r.asid l.ea = some p ∧ s.watchAway who p = false)
    s.records.look rid = some r → r.log = some l → r.satisfied = false →
    (r.event / 2 ^ 60 = 0x8 → l.aux ≤ s.timebase.toNat → l.aux < 2 ^ 60 →
      exec (.timeEventExpiry rid) s = .next (ready s r).settleOps) ∧
    (s.timebase.toNat < l.aux ∨ 2 ^ 60 ≤ l.aux → exec (.timeEventExpiry rid) s = .next s.settleOps) ∧
    (r.event / 2 ^ 60 = 0x9 → here → s.watchReason who r.core r.asid l = some v →
      exec (.watchedWordEvaluate rid) s =
        .next (ready ((s.dropWatch who).updRecord rid fun r => { r with log := some { l with aux := 2 + v } }) r).settleOps) ∧
    (r.event / 2 ^ 60 = 0x9 → here → s.watchReason who r.core r.asid l = none →
      exec (.watchedWordEvaluate rid) s = .next (s.dropWatch who).settleOps) ∧
    (r.event / 2 ^ 60 = 0x9 → s.watchPiece r.core r.asid l.ea = some p → s.watchAway who p = true → l.aux ≠ 1 →
      exec (.watchedWordEvaluate rid) s = .next (s.askWatch who r.asid p).settleOps) ∧
    (∀ b, s.bin? core bin = some b → s.binExpired b = true →
      exec (.crockTimerExpiry core bin) s = .next (launched.pressBins core (4 * launched.records.length + 4)).settleOps) ∧
    (∀ b, s.bin? core bin = some b → s.binExpired b = false → exec (.crockTimerExpiry core bin) s = .next s.settleOps)

/-- R361 and R134: reports that were held for a context enter its ring in order while it has room; a thread that waited to report does so
and ends, or is held for its record; dumps that waited go on. -/
def Claim.FaultQueueDrains : Prop :=
  ∀ (s : State) (asid : Nat),
    let quiet (u : State) : Prop := ∀ p ∈ u.threads, ∀ e q, p.2.hold ≠ .report e q
    ((∀ h ∈ s.heldReports, h.asid ≠ asid) → quiet s → exec (.faultQueueSpace asid) s = .next s.runDumps.settleOps) ∧
    (∀ h c, s.heldReports = [h] → h.asid = asid → s.ctx? asid = some c → s.fqRoom asid c = true →
      let put : State := ({ s with heldReports := [] } : State).putReport asid c h.entry
      quiet put → exec (.faultQueueSpace asid) s = .next put.runDumps.settleOps) ∧
    (∀ k t e, s.heldReports = [] → s.threads = [(k, t)] → t.hold = .report e .ends → s.asidOf k = asid → s.canReport asid = true →
      exec (.faultQueueSpace asid) s = .next ((s.fileReport asid e).endThread k).runDumps.settleOps) ∧
    (∀ k t e cycle q c, s.heldReports = [] → s.threads = [(k, t)] → t.hold = .report e (.holds cycle q) → s.asidOf k = asid →
      s.canReport asid = true → s.ctx? asid = some c → c.ovFault = false →
      exec (.faultQueueSpace asid) s = .next (((s.updThread k fun t => { t with hold := .overflow cycle q }).updCtx asid
        fun c => { c with ovFault := true }).fileReport asid e).runDumps.settleOps)

/-- Timers and watched words make records ready, and held reports enter the fault queue in order. -/
def Obligations.TimersWatchesAndReports : Prop :=
  Claim.TimersAndWatches ∧ Claim.FaultQueueDrains

/-- R205 and R213: a write of TLBINV drops the translations it names from every TLB and sets BUSY, which is 0 again when no access that
used them is left, and while BUSY is 1 a write is ignored; a write of TRES resolves an outstanding ticket, and no other. -/
def Claim.InvalidationsAndTickets : Prop :=
  ∀ (s : State) (v : Nat), v < 2 ^ 64 →
    let busy := s.regs.tlbinv.toNat.testBit 63
    let covers (x : Transl) : Bool := v.testBit 62 || (x.asid = v / 2 ^ 52 % 2 ^ 9 && (v % 2 ^ 16 = 0 ||
      (x.base < (v / 2 ^ 16 % 2 ^ 36 + v % 2 ^ 16) * 2 ^ 16 && v / 2 ^ 16 % 2 ^ 36 * 2 ^ 16 < x.base + x.size)))
    (busy = true → exec (.tlbinv v) s = .next s.settleOps) ∧
    (busy = false → ∃ u : State, exec (.tlbinv v) s = .next u.settleOps ∧
      u.regs = { s.regs with tlbSince := s.serial, tlbinv := BitVec.ofNat 64 (2 ^ 63 + v / 2 ^ 62 % 2 * 2 ^ 62 + v % 2 ^ 61) } ∧
      (∀ c, (u.core c).tlb = (s.core c).tlb.filter fun x => !(covers x)) ∧ u.memory = s.memory ∧ u.threads = s.threads) ∧
    (busy = true → s.usesDropped = false → exec .tlbinvComplete s =
      .next { s with regs := { s.regs with tlbinv := BitVec.ofNat 64 (s.regs.tlbinv.toNat % 2 ^ 63) } }.settleOps) ∧
    (busy = false ∨ s.usesDropped = true → exec .tlbinvComplete s = .next s.settleOps) ∧
    ((∀ x ∈ s.tickets, x.number = v % 2 ^ 32 → x.self = true) → exec (.tres v) s = .next s.settleOps) ∧
    ((∃ x ∈ s.tickets, x.number = v % 2 ^ 32 ∧ x.self = false) →
      exec (.tres v) s = .next (s.resolveTicket (v % 2 ^ 32)).runDumps.settleOps)

/-- R314 and R396: the host and a peer package read and write the bytes of device memory, where nothing that is on its way stands in
between; a range that is not populated completes as an unsupported request. A peer's request acts once the fabric has delivered it, and
is answered. What a peer returns for a load goes to the load's register. -/
def Claim.HostAndPeerAccesses : Prop :=
  ∀ (s u : State) (pa n pkg tag wid : Nat) (bs data : List Byte),
    s.partials = [] → (∀ b ∈ s.blocks, ∀ a ∈ b.2.allocs, a.stash = none) → s.freed = [] → s.poison = [] → s.captures = [] →
    s.ops = [] → s.walks = [] → s.misses = [] → s.selfRefresh = [] → s.regs.hbmcfgNext = none →
    let next (t : State) : State := { t with serial := t.serial + 1 }
    let wrote (t : State) : State := { t with serial := t.serial + 1, memory := putBytes s.memory pa bs }
    let hbm := 1 ≤ bs.length ∧ pa % 32 + bs.length ≤ 32 ∧ isHbm pa = true
    let all := ∀ x, pa ≤ x → x < pa + n → populated x = true
    (s.peers = [] →
      (all → exec (.hostBar2Read pa n) s = .next ((next s).send (.hostReply (some (bytesAt s.memory pa n)))).settleOps) ∧
      (hbm → exec (.hostBar2Write pa bs) s = .next (wrote s).settleOps) ∧
      (populated pa = false → pa % 32 + bs.length ≤ 32 → exec (.hostBar2Write pa bs) s = .next (next s).settleOps) ∧
      (s.takeMessage 0 pkg = some u →
        (all → exec (.peerMemoryRequest pkg tag (.read pa n)) s =
          .next ((next u).send (.memoryReply pkg tag (bytesAt s.memory pa n))).settleOps) ∧
        (∀ pdom, hbm → exec (.peerMemoryRequest pkg tag (.write pa bs pdom)) s =
          .next ((wrote u).send (.memoryReply pkg tag [])).settleOps))) ∧
    (∀ req, s.takeMessage 0 pkg = none → exec (.peerMemoryRequest pkg tag req) s = .next s.settleOps) ∧
    ((∃ x, pa ≤ x ∧ x < pa + n ∧ populated x = false) → exec (.hostBar2Read pa n) s = .next (s.send (.hostReply none)).settleOps) ∧
    (∀ (p : PeerAccess) (x : Pending) (ty : Ty), s.peers = [p] → p.tag = tag → p.pkg ≠ s.pkg → p.got = none → p.use = .piece x 0 →
      x.acc.op = .load ty → x.wid = wid → wid ≠ 0 → x.reply = none → data.length = p.n → s.takeMessage 1 p.pkg = some u →
      exec (.peerMemoryResponse tag data) s =
        .next (({ u with peers := [] } : State).setIncoming wid (loadValue ty (ofBytes data))).settleOps) ∧
    ((∀ p ∈ s.peers, p.tag ≠ tag) → exec (.peerMemoryResponse tag data) s = .next s.settleOps)

/-- TLBINV drops translations, TRES resolves tickets, and the host and peers read and write memory. -/
def Obligations.InvalidationsAndHostAccesses : Prop :=
  Claim.InvalidationsAndTickets ∧ Claim.HostAndPeerAccesses

/-- R152 to R156, R160, R165, R169, R171, R177: a renewal restarts the stamp of a live line and marks a stale one; TEMP and GUAR are
written when GUAR lies from 500 to 4,000; an allocation whose use-by time has come expires, and a live one stays; results that the
larder's engines answer later come with their end, once the lines they wait for are written back; freed units are free once nothing in
flight uses them. -/
def Claim.LarderSteps : Prop :=
  ∀ (s : State) (core temp guar bid serial wid v asid : Nat) (b : Block) (a : Alloc) (ls : List (Nat × Nat)) (drop : List Nat),
    let visited (u : State) (no : Nat) : State :=
      let l := u.line no
      if u.isStale core no a then u.setLine no { l with stale := true }
      else if liveTag u.now a.tag && (a.stash.isNone || l.present) then u.setLine no { l with stamp := u.now % 2 ^ 16 } else u
    (s.blocks = [(bid, b)] → b.core = core → b.allocs = [a] →
      exec (.larderRenewal core) s = .next ((a.lines core).foldl (fun (u : State) q => visited u q.2) s).settleOps) ∧
    ((∀ p ∈ s.blocks, p.2.core ≠ core) → exec (.larderRenewal core) s = .next s.settleOps) ∧
    (500 ≤ guar → guar ≤ 4000 → exec (.lretUpdate core temp guar) s = .next
      ((s.updCore core fun c => { c with lret := BitVec.ofNat 32 (temp % 256 * 2 ^ 16 + guar) }).ageLarders s.now).settleOps) ∧
    (guar < 500 ∨ 4000 < guar → exec (.lretUpdate core temp guar) s = .next s.settleOps) ∧
    (s.blocks.look bid = some b → b.allocFrom a.base = some a →
      (liveTag s.now a.tag = true → exec (.allocationExpiry bid a.base) s = .next s.settleOps) ∧
      (liveTag s.now a.tag = false → a.expired = false →
        exec (.allocationExpiry bid a.base) s = .next (s.expireAlloc bid b a).settleOps)) ∧
    (s.lrenews.find? (fun p => p.serial = serial) = some ⟨serial, bid, wid, v, asid, ls, drop⟩ → exec (.lrenewComplete serial) s =
      .next ({ s.setIncoming wid v with lrenews := s.lrenews.filter fun p => p.serial ≠ serial } : State).settleOps) ∧
    (s.sflushes.find? (fun p => p.serial = serial) = some ⟨serial, bid, wid, v, asid, ls, drop⟩ →
      (∀ q ∈ ls, (s.line q.1).dirty = false ∧ ∀ x ∈ s.peers, x.use ≠ .writeBack q.1) →
      let t : State := drop.foldl State.dropLine s
      exec (.sflushComplete serial) s =
        .next ({ t.setIncoming wid v with sflushes := t.sflushes.filter fun p => p.serial ≠ serial } : State).settleOps) ∧
    (∀ f, s.freed.find? (fun f => f.serial = serial) = some f → f.stash = none → exec (.lfreeUnitsRelease serial) s = .next
      (if s.unitsFree f then ({ s with freed := s.freed.filter fun g => g.serial ≠ serial } : State) else s).settleOps)

/-- R160 and R161: a stash fetch brings the bytes at the line's global address, and the line is present, full and clean; a clean line
whose age reaches GUAR is made not present; a remote read leaves a line clean and present, and a remote write empties it and is applied;
a line that is of no stash stays. -/
def Claim.StashSteps : Prop :=
  ∀ (s t v : State) (core line bid ea ofs : Nat) (b : Block) (a : Alloc) (bytes : List Byte),
    let no := lineNo core line
    let va := a.global ea
    let l := s.line no
    (∀ ps, s.ownerOf core line = some (bid, b, a, ea) → l.fetching = true → a.stash.isSome = true →
      s.translate core b.asid .stash [(va, 0, 128)] = .all ps → (∀ p ∈ ps, s.spaceOf p.leaf < 2) → s.tryTouch ps = some t →
      let data := ps.flatMap fun p => bytesAt (if p.leaf.tier = 3 then t.hostMemory else t.memory) p.pa 128
      exec (.stashFetchComplete core line) s = .next ((((t.setLine no { t.line no with fetching := false }).putLarder (no * 128)
        data).setLine no ⟨t.now % 2 ^ 16, false, false, true, false, false⟩).fillLine bid no ea).settleOps) ∧
    (l.present = true → l.dirty = false → s.guar core ≤ s.ageOf l → exec (.stashLineAgeOut core line) s =
      .next (s.setLine no { l with present := false, full := false, dirty := false }).settleOps) ∧
    (l.present = false ∨ l.dirty = true ∨ s.ageOf l < s.guar core → exec (.stashLineAgeOut core line) s = .next s.settleOps) ∧
    (s.ownerOf core line = some (bid, b, a, ea) → a.stash.isSome = true → l.present = true →
      exec (.stashRemoteReadRecall core line) s = .next (s.flushLines bid b a [(ea, no)]).settleOps ∧
      (∀ x, s.stashLine no bid b.asid va = some x → ofs + bytes.length ≤ 128 → s.tryWriteBack x = some t →
        (t.dropLine no).tryStore .hub 0 (dieOf core) b.asid 0 (x.pa + ofs) x.leaf bytes (.written 0 x.va) = some v →
        exec (.stashRemoteWriteRecall core line ofs bytes) s = .next v.settleOps)) ∧
    (s.ownerOf core line = none → exec (.stashFetchComplete core line) s = .next s.settleOps ∧
      exec (.stashRemoteReadRecall core line) s = .next s.settleOps ∧
      exec (.stashRemoteWriteRecall core line ofs bytes) s = .next s.settleOps)

/-- The larder's own steps: renewals, temperature, expiry, answers, and the fetches of stash lines. -/
def Obligations.LarderAndStashSteps : Prop :=
  Claim.LarderSteps ∧ Claim.StashSteps

/-- R183, R237, R242, R243, R254, R304: a copy request moves elements and ends with its last; a piece of it that an engine counts moves that
many; a publish swap starts as the first of its set once the requests before it have ended, with BUSY set, CUR inverted and VERSION one
more, and completes, once nothing uses the old half any more, with BUSY clear and D the new version; a digest that meets an uncorrectable
error answers 2. Where nothing stands between, the entry's new words are in memory at once. -/
def Obligations.EngineSteps : Prop :=
  ∀ (s t : State) (serial n : Nat) (c : CopyReq) (w : Swap) (d : DigestReq) (p : Piece),
    (s.copies.find? (fun c => c.serial = serial) = some c → c.ticket = none → s.copySaved c = false → s.engineRuns c.asid = true →
      reqCplen c.req = false →
      ∀ m u, State.moveElems c n c.done s = (m, none, u) → u.copies = s.copies →
        let c' : CopyReq :=
          { c with done := c.done + m, got := if m = 0 then c.got else [], acked := if m = 0 then c.acked else [] }
        let moved : State := u.updCopy serial fun c =>
          { c with done := c.done + m, got := if m = 0 then c.got else [], acked := if m = 0 then c.acked else [] }
        exec (.engineByteCountPiece serial n) s =
          .next (if reqCount c.req ≤ c.done + m then moved.endCopy c' else moved).settleOps) ∧
    (s.copies.find? (fun c => c.serial = serial) = some c →
      exec (.copyRequestEnd serial) s = exec (.engineByteCountPiece serial (reqCount c.req - c.done)) s) ∧
    (s.copies.find? (fun c => c.serial = serial) = some c → c.ticket ≠ none → exec (.copyRequestEnd serial) s = .next s.settleOps) ∧
    (s.swaps.find? (fun w => w.serial = serial) = some w →
      (w.entry = none → s.psetPiece w.asid w.set = some p → s.swapReady w = true →
        let e := valueAt s.memory p.pa 16
        let version := (e / 2 ^ 64 + 1) % 2 ^ 64
        s.tryEntry w.asid p (version * 2 ^ 64 + (e % 2 ^ 64 - e % 4 + 2 + (1 - e % 2))) 16 = some t →
        exec (.publishSwapStart serial) s = .next ({ t with
          swaps := t.swaps.map fun x => if x.serial = serial then { x with entry := some p, version := version } else x } : State).settleOps) ∧
      (w.entry ≠ none ∨ s.swapReady w = false → exec (.publishSwapStart serial) s = .next s.settleOps) ∧
      (w.entry = none → exec (.publishSwapComplete serial) s = .next s.settleOps) ∧
      (w.entry = some p →
        let e := valueAt s.memory p.pa 8
        (s.oldInUse w (e % 2) = true → exec (.publishSwapComplete serial) s = .next s.settleOps) ∧
        (s.oldInUse w (e % 2) = false → s.tryEntry w.asid p (e - e / 2 % 2 * 2) 8 = some t →
          exec (.publishSwapComplete serial) s = .next (({ t with
            swaps := t.swaps.filter fun x => x.serial ≠ serial } : State).setIncoming w.wid (w.version % 2 ^ 32)).settleOps))) ∧
    (∀ asid v, Quiet s → s.spaceOf p.leaf = 0 → p.leaf.pdom = 0 →
      s.tryEntry asid p v n = some (s.performed p.pa (toBytes n v))) ∧
    (s.digests.find? (fun d => d.serial = serial) = some d → d.ticket = none → s.engineRuns d.asid = true →
      exec (.digestComplete serial true) s =
        .next (({ s with digests := s.digests.filter fun x => x.serial ≠ d.serial } : State).setIncoming d.wid 2).settleOps ∧
      (∀ bs u v, s.engineRead 192 d.asid d.halves d.got (wordPieces (d.len / 32 + 2) d.addr d.len) = .ok (bs, u) →
        u.digestWrite d (sm3 bs) = .ok v →
        exec (.digestComplete serial false) s =
          .next (({ v with digests := v.digests.filter fun x => x.serial ≠ d.serial } : State).setIncoming d.wid 1).settleOps))

/-- R289 to R292, R295, R305: a drain takes the oldest entry of a queue to the stacks, in the order of epochs and of each granule; a write
that waits is performed, and enters its queue, when there is room; PSTAT shows the energy reserve, with ARMED 0 before full service; a
pfence completes with 1 in D once every write held before it within its reach is in its queue, and pfence.pkg ends the epoch; RSTCTL
starts a restore, unless one is running, and its end gives the status and the first chunk that failed. -/
def Claim.PersistSteps : Prop :=
  ∀ (s : State) (die energy qcap drain serial value : Nat) (armed : Bool) (e : WbEntry) (rest : List WbEntry) (x : Pending) (q : Piece)
      (p : Pfence),
    let pst := s.regs.pstat.toNat
    let rst := s.regs.rstctl.toNat
    let on := if armed ∧ s.regs.bootstage.toNat % 16 = 3 then 2 ^ 63 else 0
    let energies := on + pst / 2 ^ 61 % 4 * 2 ^ 61 + min 4096 qcap * 2 ^ 32 + energy % 2 ^ 16 * 2 ^ 16 + min 40 drain
    let bs := toBytes q.n (x.acc.b / 2 ^ (8 * q.ofs))
    let restored (u : State) (status failed : Nat) : State := { u with regs := { u.regs with
      rstctl := BitVec.ofNat 64 (status % 8 * 2 ^ 60 + rst / 2 ^ 27 % 2 ^ 25 * 2 ^ 27 + failed % 2 ^ 16), restored := none } }
    (s.wbq die = e :: rest → s.mayDrain e = true → exec (.wbqDrainEntry die) s =
      .next ({ s with scm := putBytes s.scm e.pa e.bytes, wbqs := setAt s.wbqs die rest } : State).settleOps) ∧
    (s.wbq die = [] ∨ (s.wbq die = e :: rest ∧ s.mayDrain e = false) → exec (.wbqDrainEntry die) s = .next s.settleOps) ∧
    (Quiet s → s.ops = [x] → x.acc.op = .store → x.acc.release = false → x.pieces = [q] → x.wid = 0 → x.reply = none →
      s.spaceOf q.leaf = 0 → q.leaf.pdom ≠ 0 → queueDie x.core q.pa = die → s.armed = true →
      let room := (s.wbq die).length + (granulesOf q.pa q.n).length
      let u : State := { s with ops := [] }
      (room ≤ s.queueCap → exec (.wbqRoomWrite die) s = .next (u.enqueueWb die q.pa bs)) ∧
      (s.queueCap < room → exec (.wbqRoomWrite die) s = .next s.settleOps)) ∧
    (die < s.wbqs.length → 1 ≤ q.n → q.pa % 32 + q.n ≤ 32 →
      (s.enqueueWb die q.pa bs).wbq die = s.wbq die ++ [⟨s.serial, q.pa, bs, s.epoch⟩] ∧
      (s.enqueueWb die q.pa bs).memory = putBytes s.memory q.pa bs) ∧
    (exec (.energyReserveMeasure energy qcap drain armed) s =
      .next ({ s with regs := { s.regs with pstat := BitVec.ofNat 64 energies } } : State).settleOps) ∧
    ((s.pfences.find? fun p => p.serial = serial) = some p → exec (.pfenceComplete serial) s = .next
      (if s.pfenceDone p then ({ s with
        pfences := s.pfences.filter fun q => q.serial ≠ serial
        epoch := if p.pkg then s.epoch + 1 else s.epoch } : State).setIncoming p.wid 1 else s).settleOps) ∧
    (rst.testBit 63 = false →
      let w := 2 ^ 63 + 2 ^ 60 + value / 2 ^ 27 % 2 ^ 25 * 2 ^ 27
      exec (.rstctl value) s = .next ({ s with regs := { s.regs with rstctl := BitVec.ofNat 64 w } } : State).settleOps) ∧
    (rst.testBit 63 = true → exec (.rstctl value) s = .next s.settleOps) ∧
    (∀ status failed, rst.testBit 63 = true → s.regs.restored = some (status, failed) → s.opsOf .hub = [] →
      exec .restoreComplete s = .next (restored s status failed).settleOps) ∧
    (rst.testBit 63 = true → s.regs.restored = none →
      let (status, failed, u) := s.restoreRun (rst / 2 ^ 27 % 2 ^ 9) s.pkg (rst / 2 ^ 36 % 2 ^ 16)
      exec .restoreComplete s =
        .next ({ u with regs := { u.regs with restored := some (status, failed) } } : State).endRestore.settleOps) ∧
    (rst.testBit 63 = false → exec .restoreComplete s = .next s.settleOps)

/-- R297, R299 and R300: the end of the lag lets a capture read every chunk, and a write that waits for a chunk makes the engine read it; a
chunk that is read is captured; a stripe whose fragments are durable counts, a fragment that its store refuses fails the capture, and
with the last stripe STABLE is its step, in its slot; a fragment that a peer sends is held once in its slot for each stripe, and one
without a trailer discards the slot (log 61). -/
def Claim.CaptureSteps : Prop :=
  ∀ (s u : State) (asid region chunk stripe : Nat) (c : Capture) (pkg job step frag slot pa : Nat) (data trailer : List Byte),
    let e := s.regionEntry asid region
    let written := exec (.fragmentStoreWrite pkg job (2 * region + slot) step stripe frag data trailer) s
    let same (f : Fragment) : Bool := f.pkg = pkg && f.job = job && f.region = region && f.slot = slot
    s.captureOf asid region = some c →
    (exec (.chunkCaptureLagExpiry asid region) s = .next
      (if c.start + regLag e ≤ s.now then s.updCapture c fun c => { c with lagOver := true } else s).settleOps) ∧
    ((s.waitingWrites.find? fun pa => s.chunkOf c pa = some chunk) = some pa →
      exec (.chunkCaptureOnWrite asid region chunk) s = .next (s.noteWrite pa).settleOps) ∧
    ((∀ pa ∈ s.waitingWrites, s.chunkOf c pa ≠ some chunk) → exec (.chunkCaptureOnWrite asid region chunk) s = .next s.settleOps) ∧
    (c.lagOver = true ∨ chunk ∈ c.onWrite → chunk < regChunks e → (∀ p ∈ c.captured, p.1 ≠ chunk) →
      exec (.chunkCaptureComplete asid region chunk) s = .next (s.captureChunk c chunk).settleOps) ∧
    (c.lagOver = false → chunk ∉ c.onWrite → exec (.chunkCaptureComplete asid region chunk) s = .next s.settleOps) ∧
    (c.stripeDone stripe = true → stripe ∉ c.stripes →
      exec (.stripeFragmentsDurable asid region stripe false) s = .next (s.captureFail asid region).settleOps ∧
      (8 * (c.stripes.length + 1) < regChunks e → exec (.stripeFragmentsDurable asid region stripe true) s =
        .next (s.updCapture c fun c => { c with stripes := c.stripes ++ [stripe] }).settleOps) ∧
      (regChunks e ≤ 8 * (c.stripes.length + 1) →
        let v : State := { s with captures := s.captures.filter (fun d => !(d.asid = asid && d.region = region))
                                  stableSlots := s.stableSlots.put 0 (regionKey asid region) c.slot }
        exec (.stripeFragmentsDurable asid region stripe true) s = .next
          (((v.putRegion asid region 56 8 c.step).putRegion asid region 48 8 (2 ^ 64 - 1)).putErr asid region false).settleOps)) ∧
    (s.takeAny 5 = none → written = .next s.settleOps) ∧
    (slot < 2 → s.takeAny 5 = some u → trailer = [] →
      written = .next ({ u with fragments := u.fragments.filter fun f => !(same f) } : State).settleOps) ∧
    (slot < 2 → s.takeAny 5 = some u → trailer ≠ [] → ∃ t : State,
      exec (.fragmentStoreWrite pkg job (2 * region + slot) step stripe frag data trailer) s = .next t.settleOps ∧
      t.fragments.getLast? = some ⟨pkg, job, region, step, stripe, frag, slot, sparse data, trailer⟩ ∧
      (t.fragments.filter fun f => same f && f.stripe = stripe && f.frag = frag).length = 1 ∧ { t with fragments := u.fragments } = u)

/-- Queues drain, persist fences and restores complete, and captures read, send and end. -/
def Obligations.PersistAndCaptureSteps : Prop :=
  Claim.PersistSteps ∧ Claim.CaptureSteps

/-- R250, R251, R252, R347, R356: the packet at RIDX of the queue whose turn it is goes to the dispatcher and RIDX advances; a queue without such a
packet stays. A queue copy is accepted by the hub die's engine when it is the first packet of its type and there is room, and refused with
a report otherwise. A queue that has been stuck for 100 µs, a producer of it parked or a successor held, is reported once. -/
def Claim.QueueSteps : Prop :=
  ∀ (s : State) (asid queue serial : Nat) (d : QDesc) (p n : Nat) (x : Packet) (c : Context),
    (s.headPacket asid queue = none → exec (.queuePacketTake asid queue) s = .next s.settleOps) ∧
    (s.headPacket asid queue = some (d, p) → s.mayTake d.prio asid queue = false → exec (.queuePacketTake asid queue) s = .next s.settleOps) ∧
    (s.headPacket asid queue = some (d, p) → s.mayTake d.prio asid queue = true →
      let taken : State := { s with
        serial := s.serial + 1
        packets := s.packets ++ [⟨s.serial, asid, queue, d.prio, d.ridx, d.slot d.ridx, p, s.placedAt asid queue d.ridx⟩]
        placed := s.placed.filter fun y => !(y.asid = asid && y.queue = queue && y.index = d.ridx)
        lastServed := s.lastServed.ins d.prio (queue * 512 + asid) }
      let u := taken.ctxPut asid (d.at_ + 0x100) 8 (d.ridx + 1)
      exec (.queuePacketTake asid queue) s = .next ((u.moveSpills asid { d with ridx := d.ridx + 1 }).wakeQueue asid queue).settleOps) ∧
    ((s.packets.find? fun p => packetType p.data = 3) = some x → x.serial = serial → s.canReport x.asid = true →
      let u : State := { s with packets := s.packets.filter fun y => y.serial ≠ serial }
      (64 ≤ s.engineLoad 192 → exec (.queueCopy serial) s = .next s.settleOps) ∧
      (s.engineLoad 192 < 64 →
        (u.queueCopyBad x.asid x.data = none → exec (.queueCopy serial) s = .next (u.acceptCopy 192 x.asid 0 0 x.slot x.data).settleOps) ∧
        (∀ e, u.queueCopyBad x.asid x.data = some e → exec (.queueCopy serial) s =
          .next (u.report x.asid 0x24 (0x10 + e) (engineRecord 0 x.slot 0 192 (0x10 + e))).settleOps))) ∧
    (s.qdesc asid queue = some d → s.ctx? asid = some c → n = s.parkedOn asid queue →
      (queue ∈ c.deadlocked → exec (.queueDeadlockDetect asid queue) s = .next s.settleOps) ∧
      (∀ since, c.stalled.look queue = some since → s.ns < since + 100000 → exec (.queueDeadlockDetect asid queue) s = .next s.settleOps) ∧
      (∀ since e q, c.stalled.look queue = some since → since + 100000 ≤ s.ns → queue ∉ c.deadlocked → s.slotFor asid d d.widx = none →
        n ≠ 0 ∨ s.heldOn asid queue = true → s.headPacket asid queue = some (e, q) → s.couldStart asid q = false →
        s.allParked asid (s.coresFor q) = true → s.canReport asid = true →
        exec (.queueDeadlockDetect asid queue) s =
          .next ((s.updCtx asid fun c => { c with deadlocked := c.deadlocked ++ [queue] }).report asid 0x29 0
            (recordOf [(0, 8, d.widx), (8, 8, d.ridx), (16, 2, queue), (20, 4, n)])).settleOps))

/-- R337 to R343: a packet of a grid, a mask or a task that meets every condition becomes a launch with its blocks to do, of the header at its
address; one that breaks a condition is discarded with one report, and makes no launch; a step of another kind changes nothing. -/
def Claim.PacketsBecomeLaunches : Prop :=
  ∀ (s : State) (x : Packet),
    let p := x.data
    let gone : State := { s with packets := s.packets.filter fun y => y.serial ≠ x.serial }
    let v := s.ctxVal x.asid (pkHdr p) 64
    let hdr := headerOfBits (pkHdr p) v
    let kind : LaunchKind := if packetType p = 2 then .task else if pkMask p then .mask else .grid
    let l : Launch :=
      { asid := x.asid, queue := x.queue, prio := x.prio, slot := x.slot, index := x.index, kind := kind, packet := p
        hdr := { hdr with entry := if pkEntry p = 0 then hdr.entry else pkEntry p }
        template := x.template, todo := blocksOf p, cores := [], total := (blocksOf p).length, ended := 0, failed := 0
        fenceFault := false }
    let after : State := match s.packetBad p, headerBad v with
      | some e, _ => gone.packetFault x.asid e x.slot x.index x.queue (packetType p)
      | none, some e => gone.report x.asid 0x21 e (recordOf [(0, 8, pkHdr p), (8, 8, x.slot), (16, 2, x.queue), (18, 1, e)])
      | none, none =>
        if hdr.larder / 128 < pkEline p + pkEcnt p then gone.packetFault x.asid 3 x.slot x.index x.queue (packetType p)
        else { gone with serial := s.serial + 1, launches := s.launches.ins s.serial l }
    let grid := packetType p ≠ 2 ∧ packetType p ≠ 3 ∧ pkMask p = false
    (s.packets.find? fun y => y.serial = x.serial) = some x →
      (grid → s.canReport x.asid = true → exec (.launchPacketGrid x.serial) s = .next after.settleOps) ∧
      (pkMask p = true → s.canReport x.asid = true → exec (.launchPacketMask x.serial) s = .next after.settleOps) ∧
      (packetType p = 2 → s.canReport x.asid = true → exec (.taskRecord x.serial) s = .next after.settleOps) ∧
      (¬grid → exec (.launchPacketGrid x.serial) s = .next s.settleOps) ∧
      (pkMask p = false → exec (.launchPacketMask x.serial) s = .next s.settleOps) ∧
      (packetType p ≠ 2 → exec (.taskRecord x.serial) s = .next s.settleOps)

/-- Packets leave their queues in order and become launches or reports. -/
def Obligations.QueuesAndLaunches : Prop :=
  Claim.QueueSteps ∧ Claim.PacketsBecomeLaunches

/-- R48, R50, R55, R340 to R343: the blocks that the dispatcher places start on their cores and are no more to do: one block of a launch that
is not paired is on its core with all its threads alive and its groups waiting, and a launch of a grid knows where each stage has been; a
choice that the dispatcher may not make starts nothing. -/
def Claim.BlocksStart : Prop :=
  ∀ (s : State) (lid core linear stage : Nat) (cores : List Nat) (l : Launch), s.launches.look lid = some l →
    let known : State :=
      if l.kind = .grid then s.updLaunch lid fun l => { l with cores := l.cores.ins (8 * linear + stage) core } else s
    let st := if l.kind = .mask then 0 else stage
    (s.serves l.asid = false → exec (.blockStart lid cores) s = .next s.settleOps) ∧
    (s.placement lid l cores = none → exec (.blockStart lid cores) s = .next s.settleOps) ∧
    (s.serves l.asid = true → s.placement lid l [core] = some [((linear, stage), core)] →
      exec (.blockStart lid [core]) s = .next ((s.startBlock lid l core none linear st 0).updLaunch lid fun l =>
        { l with todo := l.todo.filter fun q => !([(linear, stage)].contains q) }).settleOps) ∧
    (l.hdr.larder = 0 → pkEcnt l.packet = 0 → l.hdr.dump = 0 →
      s.startBlock lid l core none linear stage 0 = { known with
        serial := s.serial + 1
        blocks := s.blocks.ins s.serial
          { asid := l.asid, launch := lid, core := core, handle := s.newHandle s.serial, linear := linear, stage := stage
            pre := l.preloads linear stage, succ := [], failed := false, threads := pkThreads l.packet, issued := 0
            alive := pkThreads l.packet, waiting := span 0 ((pkThreads l.packet + 31) / 32), allocs := [], pairing := none
            state := .running, byPre := false } }) ∧
    (∀ bid, s.newHandle bid < 2 ^ 32 ∧ (s.blocks.length + 2 < 2 ^ 32 → s.newHandle bid ≠ 0 ∧ ∀ b ∈ s.blocks, b.2.handle ≠ s.newHandle bid))

/-- R41, R42, R48, R55, R141, R142: a unit with a free slot and enough registers admits the launched group that has waited longest, or else the
next group of a block: its threads are in the slot's lanes with their registers, at the entry of their kernel or at their resume
address; with no slot, or nobody waiting, nothing changes. -/
def Claim.GroupsAdmitted : Prop :=
  ∀ (s : State) (core unit bid g w : Nat) (b : Block) (l : Launch) (rest : List Nat) (x : Launching) (more : List Launching),
    let u := 4 * core + unit
    ((s.core core).launching = [] → s.waitingBlock core = none → exec (.groupAdmission core unit) s = .next s.settleOps) ∧
    ((s.core core).launching = [] → s.waitingBlock core = some (bid, b) → s.launches.look b.launch = some l → b.waiting = w :: rest →
      (s.freeSlot u l.hdr.regs = none → exec (.groupAdmission core unit) s = .next s.settleOps) ∧
      (s.freeSlot u l.hdr.regs = some g → ∃ v : State, exec (.groupAdmission core unit) s = .next v.settleOps ∧
        v.groups.look g = some ⟨b.asid, l.hdr, s.serial, 0, false⟩ ∧
        (∀ i, i < min 32 (pkThreads l.packet - 32 * w) → v.thread? (threadNo g i) = some (startThread l b bid (32 * w + i))) ∧
        (∀ k, groupOf k ≠ g → v.thread? k = s.thread? k) ∧ v.memory = s.memory)) ∧
    ((s.core core).launching = x :: more →
      (s.freeSlot u x.hdr.regs = none → exec (.groupAdmission core unit) s = .next s.settleOps) ∧
      (s.freeSlot u x.hdr.regs = some g →
        let rs := x.rids.filterMap s.records.look
        let freed : State := { s.updCore core fun c => { c with launching := c.launching.drop 1 } with
          records := x.rids.foldl (fun m r => Map.del m r) s.records }
        let placed := freed.putGroup g x.asid x.hdr (rs.map fun r => (r.lane, threadOf r))
        exec (.groupAdmission core unit) s = .next ((rs.foldl (fun (v : State) r => v.parkAdmitted (threadNo g r.lane) placed.serial)
          { placed with serial := placed.serial + 1 }).settleCycle placed.serial).settleOps))

/-- Blocks start on the cores they are placed on, and units accept their groups. -/
def Obligations.BlocksAreStarted : Prop :=
  Claim.BlocksStart ∧ Claim.GroupsAdmitted

/-- R51, R345, R346: a block whose last thread has exited, with nothing of it in flight, retires; the dispatcher reads the template of a
successor that is due and decrements its counter, and the decrement that finds 1 enqueues its record; a launch that is done adds its
failures to FAILED and 1 to COUNT, once. Where nothing stands between, an add is in memory at once. -/
def Obligations.BlocksAndLaunchesEnd : Prop :=
  ∀ (s : State) (bid lid : Nat) (b : Block) (l : Launch) (x : Successor),
    (s.blocks.look bid = some b → exec (.blockRetire bid) s = .next (if s.finished bid b then s.retire bid b else s).settleOps) ∧
    (s.successors.find? s.successorMoves = none → exec .successorEnqueue s = .next s.settleOps) ∧
    (s.successors.find? s.successorMoves = some x → s.canReport x.asid = true →
      let made : Successor := { x with ready := true }
      let known (p : Nat) : State :=
        s.updSuccessor x.no fun x => { x with data := some p, ready := x.ready || decide (pkCntr p = 0) }
      (∀ p, x.data = some p → x.ready = true → exec .successorEnqueue s = .next (s.enqueueSuccessor x p).settleOps) ∧
      (∀ p, x.data = some p → x.ready = false →
        (x.old = some 1 → exec .successorEnqueue s = .next
          ((s.updSuccessor x.no fun x => { x with ready := true }).enqueueSuccessor made p).settleOps) ∧
        (∀ n, x.old = some n → 2 ≤ n → exec .successorEnqueue s = .next (s.dropSuccessor x.no).settleOps) ∧
        (x.old = some 0 → exec .successorEnqueue s = .next ((s.dropSuccessor x.no).report x.asid 0x2B 0
          (recordOf [(0, 8, x.template), (8, 8, pkCntr p), (16, 4, x.handle)])).settleOps)) ∧
      (∀ bs, x.data = none → s.engineRead 192 x.asid (s.currentHalves x.asid) x.got (wordPieces 4 x.template 64) = .ok (bs, s) →
        let p := ofBytes bs
        packetType p = 2 → s.packetBad p = none →
        (pkCntr p ≠ 0 → exec .successorEnqueue s = .next ((known p).countSuccessor x p).settleOps) ∧
        (pkCntr p = 0 → exec .successorEnqueue s = .next ((known p).enqueueSuccessor made p).settleOps))) ∧
    (s.launches.look lid = some l →
      (s.launchDone lid l = false ∨ s.tryMergeLaunch lid = none → exec (.launchCompletionSignal lid) s = .next s.settleOps) ∧
      (∀ u, s.launchDone lid l = true → s.tryMergeLaunch lid = some u →
        let a := pkCaddr l.packet
        let v : State := { u with launches := u.launches.del lid }
        let w := if l.failed = 0 then v else v.hubAdd l.asid (a + 8) l.failed
        exec (.launchCompletionSignal lid) s = .next (if a = 0 then v else w.hubAdd l.asid a 1).settleOps)) ∧
    (∀ asid va n leaf, Quiet s → s.ops = [] → s.poison = [] → s.hubLeaf asid va = some leaf → s.spaceOf leaf = 0 →
      leaf.pdom = 0 →
      let pa := leaf.pa va (s.leafHalf asid leaf)
      (s.hubAdd asid va n).memory = putBytes s.memory pa (toBytes 8 ((valueAt s.memory pa 8 + n) % 2 ^ 64)))

/-- R336: a write of CTXCTL with GO ends ACTIONs 1 and 3 to 7 at once, with the status of the action and BUSY 0; ACTION 2 is busy until the
context's blocks have left their cores; ACTIONs 0 and 7 end with STATUS 5. While BUSY is 1, and without GO, only the other fields are
stored (GO reads 1 as long as BUSY does, log 36). An ASID that is not live gives STATUS 3, and create on one that is gives STATUS 2. -/
def Claim.ContextControl : Prop :=
  ∀ (s : State) (value : Nat),
    let asid := value % 2 ^ 9
    let action := value / 2 ^ 56 % 8
    let old := s.regs.ctxctl.toNat
    let put (u : State) (status : Nat) (busy : Bool) : State :=
      let w := (if busy then 2 ^ 63 + 2 ^ 62 else 0) + status * 2 ^ 59 + action * 2 ^ 56 + asid
      { u with regs := { u.regs with ctxctl := BitVec.ofNat 64 w } }
    let runs : Prop := old.testBit 62 = false ∧ value.testBit 63 = true ∧ (s.stage = 2 ∨ s.stage = 3)
    let idle (i : Instr) : Prop :=
      (old.testBit 62 = true → exec i s = .next (put s (old / 2 ^ 59 % 8) true).settleOps) ∧
      (old.testBit 62 = false → (value.testBit 63 = false ∨ (s.stage ≠ 2 ∧ s.stage ≠ 3)) →
        exec i s = .next (put s (old / 2 ^ 59 % 8) false).settleOps)
    (action = 1 → idle (.ctxCreate value) ∧
      (runs → exec (.ctxCreate value) s = .next (put (s.create asid).2 (s.create asid).1 false).settleOps)) ∧
    (action = 2 → idle (.ctxPreemptAll value) ∧
      (runs → exec (.ctxPreemptAll value) s = .next (if s.ctx? asid = none then put s 3 false
        else (put (s.preemptAll asid).2 0 true).settlePre).settleOps)) ∧
    (action = 3 → idle (.ctxResume value) ∧
      (runs → exec (.ctxResume value) s = .next (put (s.resumeCtx asid).2 (s.resumeCtx asid).1 false).settleOps)) ∧
    (action = 4 → idle (.ctxKill value) ∧
      (runs → exec (.ctxKill value) s = .next (put (s.kill asid).2 (s.kill asid).1 false).settleOps)) ∧
    (action = 5 → idle (.ctxFreeze value) ∧
      (runs → exec (.ctxFreeze value) s = .next (put (s.freeze asid).2 (s.freeze asid).1 false).settleOps)) ∧
    (action = 6 → idle (.ctxThaw value) ∧
      (runs → exec (.ctxThaw value) s = .next (put (s.thaw asid).2 (s.thaw asid).1 false).settleOps)) ∧
    (action = 0 ∨ action = 7 → idle (.ctxReservedAction value) ∧
      (runs → exec (.ctxReservedAction value) s = .next (put s 5 false).settleOps)) ∧
    (s.ctx? asid = none → (s.preemptAll asid).1 = 3 ∧ (s.resumeCtx asid).1 = 3 ∧ (s.kill asid).1 = 3 ∧ (s.freeze asid).1 = 3 ∧
      (s.thaw asid).1 = 3) ∧
    (s.ctx? asid ≠ none → s.create asid = (2, s) ∧ (s.freeze asid).1 = 0 ∧ (s.thaw asid).1 = 0 ∧ (s.kill asid).1 = 0)

/-- R335 and R336: a context that is created has what its descriptor says and is neither frozen nor pre-empted; one that is killed is not live
any more, and neither are its blocks, launches, queued packets and tickets. -/
def Claim.ContextsCreatedAndKilled : Prop :=
  ∀ (s : State) (asid : Nat) (c : Context),
    (s.ctx? asid = none → descriptorBad (s.descriptor asid) = true → s.create asid = (1, s)) ∧
    ((s.create asid).1 = 0 → s.ctx? asid = none ∧ descriptorBad (s.descriptor asid) = false) ∧
    ((contextOf (s.descriptor asid)).frozen = false ∧ (contextOf (s.descriptor asid)).preempted = false) ∧
    (s.ctx? asid = some c → (s.contexts.Pairwise fun a b => a.1 < b.1) → s.blocks = [] → s.launches = [] → s.threads = [] →
      s.records = [] → s.captures = [] → s.partials = [] → s.freed = [] →
      (s.kill asid).2.ctx? asid = none ∧ (∀ x ∈ (s.kill asid).2.packets, x.asid ≠ asid) ∧
      (∀ x ∈ (s.kill asid).2.tickets, x.asid ≠ asid) ∧ (s.kill asid).2.memory = s.memory)

/-- CTXCTL creates, changes, freezes and kills contexts with the status of the action. -/
def Obligations.ContextControl : Prop :=
  Claim.ContextControl ∧ Claim.ContextsCreatedAndKilled

/-- R336, R348 to R351, R355: a write of PRECTL with GO pre-empts the blocks of its context on the dies it names and is busy until they have
left their cores; while BUSY is 1 only the fields are stored (GO reads 1 as long as BUSY does, log 36). What is done with a block is: completed when its threads have exited, drain, flush
or save by its kernel's fields, its context's thresholds and the room that there is. -/
def Claim.PreemptionControl : Prop :=
  ∀ (s : State) (v bid lid : Nat) (force : Bool) (b : Block) (l : Launch) (c : Context),
    let old := s.regs.prectl.toNat
    let kept := v / 2 ^ 61 % 2 * 2 ^ 61 + v / 2 ^ 52 % 16 * 2 ^ 52 + v % 2 ^ 9
    let ran := b.issued / max 1 b.threads
    let ended := b.alive = 0 ∧ b.waiting = []
    let h := l.hdr
    (old.testBit 62 = true → exec (.prectlGo v) s =
      .next { s with regs := { s.regs with prectl := BitVec.ofNat 64 (2 ^ 63 + 2 ^ 62 + kept) } }.settleOps) ∧
    (old.testBit 62 = false → v.testBit 63 = false →
      exec (.prectlGo v) s = .next { s with regs := { s.regs with prectl := BitVec.ofNat 64 kept } }.settleOps) ∧
    (old.testBit 62 = false → v.testBit 63 = true →
      let named := (s.blocks.filter fun b => b.2.asid = v % 2 ^ 9 && v.testBit (52 + dieOf b.2.core) && b.2.onCore).map Prod.fst
      let u : State :=
        { s with preempting := named, regs := { s.regs with prectl := BitVec.ofNat 64 (2 ^ 63 + 2 ^ 62 + kept), prestat := 0 } }
      exec (.prectlGo v) s = .next ((named.foldl (fun (u : State) x => u.preempt (v.testBit 61) false x) u).settlePre.settleOps)) ∧
    (ended → s.choose force bid b h c = .completed) ∧
    (¬ended → h.mayPre = false → s.choose force bid b h c = .drain) ∧
    (¬ended → h.mayPre = true → force = false → h.expect ≠ 0 → h.expect ≤ c.draint + ran → s.choose force bid b h c = .drain) ∧
    (¬ended → h.mayPre = true → (force = true ∨ h.expect = 0 ∨ c.draint + ran < h.expect) →
      (h.idem = true → ran ≤ c.flusht → s.choose force bid b h c = .flush) ∧
      (h.idem = false ∨ c.flusht < ran → s.choose force bid b h c = if s.saveRoom bid b then .save else .drain)) ∧
    (s.launches.look lid = some l →
      (s.unplaced lid l = false → exec (.dispatcherPreempt lid bid) s = .next s.settleOps) ∧
      (s.serves l.asid = true → s.unplaced lid l = true → s.victims l.prio = [(v, bid)] →
        exec (.dispatcherPreempt lid bid) s = .next (s.preempt false false bid).settleOps))

/-- R350, R352 to R354: a drained block that is late is saved when the save area has room, and drains on until it has; a block that is ready to
be saved enters its image; a saved block whose image is whole is resumed on a core that can take it, and one whose image is not is
reported; a flushed block starts again. -/
def Claim.BlocksSavedAndRestored : Prop :=
  ∀ (s w : State) (bid core since page : Nat) (b : Block) (c : Context) (l : Launch) (x : SavedBlock),
    s.blocks.look bid = some b → s.ctx? b.asid = some c → s.launches.look b.launch = some l →
    let ended := b.alive = 0 ∧ b.waiting = []
    let limit := if c.drainlim = 0 then 10000 else c.drainlim
    (b.state = .draining since → (l.hdr.mayPre = false ∨ s.now < since + limit ∨ ended) → 
      exec (.drainlimExpiry bid) s = .next s.settleOps) ∧
    (b.state = .draining since → l.hdr.mayPre = true → since + limit ≤ s.now → ¬ended →
      exec (.drainlimExpiry bid) s = .next
        (if s.saveRoom bid b then (s.countPre 32).startSave bid else s.updBlock bid fun b => { b with state := .late }).settleOps) ∧
    (b.state = .late → l.hdr.mayPre = true → ¬ended →
      exec (.deferredSave bid) s = .next (if s.saveRoom bid b then (s.countPre 32).startSave bid else s).settleOps) ∧
    (b.state ≠ .late → exec (.deferredSave bid) s = .next s.settleOps) ∧
    (s.saveReady bid b = false → exec (.blockSaveComplete bid) s = .next s.settleOps) ∧
    (s.saveReady bid b = true →
      let u := s.releaseStash bid
      (u.stashHeld bid = true → exec (.blockSaveComplete bid) s = .next u.settleOps) ∧
      (u.stashHeld bid = false → u.ctx? b.asid = some c → u.launches.look b.launch = some l → u.tryMergeLaunch b.launch = some w →
        let n := w.imagePages bid b (w.recordSizes bid)
        (c.freePages n = some page →
          exec (.blockSaveComplete bid) s = .next ((w.recordHeld bid).enterImage bid page n b c l).settleOps) ∧
        (c.freePages n = none → exec (.blockSaveComplete bid) s =
          .next ((w.updBlock bid fun b => { b with state := .late }).wake fun key y => y = bid && key = eventKey 0xB 0).settleOps))) ∧
    (s.saved.look bid = some x →
      (s.canRestore bid b l x core = false → exec (.blockRestore bid core) s = .next s.settleOps) ∧
      (s.serves b.asid = true → s.canRestore bid b l x core = true → s.canReport b.asid = true →
        let base := c.svbase + 4096 * x.page
        (∀ i, s.badPage b.asid base x = some (1, i) →
          exec (.blockRestore bid core) s = .next (s.restoreFails bid b.asid base b l 1 i).settleOps) ∧
        (∀ i leaf, s.badPage b.asid base x = some (2, i) → s.hubLeaf b.asid (base + 4096 * i) = some leaf →
          exec (.blockRestore bid core) s =
            .next ((s.logBad (leaf.pa (base + 4096 * i) 0) 4096).restoreFails bid b.asid base b l 2 i).settleOps) ∧
        (∀ u, s.badPage b.asid base x = none → s.resumeBlock bid core b l x = some u →
          exec (.blockRestore bid core) s = .next (u.freeImage bid b.asid x).settleOps))) ∧
    (b.state ≠ .flushed → l.kind ≠ .grid → exec (.flushedBlockRestart bid core) s = .next s.settleOps) ∧
    (b.state = .flushed → l.kind ≠ .grid → b.pairing = none → s.serves b.asid = true → s.restartOk b l core = true →
      exec (.flushedBlockRestart bid core) s =
        .next (({ s with blocks := s.blocks.del bid } : State).startBlock b.launch l core none b.linear b.stage 0).settleOps)

/-- R368 and R369: when the same thread of both copies is at a check point with equal signatures and program counters, the writes that the first
held are performed, the signatures restart, and both threads go on; a difference discards both copies. -/
def Claim.PairedCheckPoints : Prop :=
  ∀ (s : State) (first second lin k k2 : Nat) (b b2 : Block) (p p2 : Pairing) (t t2 : Thread),
    s.blocks.look first = some b → s.blocks.look second = some b2 → b.pairing = some p → b2.pairing = some p2 → p.first = true →
    p.other = second → s.threadIn first lin = some (k, t) → s.threadIn second lin = some (k2, t2) →
    let clear (u : State) (bid : Nat) : State := u.updBlock bid fun b =>
      { b with pairing := b.pairing.map fun p => { p with signature := 0, held := [] } }
    let go (u : State) (k : Nat) : State := u.updThread k fun t => { t with hold := .none, passed := true }
    (t.hold ≠ .checkPoint ∨ t2.hold ≠ .checkPoint → exec (.pairedCheckPoint first lin) s = .next s.settleOps) ∧
    (t.hold = .checkPoint → t2.hold = .checkPoint →
      (p.signature ≠ p2.signature ∨ t.pc ≠ t2.pc → 
        exec (.pairedCheckPoint first lin) s = .next (s.mismatch first second b p).settleOps) ∧
      (p.signature = p2.signature → t.pc = t2.pc →
        let v := p.held.foldl State.accept (clear (clear s first) second)
        exec (.pairedCheckPoint first lin) s = .next (if v.atAtom k t then go v k else go (go v k) k2).settleOps))

/-- R368: a thread of a paired block that comes to a check point waits there, and its instruction has no effect yet; a plain store or
reduction of such a thread changes no memory: it is held with its block, whose store signature takes it in. -/
def Claim.PairedThreadsHold : Prop :=
  ∀ (s : State) (k : Nat) (t : Thread) (h : Head) (i : Instr) (p : Pairing),
    Alone s k t → i.head = some h → s.gate i k t h = .on → t.passed = false → s.pairingOf k = some p → FreshCycle s →
    (i ∈ [Instr.exit h, .fence h, .pfenceDie h, .pfencePkg h, .steptag h] ∨ (∃ ofs n, i = .copy h ofs n ∨ i = .enq h ofs n) ∨
        (∃ n, i = .collRun h n ∨ i = .publish h n) → isCheckPoint i = true →
      exec i s = .next (s.setThread k { t with hold := .checkPoint })) ∧
    (∀ (m : ModM) (rop : RedOp) (ps : List Piece) (op : GOp),
      (i = .stg h m ∧ op = .store ∨ i = .red h m rop ∧ op = .red rop h.ty) → m.ord = .plain ∨ m.ord = .acquire →
      let asid := s.asidOf k
      let core := coreOf k
      let va := ((t.rd h.a 64 + m.ofs) % 2 ^ 64).toNat
      let n := tyBytes h.ty
      let g : GAccess := ⟨op, va, n, t.rdB h.b h.ty.regWidth, 0, false, false, m.tid⟩
      let x : Pending :=
        { no := s.serial, who := .thread t.bid t.lin, core := core, asid := asid, launch := s.launchOf k, wid := 0, acc := g
          pieces := ps, reply := none, cycle := (s.issuing.map Issue.cycle).getD 0 }
      let sent : State := ({ sentOff i h s k t with serial := s.serial + 1 } : State).takeMiss core asid x.cycle s.serial g
      let held : State := (sent.holdWrite p x).freeMiss s.serial
      va + n ≤ 2 ^ 52 → (op ≠ .store → va % n = 0) → s.tlbHas core asid (piecesOf va n) = true →
      s.translate core asid g.kind (piecesOf va n) = .all ps → straddles ps = false →
      (s.misses.filter fun e => e.core = core) = [] →
      exec i s = .next held ∧ held.memory = s.memory)

/-- PRECTL pre-empts blocks, which are drained, flushed or saved and resumed; pairs meet at check points. -/
def Obligations.Preemption : Prop :=
  Claim.PreemptionControl ∧ Claim.BlocksSavedAndRestored ∧ Claim.PairedCheckPoints ∧ Claim.PairedThreadsHold

/-- R308, R311, R312: an image whose CRC-64 is wrong is answered for every class that has flits outstanding, and is no flit; a payload flit
that is the next of its class is accepted once; one without room is answered as busy, one out of sequence asks for resending, one accepted
before has no effect. An ACK frees what it covers; a negative acknowledgement counts, and resends or waits by its reason; an ACK that nothing
has carried goes alone after 100 ns, and after 100 ns of a busy refusal or 1 µs without an ACK the class is sent again. -/
def Claim.PortFlits : Prop :=
  ∀ (s : State) (port cls : Nat) (image : List Byte) (f : Flit) (asked : List Nat),
    let h := s.updPort port fun p => { p with heard := p.heard.map fun _ => s.ns }
    let k := (h.port port).cls f.cls
    let d := (f.seq + 2 ^ 20 - k.accepted) % 2 ^ 20
    let covers := ((f.ack + 2 ^ 20 - k.acked) % 2 ^ 20)
    let freed : State := h.updPort port fun p =>
      { p.updCls f.cls (fun k => { k with acked := f.ack, replay := k.replay.drop covers, since := s.ns }) with moved := s.ns }
    let counted : State := h.updPort port fun p => { p with naks := min 0xFFFF (p.naks + 1) }
    let plain (kind reason cls : Nat) : Flit :=
      { seq := 0, ack := 0, kind := kind, nreason := reason, cls := cls, plen := 0, dpkg := 0, spkg := s.pkg, first := true, last := true, mtag := 0
        payload := [] }
    let passed (since : Option Nat) (limit : Nat) : Prop := ∃ a, since = some a ∧ a + limit ≤ s.ns
    (openFlit image = none →
      (∀ room, exec (.payloadFlit port image asked room) s =
        .next ((asked.filter fun c => c < 6).foldl (fun (u : State) c => u.nak port c 0) s).settleOps) ∧
      (∀ i ∈ [Instr.acknowledgementFlit port image, .negativeAcknowledgement port image, .retrainMarker port image],
        exec i s = .next s.settleOps)) ∧
    (openFlit image = some f →
      (f.kind ≠ 0 ∨ 6 ≤ f.cls → ∀ room, exec (.payloadFlit port image asked room) s = .next h.settleOps) ∧
      (f.kind = 0 → f.cls < 6 →
        (d = 1 → exec (.payloadFlit port image asked false) s = .next (h.emit port (plain 2 1 f.cls)).settleOps) ∧
        (∀ room, d = 0 ∨ 2 ^ 19 ≤ d → exec (.payloadFlit port image asked room) s = .next h.settleOps) ∧
        (∀ room, 2 ≤ d → d < 2 ^ 19 → exec (.payloadFlit port image asked room) s = .next (h.emit port (plain 2 0 f.cls)).settleOps) ∧
        (d = 1 → h.deliver f = none → exec (.payloadFlit port image asked true) s = .next (h.emit port (plain 2 1 f.cls)).settleOps) ∧
        (∀ u, d = 1 → h.deliver f = some u → exec (.payloadFlit port image asked true) s =
          .next ((u.updPort port fun p => p.updCls f.cls fun k =>
            { k with accepted := f.seq, ackDue := some (k.ackDue.getD u.ns) }).takeAck port f).settleOps)) ∧
      (f.kind = 1 → f.cls < 6 →
        (covers = 0 ∨ k.replay.length < covers → exec (.acknowledgementFlit port image) s = .next h.settleOps) ∧
        (1 ≤ covers → covers ≤ k.replay.length → exec (.acknowledgementFlit port image) s = .next (freed.pumpAll port).settleOps)) ∧
      (f.kind = 2 → f.cls < 6 →
        (f.nreason = 0 → exec (.negativeAcknowledgement port image) s = .next ((counted.takeAck port f).resend port f.cls).settleOps) ∧
        (f.nreason = 1 →
          let u := counted.takeAck port f
          exec (.negativeAcknowledgement port image) s = .next (u.updPort port fun p =>
            { p.updCls f.cls (fun k => { k with busy := some u.ns }) with moved := u.ns }).settleOps)) ∧
      (f.kind = 3 → f.cls < 6 →
        (f.payload = [] → exec (.retrainMarker port image) s = .next (h.updPort port fun p => { p with retraining := !p.failed }).settleOps) ∧
        (∀ b rest, f.payload = b :: rest → exec (.retrainMarker port image) s =
          .next (h.updPort port fun p => { p with retraining := !p.failed, mode := b.toNat % 4 }).settleOps))) ∧
    (let ack := ((s.port port).cls cls).ackDue;
      (passed ack 100 → exec (.ackOnlyTimeout port cls) s = .next (s.emit port (plain 1 0 cls)).settleOps) ∧
      (¬passed ack 100 → exec (.ackOnlyTimeout port cls) s = .next s.settleOps)) ∧
    (let busy := ((s.port port).cls cls).busy;
      (passed busy 100 → exec (.busyResend port cls) s = .next (s.resend port cls).settleOps) ∧
      (¬passed busy 100 → exec (.busyResend port cls) s = .next s.settleOps)) ∧
    (let since := ((s.port port).cls cls).since;
      (since + 1000 ≤ s.ns → exec (.replayTimeout port cls) s = .next (s.resend port cls).settleOps) ∧
      (s.ns < since + 1000 → exec (.replayTimeout port cls) s = .next s.settleOps)) ∧
    (((s.port port).cls cls).replay = [] → s.resend port cls = s)

/-- R311, R313: a port that loses a lane it uses retrains to the half that is whole, and is down when neither is; retraining sends again
every flit that is not acknowledged. A margin measurement starts with GO, unless one is running, and ends with what was counted at the lane
it was started with, or with DOWN for a lane that is not trained or whose port is down. (That GO reads 1 as long as BUSY does is the model's
choice: log 36.) -/
def Claim.PortLanesAndMargins : Prop :=
  ∀ (s : State) (port lane value errs bits : Nat),
    let p := s.port port
    let good := p.good - 2 ^ lane
    let whole (half : Nat) : Prop := good / 2 ^ (8 * half) % 2 ^ 8 = 0xFF
    let v := s.regs.tlmctl.toNat
    let m := s.regs.margin
    let fields (v : Nat) : Nat := v / 2 ^ 59 % 8 * 2 ^ 59 + v / 2 ^ 32 % 2 ^ 23 * 2 ^ 32 + v / 2 ^ 4 % 2 ^ 8 * 2 ^ 4
    let put (c : Nat) : State := { s with regs := { s.regs with tlmctl := BitVec.ofNat 64 c } }
    (16 ≤ lane ∨ p.good.testBit lane = false → exec (.laneFailure port lane) s = .next s.settleOps) ∧
    (lane < 16 → p.good.testBit lane = true →
      (¬whole 0 → ¬whole 1 → exec (.laneFailure port lane) s =
        .next (s.updPort port fun p => { p with good := good, width := 0, retraining := false }).settleOps) ∧
      (whole 0 ∨ whole 1 → exec (.laneFailure port lane) s =
        .next (s.updPort port fun q => { q with good := good, retraining := q.retraining || q.uses lane }).settleOps)) ∧
    (p.failed = true → exec (.retrainComplete port) s = .next s.settleOps) ∧
    (p.failed = false → p.retraining = true → p.good ≠ 0 → exec (.retrainComplete port) s =
      .next (((span 0 6).foldl (fun (u : State) c => u.resend port c) (s.updPort port fun q =>
        { q with good := p.good, width := q.trained p.good, retraining := false, heard := some (q.heard.getD s.ns)
                 retrain := if q.good = 0 then q.retrain else min 255 (q.retrain + 1) })).pumpAll port).settleOps) ∧
    (value.testBit 63 = true → v.testBit 62 = false →
      let t := put (2 ^ 63 + 2 ^ 62 + fields value)
      exec (.tlmctlGo value) s = .next ({ t with regs := { t.regs with margin := value } } : State).settleOps) ∧
    (value.testBit 63 = true → v.testBit 62 = true →
      exec (.tlmctlGo value) s = .next (put (2 ^ 63 + 2 ^ 62 + fields value)).settleOps) ∧
    (value.testBit 63 = false → exec (.tlmctlGo value) s = .next s.settleOps) ∧
    (v.testBit 62 = true →
      let q := s.port (m / 2 ^ 8 % 16)
      let counts := 2 ^ 63 + (if 65535 ≤ errs then 2 ^ 62 else 0) + min 0xFFFF errs * 2 ^ 32 + bits % 2 ^ 32
      let ends (r : Nat) : State := { put (fields v) with regs := { (put (fields v)).regs with tlmres := BitVec.ofNat 64 r } }
      (q.width ≠ 0 → q.good.testBit (m / 2 ^ 4 % 16) = true →
        exec (.marginMeasurementComplete errs bits) s = .next (ends counts).settleOps) ∧
      (q.width = 0 ∨ q.good.testBit (m / 2 ^ 4 % 16) = false →
        exec (.marginMeasurementComplete errs bits) s = .next (ends (2 ^ 63 + 2 ^ 61)).settleOps)) ∧
    (v.testBit 62 = false → exec (.marginMeasurementComplete errs bits) s = .next s.settleOps)

/-- Ports accept each flit once and in order, resend, retrain and measure margins. -/
def Obligations.PortsAndFlits : Prop :=
  Claim.PortFlits ∧ Claim.PortLanesAndMargins

/-- R317, R319 to R324, R328: a notice takes its place in the table, which holds 65,536; a SEND that is cleared transmits; a contribution of the
length of its RECV is taken once from its sender, and one of another length fails the run; the members' result completes a reduction, and
disagreement fails it; a graph whose image is read is loaded, and D says so. What names nothing that waits changes nothing, and each message
is taken in with its step (log 19). -/
def Claim.CollectiveSteps : Prop :=
  ∀ (s u : State) (asid graph run node pkg len rop serial : Nat) (dt : Ty) (data : List Byte) (r : Run) (c : CollLoad),
    let n := u.nodeOf r node
    (65536 ≤ s.notices.length → exec (.sendNotice asid graph node pkg run len dt rop) s = .next s.settleOps) ∧
    (s.notices.length < 65536 →
      (s.takeMessage 2 pkg = none → exec (.sendNotice asid graph node pkg run len dt rop) s = .next s.settleOps) ∧
      (s.takeMessage 2 pkg = some u →
        (u.ctx? asid = none → exec (.sendNotice asid graph node pkg run len dt rop) s = .next u.settleOps) ∧
        (u.ctx? asid ≠ none →
          let v := ({ u with notices := u.notices ++ [⟨asid, graph, node, pkg, run, len, dt, rop⟩] } : State).answerEnded asid graph
          ((v.runsOf asid graph).find? (fun r => r.number = run) = none →
            exec (.sendNotice asid graph node pkg run len dt rop) s = .next v.settleOps) ∧
          (∀ q, (v.runsOf asid graph).find? (fun r => r.number = run) = some q →
            exec (.sendNotice asid graph node pkg run len dt rop) s = .next (v.answerNotices q.serial).startRuns.settleOps)))) ∧
    (s.takeAny 2 = none → exec (.clearToSend asid graph run node) s = .next s.settleOps) ∧
    (s.takeAny 2 = some u →
      (u.activeRun asid graph run = none → exec (.clearToSend asid graph run node) s = .next u.settleOps) ∧
      (u.activeRun asid graph run = some r →
        (nodeOp n = 2 → r.phase.look node = some 0 → exec (.clearToSend asid graph run node) s =
          .next ((u.updRun r.serial fun r => { r with phase := r.phase.ins node 1 }).nodeStep r.serial node).startRuns.settleOps) ∧
        (nodeOp n ≠ 2 → exec (.clearToSend asid graph run node) s = .next u.settleOps))) ∧
    (s.takeMessage 2 pkg = none → exec (.collectiveData asid graph run node pkg data) s = .next s.settleOps) ∧
    (s.takeMessage 2 pkg = some u →
      (u.activeRun asid graph run = none → exec (.collectiveData asid graph run node pkg data) s = .next u.settleOps) ∧
      (u.activeRun asid graph run = some r →
        (nodeOp n = 2 → data = [] → (r.phase.look node).isSome → r.doneNodes.contains node = false →
          exec (.collectiveData asid graph run node pkg data) s = .next (u.failRun r.serial node 0x03 pkg 0).startRuns.settleOps) ∧
        (nodeOp n = 3 → (node, pkg) ∈ r.senders → data.length = nodeLen n →
          exec (.collectiveData asid graph run node pkg data) s = .next ((u.updRun r.serial fun r =>
            { r with pend := r.pend ++ [(node, data)], senders := r.senders.erase (node, pkg) }).nodeStep r.serial node).startRuns.settleOps) ∧
        (nodeOp n = 3 → (node, pkg) ∈ r.senders → data.length ≠ nodeLen n →
          exec (.collectiveData asid graph run node pkg data) s = .next (u.failRun r.serial node 0x03 pkg 0).startRuns.settleOps) ∧
        (nodeOp n = 3 → (node, pkg) ∉ r.senders →
          exec (.collectiveData asid graph run node pkg data) s = .next u.settleOps))) ∧
    (exec (.collectiveNodeComplete serial node) s = .next (s.startRuns.nodeStep serial node).startRuns.settleOps) ∧
    (s.takeAny 2 = none → ∀ ok, exec (.switchReductionResult serial node ok data) s = .next s.settleOps) ∧
    (s.takeAny 2 = some u →
      (u.run? serial = none → ∀ ok, exec (.switchReductionResult serial node ok data) s = .next u.settleOps) ∧
      (u.run? serial = some r → nodeOp n = 4 → r.ending = none →
        let phase := r.phase.lookD node 0
        let count := nodeLen n / tyBytes (nodeDt n)
        let want := if isWindowed n = false then nodeLen n else if phase = 1 then 4 * count else 8 * count
        phase = 1 ∨ phase = 2 →
        exec (.switchReductionResult serial node false data) s = .next (u.failRun serial node 0x03 u.pkg 0).startRuns.settleOps ∧
        (data.length = want → isWindowed n = true → phase = 1 →
          exec (.switchReductionResult serial node true data) s = .next (u.passTwo r node n data).settleOps) ∧
        (data.length = want → isWindowed n = false ∨ phase = 2 →
          exec (.switchReductionResult serial node true data) s = .next (u.sredResult r node n data).startRuns.settleOps))) ∧
    (s.collLoads.find? (fun c => c.serial = serial) = none → exec (.collLoadComplete serial) s = .next s.settleOps) ∧
    (s.collLoads.find? (fun c => c.serial = serial) = some c →
      (c.ticket ≠ none ∨ s.engineRuns c.asid = false → exec (.collLoadComplete serial) s = .next s.settleOps) ∧
      (∀ bs v, c.ticket = none → s.engineRuns c.asid = true →
        s.engineRead 192 c.asid c.halves c.got (wordPieces (c.n + 1) c.addr (32 * c.n)) = .ok (bs, v) →
        let (d, w) := v.loadGraph c (elems 32 bs)
        exec (.collLoadComplete serial) s =
          .next (({ w with collLoads := w.collLoads.filter fun x => x.serial ≠ serial } : State).setIncoming c.wid d).settleOps))

/-- R332 to R334: at the home agent a descriptor joins the held ones of its group, or is refused; an operation starts when a descriptor of
every rank is held, and ends for every member, with a failure or with its records placed. (That a step takes in the message it answers is the
model's choice: log 19.) -/
def Claim.RepartitionSteps : Prop :=
  ∀ (s : State) (asid grp pkg handle d serial : Nat) (c : Context), s.ctx? asid = some c →
    let g := s.repartGroup asid grp
    (pkg ≠ s.pkg → s.isHome asid = true →
      (s.takeControl (some pkg) = none → exec (.repartDescriptorArrival asid pkg handle d serial) s = .next s.settleOps) ∧
      (∀ u, s.takeControl (some pkg) = some u → u.pkg = s.pkg → u.ctx? asid = some c → u.isHome asid = true → repartTrap d = none →
        let joined := u.repartGroup asid (rdGrp d)
        (State.repartRefused joined d = true → exec (.repartDescriptorArrival asid pkg handle d serial) s =
          .next (u.send (.repart asid pkg handle 0 serial)).settleOps) ∧
        (State.repartRefused joined d = false → exec (.repartDescriptorArrival asid pkg handle d serial) s =
          .next ((u.setRepartGroup asid (rdGrp d) { joined with
            accepted := joined.accepted + 1, held := joined.held ++ [⟨pkg, handle, serial, d⟩] }).send (.repart asid pkg handle d serial)).settleOps))) ∧
    (pkg = s.pkg → s.isHome asid = true →
      ∀ r, s.repartIssues.find? (fun r => r.serial = serial && r.asid = asid && !r.accepted) = some r →
        let joined := s.repartGroup asid (rdGrp r.descriptor)
        (State.repartRefused joined r.descriptor = true → exec (.repartDescriptorArrival asid pkg handle d serial) s =
          .next (s.closeIssue serial 2).settleOps) ∧
        (State.repartRefused joined r.descriptor = false → exec (.repartDescriptorArrival asid pkg handle d serial) s =
          .next ((s.setRepartGroup asid (rdGrp r.descriptor) { joined with
            accepted := joined.accepted + 1, held := joined.held ++ [⟨pkg, handle, serial, r.descriptor⟩] }).updIssue serial
              fun r => { r with accepted := true }).settleOps)) ∧
    (pkg = s.pkg → s.isHome asid = false → ∀ u, s.takeControl (some (s.homeOf asid)) = some u → u.pkg = s.pkg → u.ctx? asid = some c →
      u.isHome asid = false → ∀ r, u.repartIssues.find? (fun r => r.serial = serial && r.asid = asid && !r.accepted) = some r →
      exec (.repartDescriptorArrival asid pkg handle d serial) s =
        .next (if d = 0 then u.closeIssue serial 2 else u.updIssue serial fun r => { r with accepted := true }).settleOps) ∧
    (g.running ≠ [] → exec (.repartOperationStart asid grp) s = .next s.settleOps) ∧
    (g.running = [] → s.isHome asid = true →
      (g.held = [] → exec (.repartOperationStart asid grp) s = .next s.settleOps) ∧
      (∀ m rest, g.held = m :: rest →
        (g.held.length < rdG m.descriptor → exec (.repartOperationStart asid grp) s = .next s.settleOps) ∧
        (rdG m.descriptor ≤ g.held.length → (∀ x ∈ g.held, x.pkg = s.pkg) →
          exec (.repartOperationStart asid grp) s = .next (s.startRepart asid grp { g with held := [], running := g.held }).settleOps))) ∧
    (s.takeControl none = none → exec (.repartOperationEnd asid grp true) s = .next (s.moveEnding asid grp).settleOps) ∧
    (∀ u, s.takeControl none = some u →
      exec (.repartOperationEnd asid grp true) s = .next ((u.failRepart asid grp).moveEnding asid grp).settleOps) ∧
    (g.running = [] → exec (.repartOperationEnd asid grp false) s = .next (s.moveEnding asid grp).settleOps) ∧
    (g.running ≠ [] → exec (.repartOperationEnd asid grp false) s = .next ((s.finishRepart asid grp g).moveEnding asid grp).settleOps)

/-- R311, R378: a member of the domain is named failed once, with its level: by a port that was silent for 20 µs, a port of a switch group that
carried nothing for 200 µs, a request that waited for 2 ms in which nothing was answered, or a notice. It is entered in FAILLOG, and what is in
flight to it, runs, captures, memberships and repartitions with it end. A package that is no member, this one, or one named before, changes
nothing. -/
def Claim.MembersFail : Prop :=
  ∀ (s : State) (port pkg : Nat),
    let named (u : State) : Prop := pkg ≠ u.pkg ∧ u.domain.contains pkg = true ∧ u.failed.contains pkg = false
    let entry (level port : Nat) := 2 ^ 63 + level * 2 ^ 61 + pkg * 2 ^ 51 + port * 2 ^ 47 + s.now % 2 ^ 40
    let logged (u : State) (level port : Nat) : State := { u with failed := u.failed ++ [pkg], faillog := pushLog u.faillog (entry level port) }
    let ends (u : State) : State := ((((u.dropPeers pkg).failRuns pkg).failCaptures pkg).failMembers pkg).failReparts pkg
    let passed (since : Option Nat) (limit : Nat) : Prop := ∃ a, since = some a ∧ a + limit ≤ s.ns
    let group := (s.port (Config.portOf pkg % 16)).heard
    let waits := s.answered.lookD pkg 0 + 2000000 ≤ s.ns ∧ ∃ p ∈ s.peers, p.pkg = pkg ∧ p.got = none ∧ p.sent + 2000000 ≤ s.ns
    let down : State := s.updPort port fun p => { p with failed := true, retraining := false }
    (¬named s ∨ ¬passed group 200000 → exec (.switchGroupTimeout pkg) s = .next s.settleOps) ∧
    (named s → passed group 200000 → exec (.switchGroupTimeout pkg) s = .next (ends ((logged s 1 0).send (.failed pkg))).settleOps) ∧
    (¬named s ∨ ¬waits → exec (.domainTimeout pkg) s = .next s.settleOps) ∧
    (named s → waits → exec (.domainTimeout pkg) s = .next (ends ((logged s 2 0).send (.failed pkg))).settleOps) ∧
    (s.takeAny 5 = none → exec (.failureNotice pkg) s = .next s.settleOps) ∧
    (∀ u, s.takeAny 5 = some u → u.now = s.now →
      (named u → exec (.failureNotice pkg) s = .next (ends (logged u 3 0)).settleOps) ∧
      (¬named u → exec (.failureNotice pkg) s = .next u.settleOps)) ∧
    ((s.port port).failed = true ∨ s.silent port = false → exec (.portSilent port pkg) s = .next s.settleOps) ∧
    ((s.port port).failed = false → s.silent port = true →
      (named s → exec (.portSilent port pkg) s = .next (ends ((logged down 0 port).send (.failed pkg))).settleOps) ∧
      (¬named s → exec (.portSilent port pkg) s = .next down.settleOps)) ∧
    (s.silent port = true ↔ passed (s.port port).heard 20000 ∨
      ((s.port port).heard ≠ none ∧ (s.port port).outstanding = true ∧ (s.port port).moved + 20000 ≤ s.ns))

/-- Collective graphs, repartitions and failures of members proceed as specified. -/
def Obligations.CollectivesAndFailures : Prop :=
  Claim.CollectiveSteps ∧ Claim.RepartitionSteps ∧ Claim.MembersFail
end

