-- ==== Sys2Proof/Laws/Flits.lean ====
section
/-! SUPPORT. Bytes, the CRC-64 of R307, and the image of a flit: what is sent is what is read. -/

namespace Sys2Proof.Machine

theorem length_toBytes (n v : Nat) : (toBytes n v).length = n := by
  induction n generalizing v with
  | zero => rfl
  | succ n ih => simp [toBytes, ih]

theorem ofBytes_toBytes (n v : Nat) : ofBytes (toBytes n v) = v % 256 ^ n := by
  induction n generalizing v with
  | zero => simp [toBytes, ofBytes, Nat.mod_one]
  | succ n ih => simp [toBytes, ofBytes, ih, Nat.pow_succ', Nat.mod_mul]

theorem crcShift_lt {r : Nat} (n : Nat) (h : r < 2 ^ 64) : crcShift n r < 2 ^ 64 := by
  induction n generalizing r with
  | zero => exact h
  | succ n ih =>
    apply ih
    have hx : r * 2 % 2 ^ 64 < 2 ^ 64 := Nat.mod_lt _ (by decide)
    split
    · exact Nat.xor_lt_two_pow hx (by decide)
    · exact hx

/-- The CRC is a 64-bit value. -/
theorem crc64_lt {r : Nat} (bs : List Byte) (h : r < 2 ^ 64) : crc64 r bs < 2 ^ 64 := by
  induction bs generalizing r with
  | nil => exact h
  | cons b bs ih =>
    have hb : b.toNat * 2 ^ 56 < 2 ^ 64 := by have := b.isLt; omega
    exact ih (crcShift_lt 8 (Nat.xor_lt_two_pow h hb))

/-- The fields of a flit fit their places in the header (R307). -/
abbrev flitFits (f : Flit) : Prop :=
  f.seq < 2 ^ 20 ∧ f.ack < 2 ^ 20 ∧ f.kind < 4 ∧ f.nreason < 4 ∧ f.cls < 16 ∧ f.dpkg < 2 ^ 10 ∧ f.spkg < 2 ^ 10 ∧ f.mtag < 2 ^ 18 ∧
    f.plen = f.payload.length ∧ f.payload.length ≤ 224

theorem length_flitPayload (f : Flit) : ((f.payload ++ List.replicate 224 0).take 224).length = 224 := by
  rw [List.length_take, List.length_append, List.length_replicate]; omega

theorem take_flitPayload {f : Flit} (h : f.payload.length ≤ 224) :
    ((f.payload ++ List.replicate 224 0).take 224).take f.payload.length = f.payload := by
  rw [List.take_take, Nat.min_eq_left h, List.take_left]

/-- What a flit's image holds is read back from it (R306, R307). -/
theorem openFlit_flitImage {f : Flit} (h : flitFits f) : openFlit (flitImage f) = some f := by
  obtain ⟨h1, h2, h3, h4, h5, h6, h7, h8, h9, h10⟩ := h
  have lh : ∀ v, (toBytes 16 v).length = 16 := length_toBytes 16
  have lc : ∀ v, (toBytes 8 v).length = 8 := length_toBytes 8
  have lp := length_flitPayload f
  have tp := take_flitPayload h10
  have hc := crc64_lt (toBytes 16 (flitHeader f) ++ (f.payload ++ List.replicate 224 0).take 224) (r := 0) (by decide)
  have hh : flitHeader f % 256 ^ 16 = flitHeader f := by
    apply Nat.mod_eq_of_lt
    have : b2n f.first ≤ 1 := by cases f.first <;> decide
    have : b2n f.last ≤ 1 := by cases f.last <;> decide
    simp only [flitHeader]
    omega
  generalize hp : (f.payload ++ List.replicate 224 0).take 224 = p at *
  generalize hcv : crc64 0 (toBytes 16 (flitHeader f) ++ p) = c at *
  have e240 : (toBytes 16 (flitHeader f) ++ p).length = 240 := by simp [lh, lp]
  have t16 : (flitImage f).take 16 = toBytes 16 (flitHeader f) := by
    simp only [flitImage, hp, List.append_assoc]
    exact List.take_left' (lh _)
  have t240 : (flitImage f).take 240 = toBytes 16 (flitHeader f) ++ p := by
    simp only [flitImage, hp]
    rw [List.append_assoc]
    exact List.take_left' e240
  have d240 : ((flitImage f).drop 240).take 8 = toBytes 8 c := by
    simp only [flitImage, hp, hcv]
    rw [List.append_assoc, List.drop_left' e240]
    exact List.take_left' (lc _)
  have d16 : (flitImage f).drop 16 = p ++ (toBytes 8 c ++ List.replicate 8 0) := by
    simp only [flitImage, hp, hcv, List.append_assoc]
    exact List.drop_left' (lh _)
  have len : (flitImage f).length = 256 := by
    simp only [flitImage, hp, List.length_append, lh, lp, lc, List.length_replicate]
  have pl : ∀ q, (p ++ q).take (min 224 f.plen) = f.payload := fun q => by
    rw [h9, Nat.min_eq_right h10, List.take_append_of_le_length (by omega), tp]
  have c64 : c % 256 ^ 8 = c := Nat.mod_eq_of_lt (by simpa using hc)
  have fp : field (flitHeader f) 72 8 = f.plen := by
    have : b2n f.first ≤ 1 := by cases f.first <;> decide
    have : b2n f.last ≤ 1 := by cases f.last <;> decide
    simp only [flitHeader, field]; omega
  have ff : bit (flitHeader f) 51 = f.first ∧ bit (flitHeader f) 50 = f.last := by
    cases hf : f.first <;> cases hl : f.last <;> simp only [flitHeader, bit, hf, hl, b2n] <;>
      constructor <;> simp only [beq_iff_eq, beq_eq_false_iff_ne, ne_eq, if_true, Bool.false_eq_true, if_false] <;> omega
  have fl : field (flitHeader f) 108 20 = f.seq ∧ field (flitHeader f) 88 20 = f.ack ∧ field (flitHeader f) 86 2 = f.kind ∧
      field (flitHeader f) 84 2 = f.nreason ∧ field (flitHeader f) 80 4 = f.cls ∧ field (flitHeader f) 62 10 = f.dpkg ∧
      field (flitHeader f) 52 10 = f.spkg ∧ field (flitHeader f) 32 18 = f.mtag := by
    have : b2n f.first ≤ 1 := by cases f.first <;> decide
    have : b2n f.last ≤ 1 := by cases f.last <;> decide
    simp only [flitHeader, field]
    refine ⟨?_, ?_, ?_, ?_, ?_, ?_, ?_, ?_⟩ <;> omega
  have ch : ofBytes ((flitImage f).take 16) = flitHeader f := by rw [t16, ofBytes_toBytes, hh]
  have cc : ofBytes (((flitImage f).drop 240).take 8) = c := by rw [d240, ofBytes_toBytes, c64]
  have cp : ((flitImage f).drop 16).take (min 224 f.plen) = f.payload := by rw [d16]; exact pl _
  simp only [openFlit, ch, cc, len, t240, hcv, cp, fp, ff.1, ff.2, fl, decide_true, Bool.and_self, if_true]

end Sys2Proof.Machine
end

