-- ==== Sys2Proof/Laws/Map.lean ====
section
/-! SUPPORT. Sorted association lists: reading after inserting and removing, and that every operation that changes one, and
every operation that puts bytes into a memory, keeps its canonical form. -/

namespace Sys2Proof.Machine

/-- An entry that was inserted is read back. -/
@[simp] theorem Map.look_ins_self {α : Type} (m : Map α) (x : Nat) (a : α) : (m.ins x a).look x = some a := by
  induction m with
  | nil => simp [Map.ins, Map.look]
  | cons p m ih =>
    obtain ⟨k, v⟩ := p
    rcases Nat.lt_trichotomy x k with h | h | h
    · simp [Map.ins, Map.look, h]
    · simp [Map.ins, Map.look, h]
    · simp [Map.ins, Map.look, Nat.not_lt.mpr (Nat.le_of_lt h), Nat.ne_of_gt h, ih]

/-- Inserting an entry leaves every other one. -/
theorem Map.look_ins_ne {α : Type} (m : Map α) (x y : Nat) (a : α) (h : y ≠ x) : (m.ins x a).look y = m.look y := by
  induction m with
  | nil => simp [Map.ins, Map.look, h]
  | cons p m ih =>
    obtain ⟨k, v⟩ := p
    rcases Nat.lt_trichotomy x k with hk | hk | hk
    · simp [Map.ins, Map.look, hk, h]
    · subst hk; simp [Map.ins, Map.look, h]
    · simp [Map.ins, Map.look, Nat.not_lt.mpr (Nat.le_of_lt hk), Nat.ne_of_gt hk, ih]

/-- Removing an entry leaves every other one. -/
theorem Map.look_del_ne {α : Type} (m : Map α) (x y : Nat) (h : y ≠ x) : (m.del x).look y = m.look y := by
  induction m with
  | nil => rfl
  | cons p m ih =>
    obtain ⟨k, v⟩ := p
    by_cases hk : x = k
    · subst hk; simp [Map.del, Map.look, h]
    · simp [Map.del, Map.look, hk, ih]

/-- A key below every listed one is not listed. -/
theorem Map.look_below {α : Type} (m : Map α) (x : Nat) (h : ∀ p ∈ m, x < p.1) : m.look x = none := by
  induction m with
  | nil => rfl
  | cons p m ih =>
    obtain ⟨k, v⟩ := p
    have hk : x < k := h (k, v) (by simp)
    simp [Map.look, Nat.ne_of_lt hk, ih fun q hq => h q (by simp [hq])]

/-- A removed entry is gone, where the keys rise. -/
theorem Map.look_del_self {α : Type} (m : Map α) (x : Nat) (hm : m.Pairwise fun a b => a.1 < b.1) : (m.del x).look x = none := by
  induction m with
  | nil => rfl
  | cons p m ih =>
    obtain ⟨k, v⟩ := p
    rw [List.pairwise_cons] at hm
    by_cases hk : x = k
    · subst hk; simpa [Map.del] using Map.look_below m x hm.1
    · simpa [Map.del, Map.look, hk] using ih hm.2

/-- The entries of a store after an insertion are the new one and old ones. -/
theorem Map.mem_ins {α : Type} (m : Map α) (x : Nat) (a : α) (p : Nat × α) (h : p ∈ m.ins x a) : p = (x, a) ∨ p ∈ m := by
  induction m with
  | nil => simpa [Map.ins] using h
  | cons q m ih =>
    obtain ⟨k, v⟩ := q
    simp only [Map.ins] at h
    split at h
    · simpa using h
    · split at h
      · rcases List.mem_cons.mp h with h | h
        · exact .inl h
        · exact .inr (by simp [h])
      · rcases List.mem_cons.mp h with h | h
        · exact .inr (by simp [h])
        · exact (ih h).imp id (by simp +contextual)

/-- The entries of a store after a removal are old ones. -/
theorem Map.del_sublist {α : Type} (m : Map α) (x : Nat) : List.Sublist (m.del x) m := by
  induction m with
  | nil => exact List.Sublist.refl []
  | cons p m ih =>
    obtain ⟨k, v⟩ := p
    simp only [Map.del]
    split
    · exact List.sublist_cons_self _ _
    · exact ih.cons_cons _

/-- Inserting an entry other than the value of unlisted keys keeps the canonical form. -/
theorem Map.wf_ins {α : Type} [DecidableEq α] {d : α} {m : Map α} (hm : Map.wf d m) (x : Nat) {a : α} (ha : a ≠ d) :
    Map.wf d (m.ins x a) := by
  obtain ⟨hs, hd⟩ := hm
  refine ⟨?_, fun p hp => ?_⟩
  · clear hd
    induction m with
    | nil => simp [Map.ins]
    | cons p m ih =>
      obtain ⟨k, v⟩ := p
      rw [List.pairwise_cons] at hs
      simp only [Map.ins]
      split
      · refine List.pairwise_cons.mpr ⟨fun q hq => ?_, List.pairwise_cons.mpr hs⟩
        rcases List.mem_cons.mp hq with h | h
        · simpa [h]
        · exact Nat.lt_trans ‹x < k› (hs.1 q h)
      · split
        · exact List.pairwise_cons.mpr ⟨fun q hq => by simpa [‹x = k›] using hs.1 q hq, hs.2⟩
        · refine List.pairwise_cons.mpr ⟨fun q hq => ?_, ih hs.2⟩
          rcases Map.mem_ins m x a q hq with h | h
          · have : k < x := by omega
            simpa [h]
          · exact hs.1 q h
  · rcases Map.mem_ins m x a p hp with h | h
    · simpa [h]
    · exact hd p h

/-- Removing an entry keeps the canonical form. -/
theorem Map.wf_del {α : Type} [DecidableEq α] {d : α} {m : Map α} (hm : Map.wf d m) (x : Nat) : Map.wf d (m.del x) :=
  ⟨hm.1.sublist (Map.del_sublist m x), fun p hp => hm.2 p ((Map.del_sublist m x).subset hp)⟩

/-- Putting a value keeps the canonical form. -/
theorem Map.wf_put {α : Type} [DecidableEq α] {d : α} {m : Map α} (hm : Map.wf d m) (x : Nat) (a : α) :
    Map.wf d (Map.put d m x a) := by
  unfold Map.put
  split
  · exact Map.wf_del hm x
  · exact Map.wf_ins hm x ‹_›

/-- A filtered store keeps the canonical form. -/
theorem Map.wf_filter {α : Type} [DecidableEq α] {d : α} {m : Map α} (hm : Map.wf d m) (f : Nat × α → Bool) :
    Map.wf d (m.filter f) :=
  ⟨hm.1.sublist List.filter_sublist, fun p hp => hm.2 p (List.mem_filter.mp hp).1⟩

/-- A value that was put is read back. -/
theorem Map.lookD_put_self {α : Type} [DecidableEq α] {d : α} {m : Map α} (hm : Map.wf d m) (x : Nat) (a : α) :
    (Map.put d m x a).lookD x d = a := by
  unfold Map.put Map.lookD
  split
  · simp [Map.look_del_self m x hm.1, ‹a = d›]
  · simp

/-- Putting a value leaves what every other key reads as. -/
theorem Map.lookD_put_ne {α : Type} [DecidableEq α] (d : α) (m : Map α) (x y : Nat) (a : α) (h : y ≠ x) :
    (Map.put d m x a).lookD y d = m.lookD y d := by
  unfold Map.put Map.lookD
  split
  · rw [Map.look_del_ne m x y h]
  · rw [Map.look_ins_ne m x y a h]

/-- Putting one byte keeps the canonical form of a memory. -/
theorem Memory.wf_putByte {m : List Host.Cell} (hm : Memory.wf m) (a : Nat) (b : Byte) : Memory.wf (putByte m a b) :=
  Map.wf_put hm a b

/-- Putting bytes keeps the canonical form of a memory. -/
theorem Memory.wf_putBytes {m : List Host.Cell} (hm : Memory.wf m) (a : Nat) (bs : List Byte) :
    Memory.wf (putBytes m a bs) := by
  induction bs generalizing m a with
  | nil => exact hm
  | cons b bs ih => exact ih (Memory.wf_putByte hm a b) (a + 1)

/-- A byte that was put is read back. -/
theorem byteAt_putByte_self {m : List Host.Cell} (hm : Memory.wf m) (a : Nat) (b : Byte) : byteAt (putByte m a b) a = b :=
  Map.lookD_put_self hm a b

/-- Putting a byte leaves every other address. -/
theorem byteAt_putByte_ne (m : List Host.Cell) (a x : Nat) (b : Byte) (h : x ≠ a) : byteAt (putByte m a b) x = byteAt m x :=
  Map.lookD_put_ne 0 m a x b h

end Sys2Proof.Machine
end

