-- ==== Sys2Proof/Laws/Ops.lean ====
section
/-! SUPPORT. What the shared operations do: running an instruction in the threads that issue it, taking a trap, ending a
thread, counting events. -/

namespace Sys2Proof.Machine

/-- A thread in which no check stops an instruction, and which waits at no check point, runs its body. -/
theorem issueLane_on (i : Instr) (h : Head) (body : Head → Nat → Thread → State → State) (s : State) (k : Nat) (t : Thread)
    (ht : s.thread? k = some t) (hg : s.gate i k t h = .on) (hp : isCheckPoint i = true → s.pairingOf k = none)
    (hn : t.passed = false) :
    issueLane i h body s k = body h k t s := by
  cases hc : isCheckPoint i <;> simp_all [issueLane]

/-- A thread in which a check stops an instruction traps. -/
theorem issueLane_trap (i : Instr) (h : Head) (body : Head → Nat → Thread → State → State) (s : State) (k : Nat) (t : Thread)
    (c d v : Nat) (ht : s.thread? k = some t) (hg : s.gate i k t h = .trap c d v) :
    issueLane i h body s k = s.trap k c d v := by
  simp [issueLane, ht, hg]

/-- A thread in which an instruction is disabled passes it. -/
theorem issueLane_off (i : Instr) (h : Head) (body : Head → Nat → Thread → State → State) (s : State) (k : Nat) (t : Thread)
    (ht : s.thread? k = some t) (hg : s.gate i k t h = .off) :
    issueLane i h body s k = s.setThread k (t.disabled i) := by
  simp [issueLane, ht, hg]

/-- The issue of a state in which one thread issues. -/
theorem Alone.issuing {s : State} {k : Nat} {t : Thread} (ha : Alone s k t) :
    ∃ g, s.issuing = some g ∧ g.threads = [k] := by
  have h := ha.1
  cases hi : s.issuing with
  | none => simp [hi] at h
  | some g => exact ⟨g, rfl, by simpa [hi] using h⟩

/-- An instruction that runs in the one thread that issues does what its body says. -/
theorem perLane_runs {i : Instr} {h : Head} {s : State} {k : Nat} {t : Thread} (hr : Runs i h s k t)
    (body : Head → Nat → Thread → State → State) : perLane i body s = .next (body h k t s) := by
  obtain ⟨ha, hh, hg, hp, hn⟩ := hr
  obtain ⟨g, hi, hk⟩ := ha.issuing
  simp [perLane, hi, hk, hh, issueLane_on i h body s k t ha.2 hg (fun hc => hp (by simp [pairingMatters, hc])) hn]

/-- The same for an instruction that can park: units written in this cycle enter the crock afterwards. -/
theorem perLanePark_runs {i : Instr} {h : Head} {s : State} {k : Nat} {t : Thread} (hr : Runs i h s k t)
    (body : Head → Nat → Thread → State → State) :
    perLanePark i body s = .next ((body h k t s).settleCycle ((s.issuing.map Issue.cycle).getD 0)) := by
  obtain ⟨ha, hh, hg, hp, hn⟩ := hr
  obtain ⟨g, hi, hk⟩ := ha.issuing
  simp [perLanePark, hi, hk, hh, issueLane_on i h body s k t ha.2 hg (fun hc => hp (by simp [pairingMatters, hc])) hn]

/-- Nothing enters the crock when no record was written in a cycle. -/
theorem settleCycle_none (s : State) (c : Nat) (h : ∀ r ∈ s.records, r.2.cycle ≠ c) : s.settleCycle c = s := by
  have : (s.records.filter fun p => p.2.cycle = c) = [] := by
    simp only [List.filter_eq_nil_iff, decide_eq_true_eq]
    exact h
  simp [State.settleCycle, this]

/-- A register instruction that runs in the one thread that issues leaves its results there and counts its events. -/
theorem alu_runs {i : Instr} {h : Head} {s : State} {k : Nat} {t : Thread} (hr : Runs i h s k t) (tid : Nat)
    (f : Head → Thread → Res) : alu i tid f s = .next (wrote i h tid (f h t) s k t) := by
  simp [alu, perLane_runs hr, wrote]

/-- An instruction that one thread issues and a check stops there traps. -/
theorem perLane_trap {i : Instr} {h : Head} {s : State} {k : Nat} {t : Thread} {c d v : Nat} (ha : Alone s k t)
    (hh : i.head = some h) (hg : s.gate i k t h = .trap c d v) (body : Head → Nat → Thread → State → State) :
    perLane i body s = .next (s.trap k c d v) := by
  obtain ⟨g, hi, hk⟩ := ha.issuing
  simp [perLane, hi, hk, hh, issueLane_trap i h body s k t c d v ha.2 hg]

/-- An instruction that one thread issues and that is disabled in it moves the thread on. -/
theorem perLane_off {i : Instr} {h : Head} {s : State} {k : Nat} {t : Thread} (ha : Alone s k t) (hh : i.head = some h)
    (hg : s.gate i k t h = .off) (body : Head → Nat → Thread → State → State) :
    perLane i body s = .next (s.setThread k (t.disabled i)) := by
  obtain ⟨g, hi, hk⟩ := ha.issuing
  simp [perLane, hi, hk, hh, issueLane_off i h body s k t ha.2 hg]

/-- Counting no event changes nothing. -/
@[simp] theorem count_none (s : State) (k tid : Nat) : s.count k tid Events.none = s := by
  simp [State.count, State.countFor]

/-- The serial of an instruction's incoming write, and what taking it leaves. -/
theorem newWid_eq (s : State) (i : Instr) (h : Head) :
    s.newWid i h = (resultWid i h s, { s with serial := resultNext i h s }) := by
  simp only [State.newWid, resultWid, resultNext, State.fresh, Bool.or_eq_true, decide_eq_true_eq]
  split <;> rfl

/-- An instruction that carries a release takes effect once its block's stash lines are written back. -/
theorem releasing_done (s : State) (k bid : Nat) (f : State → State) (h : (s.releaseStash bid).stashHeld bid = false) :
    s.releasing k bid f = f (s.releaseStash bid) := by
  simp [State.releasing, h]

/-- While a write-back is still to come, its thread issues it again. -/
theorem releasing_waits (s : State) (k bid : Nat) (f : State → State) (h : (s.releaseStash bid).stashHeld bid = true) :
    s.releasing k bid f = (s.releaseStash bid).holdReplay k := by
  simp [State.releasing, h]

/-- While no access waits, no access follows. -/
theorem settleOps_none (s : State) (h : s.ops = []) : s.settleOps = s := by
  simp [State.settleOps, h]

/-- A message that the fabric has delivered acts once. -/
theorem arrival_taken (cls pkg : Nat) (f : State → State) (s u : State) (h : s.takeMessage cls pkg = some u) :
    arrival cls pkg f s = .next (f u).settleOps := by
  simp [arrival, event, h]

/-- A message that the fabric has not delivered does nothing. -/
theorem arrival_none (cls pkg : Nat) (f : State → State) (s : State) (h : s.takeMessage cls pkg = none) :
    arrival cls pkg f s = .next s.settleOps := by
  simp [arrival, event, h]

/-- The same where the step does not name the sender. -/
theorem arrivalAny_taken (cls : Nat) (f : State → State) (s u : State) (h : s.takeAny cls = some u) :
    arrivalAny cls f s = .next (f u).settleOps := by
  simp [arrivalAny, event, h]

/-- Nothing from any sender does nothing. -/
theorem arrivalAny_none (cls : Nat) (f : State → State) (s : State) (h : s.takeAny cls = none) :
    arrivalAny cls f s = .next s.settleOps := by
  simp [arrivalAny, event, h]

end Sys2Proof.Machine
end

