-- ==== Sys2Proof/Laws/PerInstr.lean ====
section
/-! SUPPORT. Facts about every instruction as syntax, one lemma for each constructor. -/

/-- An instruction of the opcode map has an opcode of one of its rows, 0x01 to 0xBF; a step of the device has no encoding
and is not well-formed (R30). -/
def Sys2Proof.Laws.HasOpcode.Statement (i : Sys2Proof.Instr) : Prop :=
  (∀ op x m h, i.parts = some (op, x, m, h) → 0 < op ∧ op < 0xC0) ∧ (i.parts = none → i.wf = false)

namespace Sys2Proof.Laws.HasOpcode

open Sys2Proof

/-- An instruction with these parts satisfies the statement. -/
theorem of_parts {i : Instr} {op x m : Nat} {h : Head} (hp : i.parts = some (op, x, m, h)) (h0 : 0 < op) (h1 : op < 0xC0) :
    Statement i := by
  refine ⟨fun op' x' m' h' e => ?_, fun e => ?_⟩
  · rw [hp] at e
    simp only [Option.some.injEq, Prod.mk.injEq] at e
    exact e.1 ▸ ⟨h0, h1⟩
  · rw [hp] at e
    exact absurd e (by simp)

/-- A step of the device satisfies the statement. -/
theorem of_step {i : Instr} (hp : i.parts = none) : Statement i := by
  refine ⟨fun op x m h e => ?_, fun _ => ?_⟩
  · rw [hp] at e
    exact absurd e (by simp)
  · simp only [Instr.wf, hp]

theorem bra (h : Head) (ofs : Int) : Statement (.bra h ofs) := of_parts rfl (by decide) (by decide)
theorem brz (h : Head) (ofs : Int) : Statement (.brz h ofs) := of_parts rfl (by decide) (by decide)
theorem brnz (h : Head) (ofs : Int) : Statement (.brnz h ofs) := of_parts rfl (by decide) (by decide)
theorem jmp (h : Head) : Statement (.jmp h) := of_parts rfl (by decide) (by decide)
theorem call (h : Head) (ofs : Int) : Statement (.call h ofs) := of_parts rfl (by decide) (by decide)
theorem ret (h : Head) : Statement (.ret h) := of_parts rfl (by decide) (by decide)
theorem yield (h : Head) : Statement (.yield h) := of_parts rfl (by decide) (by decide)
theorem exit (h : Head) : Statement (.exit h) := of_parts rfl (by decide) (by decide)
theorem exitWithSuccessors (h : Head) (n : Nat) : Statement (.exitWithSuccessors h n) := of_parts rfl (by decide) (by decide)
theorem repeatLoop (h : Head) (byReg : Bool) (count body : Nat) : Statement (.repeatLoop h byReg count body) := of_parts rfl (by decide) (by decide)
theorem trap (h : Head) (code : Nat) : Statement (.trap h code) := of_parts rfl (by decide) (by decide)
theorem eret (h : Head) : Statement (.eret h) := of_parts rfl (by decide) (by decide)
theorem csrr (h : Head) (num : Nat) : Statement (.csrr h num) := of_parts rfl (by decide) (by decide)
theorem csrw (h : Head) (num : Nat) : Statement (.csrw h num) := of_parts rfl (by decide) (by decide)
theorem selftestLane (h : Head) : Statement (.selftestLane h) := of_parts rfl (by decide) (by decide)
theorem selftestRf (h : Head) : Statement (.selftestRf h) := of_parts rfl (by decide) (by decide)
theorem selftestLar (h : Head) : Statement (.selftestLar h) := of_parts rfl (by decide) (by decide)
theorem selftestDrw (h : Head) : Statement (.selftestDrw h) := of_parts rfl (by decide) (by decide)
theorem selftestArr (h : Head) : Statement (.selftestArr h) := of_parts rfl (by decide) (by decide)
theorem selftestBank (h : Head) : Statement (.selftestBank h) := of_parts rfl (by decide) (by decide)
theorem selftestHbm (h : Head) : Statement (.selftestHbm h) := of_parts rfl (by decide) (by decide)
theorem selftestScm (h : Head) : Statement (.selftestScm h) := of_parts rfl (by decide) (by decide)
theorem selftestLink (h : Head) : Statement (.selftestLink h) := of_parts rfl (by decide) (by decide)
theorem selftestComplete (serial outcome index : Nat) : Statement (.selftestComplete serial outcome index) := of_step rfl
theorem nop (h : Head) : Statement (.nop h) := of_parts rfl (by decide) (by decide)
theorem shfl (h : Head) (mode : ShflMode) : Statement (.shfl h mode) := of_parts rfl (by decide) (by decide)
theorem vote (h : Head) (mode : VoteMode) : Statement (.vote h mode) := of_parts rfl (by decide) (by decide)
theorem elect (h : Head) (pred : Bool) : Statement (.elect h pred) := of_parts rfl (by decide) (by decide)
theorem matchLanes (h : Head) (all : Bool) : Statement (.matchLanes h all) := of_parts rfl (by decide) (by decide)
theorem lred (h : Head) (op : RedOp) (tid : Nat) (ftz : Bool) (rnd : Rnd) : Statement (.lred h op tid ftz rnd) := of_parts rfl (by decide) (by decide)
theorem parkNow (h : Head) (keep : Nat) : Statement (.parkNow h keep) := of_parts rfl (by decide) (by decide)
theorem parkUntil (h : Head) (keep : Nat) : Statement (.parkUntil h keep) := of_parts rfl (by decide) (by decide)
theorem parkNe (h : Head) (keep : Nat) : Statement (.parkNe h keep) := of_parts rfl (by decide) (by decide)
theorem spawn (h : Head) (laneGiven : Bool) (narg : Nat) : Statement (.spawn h laneGiven narg) := of_parts rfl (by decide) (by decide)
theorem add (h : Head) (m : ModA) : Statement (.add h m) := of_parts rfl (by decide) (by decide)
theorem sub (h : Head) (m : ModA) : Statement (.sub h m) := of_parts rfl (by decide) (by decide)
theorem addc (h : Head) (m : ModA) : Statement (.addc h m) := of_parts rfl (by decide) (by decide)
theorem subc (h : Head) (m : ModA) : Statement (.subc h m) := of_parts rfl (by decide) (by decide)
theorem mul (h : Head) (m : ModA) : Statement (.mul h m) := of_parts rfl (by decide) (by decide)
theorem mulhi (h : Head) (m : ModA) : Statement (.mulhi h m) := of_parts rfl (by decide) (by decide)
theorem mulw (h : Head) (m : ModA) : Statement (.mulw h m) := of_parts rfl (by decide) (by decide)
theorem mad (h : Head) (m : ModA) : Statement (.mad h m) := of_parts rfl (by decide) (by decide)
theorem min (h : Head) (m : ModA) : Statement (.min h m) := of_parts rfl (by decide) (by decide)
theorem max (h : Head) (m : ModA) : Statement (.max h m) := of_parts rfl (by decide) (by decide)
theorem abs (h : Head) (m : ModA) : Statement (.abs h m) := of_parts rfl (by decide) (by decide)
theorem cmp (h : Head) (m : ModA) (cond : Cond) : Statement (.cmp h m cond) := of_parts rfl (by decide) (by decide)
theorem sel (h : Head) (m : ModA) : Statement (.sel h m) := of_parts rfl (by decide) (by decide)
theorem lea (h : Head) (m : ModA) (sh : Nat) : Statement (.lea h m sh) := of_parts rfl (by decide) (by decide)
theorem and (h : Head) (m : ModA) : Statement (.and h m) := of_parts rfl (by decide) (by decide)
theorem or (h : Head) (m : ModA) : Statement (.or h m) := of_parts rfl (by decide) (by decide)
theorem xor (h : Head) (m : ModA) : Statement (.xor h m) := of_parts rfl (by decide) (by decide)
theorem andn (h : Head) (m : ModA) : Statement (.andn h m) := of_parts rfl (by decide) (by decide)
theorem not (h : Head) (m : ModA) : Statement (.not h m) := of_parts rfl (by decide) (by decide)
theorem shl (h : Head) (m : ModA) : Statement (.shl h m) := of_parts rfl (by decide) (by decide)
theorem shr (h : Head) (m : ModA) : Statement (.shr h m) := of_parts rfl (by decide) (by decide)
theorem sar (h : Head) (m : ModA) : Statement (.sar h m) := of_parts rfl (by decide) (by decide)
theorem rol (h : Head) (m : ModA) : Statement (.rol h m) := of_parts rfl (by decide) (by decide)
theorem ror (h : Head) (m : ModA) : Statement (.ror h m) := of_parts rfl (by decide) (by decide)
theorem bfe (h : Head) (m : ModA) : Statement (.bfe h m) := of_parts rfl (by decide) (by decide)
theorem bfi (h : Head) (m : ModA) : Statement (.bfi h m) := of_parts rfl (by decide) (by decide)
theorem popc (h : Head) (m : ModA) : Statement (.popc h m) := of_parts rfl (by decide) (by decide)
theorem clz (h : Head) (m : ModA) : Statement (.clz h m) := of_parts rfl (by decide) (by decide)
theorem ctz (h : Head) (m : ModA) : Statement (.ctz h m) := of_parts rfl (by decide) (by decide)
theorem brev (h : Head) (m : ModA) : Statement (.brev h m) := of_parts rfl (by decide) (by decide)
theorem mov (h : Head) (m : ModA) : Statement (.mov h m) := of_parts rfl (by decide) (by decide)
theorem movi (h : Head) (m : ModA) : Statement (.movi h m) := of_parts rfl (by decide) (by decide)
theorem sext (h : Head) (m : ModA) : Statement (.sext h m) := of_parts rfl (by decide) (by decide)
theorem zext (h : Head) (m : ModA) : Statement (.zext h m) := of_parts rfl (by decide) (by decide)
theorem add64 (h : Head) (m : ModA) : Statement (.add64 h m) := of_parts rfl (by decide) (by decide)
theorem sub64 (h : Head) (m : ModA) : Statement (.sub64 h m) := of_parts rfl (by decide) (by decide)
theorem mul64 (h : Head) (m : ModA) : Statement (.mul64 h m) := of_parts rfl (by decide) (by decide)
theorem shl64 (h : Head) (m : ModA) : Statement (.shl64 h m) := of_parts rfl (by decide) (by decide)
theorem shr64 (h : Head) (m : ModA) : Statement (.shr64 h m) := of_parts rfl (by decide) (by decide)
theorem sar64 (h : Head) (m : ModA) : Statement (.sar64 h m) := of_parts rfl (by decide) (by decide)
theorem cmp64 (h : Head) (m : ModA) (cond : Cond) : Statement (.cmp64 h m cond) := of_parts rfl (by decide) (by decide)
theorem min64 (h : Head) (m : ModA) : Statement (.min64 h m) := of_parts rfl (by decide) (by decide)
theorem max64 (h : Head) (m : ModA) : Statement (.max64 h m) := of_parts rfl (by decide) (by decide)
theorem fadd (h : Head) (m : ModA) : Statement (.fadd h m) := of_parts rfl (by decide) (by decide)
theorem fsub (h : Head) (m : ModA) : Statement (.fsub h m) := of_parts rfl (by decide) (by decide)
theorem fmul (h : Head) (m : ModA) : Statement (.fmul h m) := of_parts rfl (by decide) (by decide)
theorem fma (h : Head) (m : ModA) : Statement (.fma h m) := of_parts rfl (by decide) (by decide)
theorem fmin (h : Head) (m : ModA) : Statement (.fmin h m) := of_parts rfl (by decide) (by decide)
theorem fmax (h : Head) (m : ModA) : Statement (.fmax h m) := of_parts rfl (by decide) (by decide)
theorem fcmp (h : Head) (m : ModA) (cond : FCond) : Statement (.fcmp h m cond) := of_parts rfl (by decide) (by decide)
theorem fclass (h : Head) (m : ModA) (exp : Bool) : Statement (.fclass h m exp) := of_parts rfl (by decide) (by decide)
theorem fround (h : Head) (m : ModA) : Statement (.fround h m) := of_parts rfl (by decide) (by decide)
theorem fscale (h : Head) (m : ModA) : Statement (.fscale h m) := of_parts rfl (by decide) (by decide)
theorem fadd2 (h : Head) (m : ModA) : Statement (.fadd2 h m) := of_parts rfl (by decide) (by decide)
theorem fmul2 (h : Head) (m : ModA) : Statement (.fmul2 h m) := of_parts rfl (by decide) (by decide)
theorem fma2 (h : Head) (m : ModA) : Statement (.fma2 h m) := of_parts rfl (by decide) (by decide)
theorem fmin2 (h : Head) (m : ModA) : Statement (.fmin2 h m) := of_parts rfl (by decide) (by decide)
theorem fmax2 (h : Head) (m : ModA) : Statement (.fmax2 h m) := of_parts rfl (by decide) (by decide)
theorem frcp (h : Head) (m : ModA) : Statement (.frcp h m) := of_parts rfl (by decide) (by decide)
theorem frsq (h : Head) (m : ModA) : Statement (.frsq h m) := of_parts rfl (by decide) (by decide)
theorem fsqrt (h : Head) (m : ModA) : Statement (.fsqrt h m) := of_parts rfl (by decide) (by decide)
theorem fexp2 (h : Head) (m : ModA) : Statement (.fexp2 h m) := of_parts rfl (by decide) (by decide)
theorem flog2 (h : Head) (m : ModA) : Statement (.flog2 h m) := of_parts rfl (by decide) (by decide)
theorem fsin (h : Head) (m : ModA) : Statement (.fsin h m) := of_parts rfl (by decide) (by decide)
theorem fcos (h : Head) (m : ModA) : Statement (.fcos h m) := of_parts rfl (by decide) (by decide)
theorem ftanh (h : Head) (m : ModA) : Statement (.ftanh h m) := of_parts rfl (by decide) (by decide)
theorem cvt (h : Head) (m : ModA) (ovn : Bool) : Statement (.cvt h m ovn) := of_parts rfl (by decide) (by decide)
theorem pack (h : Head) (m : ModA) (k : Nat) (ovn : Bool) : Statement (.pack h m k ovn) := of_parts rfl (by decide) (by decide)
theorem unpack (h : Head) (m : ModA) (k : Nat) : Statement (.unpack h m k) := of_parts rfl (by decide) (by decide)
theorem rand (h : Head) (unit : Bool) (w : Nat) : Statement (.rand h unit w) := of_parts rfl (by decide) (by decide)
theorem cntflush (h : Head) : Statement (.cntflush h) := of_parts rfl (by decide) (by decide)
theorem lalloc (h : Head) (m : ModM) (empty : Bool) : Statement (.lalloc h m empty) := of_parts rfl (by decide) (by decide)
theorem lfree (h : Head) (m : ModM) : Statement (.lfree h m) := of_parts rfl (by decide) (by decide)
theorem luseby (h : Head) (m : ModM) (ext : Bool) : Statement (.luseby h m ext) := of_parts rfl (by decide) (by decide)
theorem lrenew (h : Head) (m : ModM) : Statement (.lrenew h m) := of_parts rfl (by decide) (by decide)
theorem ldl (h : Head) (m : ModM) (mode : LdlMode) : Statement (.ldl h m mode) := of_parts rfl (by decide) (by decide)
theorem stl (h : Head) (m : ModM) (mode : StlMode) : Statement (.stl h m mode) := of_parts rfl (by decide) (by decide)
theorem setempty (h : Head) (m : ModM) : Statement (.setempty h m) := of_parts rfl (by decide) (by decide)
theorem setfull (h : Head) (m : ModM) : Statement (.setfull h m) := of_parts rfl (by decide) (by decide)
theorem lstateLine (h : Head) (m : ModM) : Statement (.lstateLine h m) := of_parts rfl (by decide) (by decide)
theorem lstateAlloc (h : Head) (m : ModM) : Statement (.lstateAlloc h m) := of_parts rfl (by decide) (by decide)
theorem lstateRet (h : Head) (m : ModM) : Statement (.lstateRet h m) := of_parts rfl (by decide) (by decide)
theorem lstateFree (h : Head) (m : ModM) : Statement (.lstateFree h m) := of_parts rfl (by decide) (by decide)
theorem smap (h : Head) (m : ModM) : Statement (.smap h m) := of_parts rfl (by decide) (by decide)
theorem sunmap (h : Head) (m : ModM) : Statement (.sunmap h m) := of_parts rfl (by decide) (by decide)
theorem sflush (h : Head) (m : ModM) (inv : Bool) : Statement (.sflush h m inv) := of_parts rfl (by decide) (by decide)
theorem binit (h : Head) (ofs : Int) (bytes : Bool) : Statement (.binit h ofs bytes) := of_parts rfl (by decide) (by decide)
theorem barr (h : Head) (ofs : Int) : Statement (.barr h ofs) := of_parts rfl (by decide) (by decide)
theorem bwait (h : Head) (ofs : Int) (keep : Nat) : Statement (.bwait h ofs keep) := of_parts rfl (by decide) (by decide)
theorem barrw (h : Head) (ofs : Int) (keep : Nat) : Statement (.barrw h ofs keep) := of_parts rfl (by decide) (by decide)
theorem bbytes (h : Head) (ofs : Int) (exp : Bool) : Statement (.bbytes h ofs exp) := of_parts rfl (by decide) (by decide)
theorem hjoin (h : Head) (grp : Nat) : Statement (.hjoin h grp) := of_parts rfl (by decide) (by decide)
theorem hleave (h : Head) (grp : Nat) : Statement (.hleave h grp) := of_parts rfl (by decide) (by decide)
theorem harr (h : Head) (grp : Nat) : Statement (.harr h grp) := of_parts rfl (by decide) (by decide)
theorem hwait (h : Head) (grp keep : Nat) : Statement (.hwait h grp keep) := of_parts rfl (by decide) (by decide)
theorem hsig (h : Head) (bytes : Bool) : Statement (.hsig h bytes) := of_parts rfl (by decide) (by decide)
theorem ldg (h : Head) (m : ModM) : Statement (.ldg h m) := of_parts rfl (by decide) (by decide)
theorem stg (h : Head) (m : ModM) : Statement (.stg h m) := of_parts rfl (by decide) (by decide)
theorem ldc (h : Head) (m : ModM) : Statement (.ldc h m) := of_parts rfl (by decide) (by decide)
theorem atom (h : Head) (m : ModM) (op : AtomOp) : Statement (.atom h m op) := of_parts rfl (by decide) (by decide)
theorem red (h : Head) (m : ModM) (op : RedOp) : Statement (.red h m op) := of_parts rfl (by decide) (by decide)
theorem fence (h : Head) : Statement (.fence h) := of_parts rfl (by decide) (by decide)
theorem pref (h : Head) (m : ModM) (hbm : Bool) : Statement (.pref h m hbm) := of_parts rfl (by decide) (by decide)
theorem copy (h : Head) (ofs : Int) (keep : Nat) : Statement (.copy h ofs keep) := of_parts rfl (by decide) (by decide)
theorem enq (h : Head) (ofs : Int) (keep : Nat) : Statement (.enq h ofs keep) := of_parts rfl (by decide) (by decide)
theorem publish (h : Head) (seti : Nat) : Statement (.publish h seti) := of_parts rfl (by decide) (by decide)
theorem collRun (h : Head) (tid : Nat) : Statement (.collRun h tid) := of_parts rfl (by decide) (by decide)
theorem collLoad (h : Head) (tid : Nat) : Statement (.collLoad h tid) := of_parts rfl (by decide) (by decide)
theorem collDrop (h : Head) (tid : Nat) : Statement (.collDrop h tid) := of_parts rfl (by decide) (by decide)
theorem repart (h : Head) : Statement (.repart h) := of_parts rfl (by decide) (by decide)
theorem pfenceDie (h : Head) : Statement (.pfenceDie h) := of_parts rfl (by decide) (by decide)
theorem pfencePkg (h : Head) : Statement (.pfencePkg h) := of_parts rfl (by decide) (by decide)
theorem steptag (h : Head) : Statement (.steptag h) := of_parts rfl (by decide) (by decide)
theorem snapStat (h : Head) : Statement (.snapStat h) := of_parts rfl (by decide) (by decide)
theorem snapGo (h : Head) : Statement (.snapGo h) := of_parts rfl (by decide) (by decide)
theorem snapAbort (h : Head) : Statement (.snapAbort h) := of_parts rfl (by decide) (by decide)
theorem digest (h : Head) : Statement (.digest h) := of_parts rfl (by decide) (by decide)
theorem mma (h : Head) (pbn : Nat) : Statement (.mma h pbn) := of_parts rfl (by decide) (by decide)
theorem mmwait (h : Head) (ofs : Int) (keep : Nat) : Statement (.mmwait h ofs keep) := of_parts rfl (by decide) (by decide)
theorem mmrd (h : Head) : Statement (.mmrd h) := of_parts rfl (by decide) (by decide)
theorem mmclrAcc (h : Head) : Statement (.mmclrAcc h) := of_parts rfl (by decide) (by decide)
theorem mmclrClaim (h : Head) : Statement (.mmclrClaim h) := of_parts rfl (by decide) (by decide)
theorem mmclrFree (h : Head) : Statement (.mmclrFree h) := of_parts rfl (by decide) (by decide)
theorem mmscl (h : Head) (pbn : Nat) : Statement (.mmscl h pbn) := of_parts rfl (by decide) (by decide)
theorem mmstBank (h : Head) : Statement (.mmstBank h) := of_parts rfl (by decide) (by decide)
theorem mmstAcc (h : Head) : Statement (.mmstAcc h) := of_parts rfl (by decide) (by decide)
theorem pendingRegisterPark (group : Nat) (lanes : List Nat) : Statement (.pendingRegisterPark group lanes) := of_step rfl
theorem missStatusReplay (group : Nat) (lanes : List Nat) : Statement (.missStatusReplay group lanes) := of_step rfl
theorem incomingWriteComplete (wid : Nat) : Statement (.incomingWriteComplete wid) := of_step rfl
theorem crockTimerExpiry (core bin : Nat) : Statement (.crockTimerExpiry core bin) := of_step rfl
theorem groupAdmission (core unit : Nat) : Statement (.groupAdmission core unit) := of_step rfl
theorem timeEventExpiry (rid : Nat) : Statement (.timeEventExpiry rid) := of_step rfl
theorem watchedWordEvaluate (rid : Nat) : Statement (.watchedWordEvaluate rid) := of_step rfl
theorem blockStart (launch : Nat) (cores : List Nat) : Statement (.blockStart launch cores) := of_step rfl
theorem blockRetire (bid : Nat) : Statement (.blockRetire bid) := of_step rfl
theorem successorEnqueue : Statement .successorEnqueue := of_step rfl
theorem launchCompletionSignal (launch : Nat) : Statement (.launchCompletionSignal launch) := of_step rfl
theorem queuePacketTake (asid queue : Nat) : Statement (.queuePacketTake asid queue) := of_step rfl
theorem launchPacketGrid (serial : Nat) : Statement (.launchPacketGrid serial) := of_step rfl
theorem launchPacketMask (serial : Nat) : Statement (.launchPacketMask serial) := of_step rfl
theorem taskRecord (serial : Nat) : Statement (.taskRecord serial) := of_step rfl
theorem queueCopy (serial : Nat) : Statement (.queueCopy serial) := of_step rfl
theorem queueDeadlockDetect (asid queue : Nat) : Statement (.queueDeadlockDetect asid queue) := of_step rfl
theorem faultQueueSpace (asid : Nat) : Statement (.faultQueueSpace asid) := of_step rfl
theorem larderRenewal (core : Nat) : Statement (.larderRenewal core) := of_step rfl
theorem lretUpdate (core temp guar : Nat) : Statement (.lretUpdate core temp guar) := of_step rfl
theorem allocationExpiry (bid base : Nat) : Statement (.allocationExpiry bid base) := of_step rfl
theorem stashFetchComplete (core line : Nat) : Statement (.stashFetchComplete core line) := of_step rfl
theorem stashLineAgeOut (core line : Nat) : Statement (.stashLineAgeOut core line) := of_step rfl
theorem stashRemoteReadRecall (core line : Nat) : Statement (.stashRemoteReadRecall core line) := of_step rfl
theorem stashRemoteWriteRecall (core line ofs : Nat) (bytes : List Byte) : Statement (.stashRemoteWriteRecall core line ofs bytes) := of_step rfl
theorem lfreeUnitsRelease (serial : Nat) : Statement (.lfreeUnitsRelease serial) := of_step rfl
theorem lrenewComplete (serial : Nat) : Statement (.lrenewComplete serial) := of_step rfl
theorem sflushComplete (serial : Nat) : Statement (.sflushComplete serial) := of_step rfl
theorem hsigApply (asid name count : Nat) (bytes : Bool) : Statement (.hsigApply asid name count bytes) := of_step rfl
theorem harnessArrivalMessage (asid grp pkg handle count : Nat) : Statement (.harnessArrivalMessage asid grp pkg handle count) := of_step rfl
theorem harnessMembershipMessage (asid grp pkg handle : Nat) (join : Bool) (quota : Nat) : Statement (.harnessMembershipMessage asid grp pkg handle join quota) := of_step rfl
theorem walkComplete (serial : Nat) : Statement (.walkComplete serial) := of_step rfl
theorem tlbinv (value : Nat) : Statement (.tlbinv value) := of_step rfl
theorem tlbinvComplete : Statement .tlbinvComplete := of_step rfl
theorem tres (value : Nat) : Statement (.tres value) := of_step rfl
theorem tepcWrite (thread value : Nat) : Statement (.tepcWrite thread value) := of_step rfl
theorem hostBar2Read (addr len : Nat) : Statement (.hostBar2Read addr len) := of_step rfl
theorem hostBar2Write (addr : Nat) (bytes : List Byte) : Statement (.hostBar2Write addr bytes) := of_step rfl
theorem peerMemoryRequest (pkg tag : Nat) (req : MemReq) : Statement (.peerMemoryRequest pkg tag req) := of_step rfl
theorem peerMemoryResponse (tag : Nat) (data : List Byte) : Statement (.peerMemoryResponse tag data) := of_step rfl
theorem copyRequestEnd (serial : Nat) : Statement (.copyRequestEnd serial) := of_step rfl
theorem publishSwapStart (serial : Nat) : Statement (.publishSwapStart serial) := of_step rfl
theorem publishSwapComplete (serial : Nat) : Statement (.publishSwapComplete serial) := of_step rfl
theorem matrixOpStart (core : Nat) : Statement (.matrixOpStart core) := of_step rfl
theorem mmaKStep (core : Nat) : Statement (.mmaKStep core) := of_step rfl
theorem matrixOpEnd (core : Nat) : Statement (.matrixOpEnd core) := of_step rfl
theorem wbqDrainEntry (die : Nat) : Statement (.wbqDrainEntry die) := of_step rfl
theorem wbqRoomWrite (die : Nat) : Statement (.wbqRoomWrite die) := of_step rfl
theorem energyReserveMeasure (energy qcap drain : Nat) (armed : Bool) : Statement (.energyReserveMeasure energy qcap drain armed) := of_step rfl
theorem powerFail (drained : Nat) (kept : List Nat) : Statement (.powerFail drained kept) := of_step rfl
theorem pfenceComplete (serial : Nat) : Statement (.pfenceComplete serial) := of_step rfl
theorem chunkCaptureLagExpiry (asid region : Nat) : Statement (.chunkCaptureLagExpiry asid region) := of_step rfl
theorem chunkCaptureOnWrite (asid region chunk : Nat) : Statement (.chunkCaptureOnWrite asid region chunk) := of_step rfl
theorem stripeFragmentsDurable (asid region stripe : Nat) (stored : Bool) : Statement (.stripeFragmentsDurable asid region stripe stored) := of_step rfl
theorem fragmentStoreWrite (pkg job slot step stripe frag : Nat) (data trailer : List Byte) : Statement (.fragmentStoreWrite pkg job slot step stripe frag data trailer) := of_step rfl
theorem digestComplete (serial : Nat) (uncorrectable : Bool) : Statement (.digestComplete serial uncorrectable) := of_step rfl
theorem rstctl (value : Nat) : Statement (.rstctl value) := of_step rfl
theorem restoreComplete : Statement .restoreComplete := of_step rfl
theorem payloadFlit (port : Nat) (image : List Byte) (outstanding : List Nat) (room : Bool) : Statement (.payloadFlit port image outstanding room) := of_step rfl
theorem acknowledgementFlit (port : Nat) (image : List Byte) : Statement (.acknowledgementFlit port image) := of_step rfl
theorem negativeAcknowledgement (port : Nat) (image : List Byte) : Statement (.negativeAcknowledgement port image) := of_step rfl
theorem retrainMarker (port : Nat) (image : List Byte) : Statement (.retrainMarker port image) := of_step rfl
theorem ackOnlyTimeout (port cls : Nat) : Statement (.ackOnlyTimeout port cls) := of_step rfl
theorem busyResend (port cls : Nat) : Statement (.busyResend port cls) := of_step rfl
theorem replayTimeout (port cls : Nat) : Statement (.replayTimeout port cls) := of_step rfl
theorem laneFailure (port lane : Nat) : Statement (.laneFailure port lane) := of_step rfl
theorem retrainComplete (port : Nat) : Statement (.retrainComplete port) := of_step rfl
theorem portSilent (port pkg : Nat) : Statement (.portSilent port pkg) := of_step rfl
theorem switchGroupTimeout (pkg : Nat) : Statement (.switchGroupTimeout pkg) := of_step rfl
theorem domainTimeout (pkg : Nat) : Statement (.domainTimeout pkg) := of_step rfl
theorem failureNotice (pkg : Nat) : Statement (.failureNotice pkg) := of_step rfl
theorem sendNotice (asid graph node pkg run len : Nat) (dt : Ty) (rop : Nat) : Statement (.sendNotice asid graph node pkg run len dt rop) := of_step rfl
theorem clearToSend (asid graph run node : Nat) : Statement (.clearToSend asid graph run node) := of_step rfl
theorem collectiveData (asid graph run node pkg : Nat) (data : List Byte) : Statement (.collectiveData asid graph run node pkg data) := of_step rfl
theorem collectiveNodeComplete (serial node : Nat) : Statement (.collectiveNodeComplete serial node) := of_step rfl
theorem switchReductionResult (serial node : Nat) (ok : Bool) (data : List Byte) : Statement (.switchReductionResult serial node ok data) := of_step rfl
theorem collLoadComplete (serial : Nat) : Statement (.collLoadComplete serial) := of_step rfl
theorem repartOperationStart (asid grp : Nat) : Statement (.repartOperationStart asid grp) := of_step rfl
theorem repartOperationEnd (asid grp : Nat) (failed : Bool) : Statement (.repartOperationEnd asid grp failed) := of_step rfl
theorem tlmctlGo (value : Nat) : Statement (.tlmctlGo value) := of_step rfl
theorem marginMeasurementComplete (errs bits : Nat) : Statement (.marginMeasurementComplete errs bits) := of_step rfl
theorem ctxCreate (value : Nat) : Statement (.ctxCreate value) := of_step rfl
theorem ctxPreemptAll (value : Nat) : Statement (.ctxPreemptAll value) := of_step rfl
theorem ctxResume (value : Nat) : Statement (.ctxResume value) := of_step rfl
theorem ctxKill (value : Nat) : Statement (.ctxKill value) := of_step rfl
theorem ctxFreeze (value : Nat) : Statement (.ctxFreeze value) := of_step rfl
theorem ctxThaw (value : Nat) : Statement (.ctxThaw value) := of_step rfl
theorem ctxReservedAction (value : Nat) : Statement (.ctxReservedAction value) := of_step rfl
theorem prectlGo (value : Nat) : Statement (.prectlGo value) := of_step rfl
theorem dispatcherPreempt (launch bid : Nat) : Statement (.dispatcherPreempt launch bid) := of_step rfl
theorem drainlimExpiry (bid : Nat) : Statement (.drainlimExpiry bid) := of_step rfl
theorem deferredSave (bid : Nat) : Statement (.deferredSave bid) := of_step rfl
theorem blockSaveComplete (bid : Nat) : Statement (.blockSaveComplete bid) := of_step rfl
theorem flushedBlockRestart (bid core : Nat) : Statement (.flushedBlockRestart bid core) := of_step rfl
theorem blockRestore (bid core : Nat) : Statement (.blockRestore bid core) := of_step rfl
theorem laneSteering (core unit lane : Nat) : Statement (.laneSteering core unit lane) := of_step rfl
theorem pairedCheckPoint (bid lin : Nat) : Statement (.pairedCheckPoint bid lin) := of_step rfl
theorem targetedSelfTest (src unit loc failing : Nat) : Statement (.targetedSelfTest src unit loc failing) := of_step rfl
theorem transferErrorRetry (stack chan pc lane retries : Nat) (write : Bool) : Statement (.transferErrorRetry stack chan pc lane retries write) := of_step rfl
theorem arrlogRead : Statement .arrlogRead := of_step rfl
theorem xfrlogRead : Statement .xfrlogRead := of_step rfl
theorem faillogRead : Statement .faillogRead := of_step rfl
theorem hbmcfgWrite (value : Nat) : Statement (.hbmcfgWrite value) := of_step rfl
theorem channelTemperatureMeasure (stack chan temp : Nat) : Statement (.channelTemperatureMeasure stack chan temp) := of_step rfl
theorem stitch (value : Nat) : Statement (.stitch value) := of_step rfl
theorem stitchComplete : Statement .stitchComplete := of_step rfl
theorem vmctlGo (value : Nat) : Statement (.vmctlGo value) := of_step rfl
theorem voltageMarginComplete (vmeas result : Nat) : Statement (.voltageMarginComplete vmeas result) := of_step rfl
theorem clockStepChange (up therm power : Bool) : Statement (.clockStepChange up therm power) := of_step rfl
theorem moduleReset : Statement .moduleReset := of_step rfl
theorem bootStageAdvance (fail : Nat) : Statement (.bootStageAdvance fail) := of_step rfl
theorem attestationRequest (nonce : List Byte) : Statement (.attestationRequest nonce) := of_step rfl
theorem registerWrite (num value : Nat) : Statement (.registerWrite num value) := of_step rfl
theorem chunkCaptureComplete (asid region chunk : Nat) : Statement (.chunkCaptureComplete asid region chunk) := of_step rfl
theorem engineByteCountPiece (serial elements : Nat) : Statement (.engineByteCountPiece serial elements) := of_step rfl
theorem repartDescriptorArrival (asid pkg handle : Nat) (descriptor : Nat) (serial : Nat) : Statement (.repartDescriptorArrival asid pkg handle descriptor serial) := of_step rfl
theorem hbmcfgTakesEffect : Statement .hbmcfgTakesEffect := of_step rfl
theorem powerGatedCoreWake (core : Nat) : Statement (.powerGatedCoreWake core) := of_step rfl

end Sys2Proof.Laws.HasOpcode
end

