-- ==== Sys2Proof/Laws/State.lean ====
section
/-! SUPPORT. What each named update of the state leaves in each field. -/

namespace Sys2Proof.Machine

/-! ### setThread -/

@[simp] theorem State.setThread_agenda (s : State) (k : Nat) (t : Thread) : (s.setThread k t).agenda = s.agenda := rfl
@[simp] theorem State.setThread_tick (s : State) (k : Nat) (t : Thread) : (s.setThread k t).tick = s.tick := rfl
@[simp] theorem State.setThread_serial (s : State) (k : Nat) (t : Thread) : (s.setThread k t).serial = s.serial := rfl
@[simp] theorem State.setThread_issuing (s : State) (k : Nat) (t : Thread) : (s.setThread k t).issuing = s.issuing := rfl
@[simp] theorem State.setThread_timebase (s : State) (k : Nat) (t : Thread) : (s.setThread k t).timebase = s.timebase := rfl
@[simp] theorem State.setThread_pkg (s : State) (k : Nat) (t : Thread) : (s.setThread k t).pkg = s.pkg := rfl
@[simp] theorem State.setThread_domain (s : State) (k : Nat) (t : Thread) : (s.setThread k t).domain = s.domain := rfl
@[simp] theorem State.setThread_failed (s : State) (k : Nat) (t : Thread) : (s.setThread k t).failed = s.failed := rfl
@[simp] theorem State.setThread_threads (s : State) (k : Nat) (t : Thread) : (s.setThread k t).threads = s.threads.ins k t := rfl
@[simp] theorem State.setThread_groups (s : State) (k : Nat) (t : Thread) : (s.setThread k t).groups = s.groups := rfl
@[simp] theorem State.setThread_units (s : State) (k : Nat) (t : Thread) : (s.setThread k t).units = s.units := rfl
@[simp] theorem State.setThread_cores (s : State) (k : Nat) (t : Thread) : (s.setThread k t).cores = s.cores := rfl
@[simp] theorem State.setThread_records (s : State) (k : Nat) (t : Thread) : (s.setThread k t).records = s.records := rfl
@[simp] theorem State.setThread_lines (s : State) (k : Nat) (t : Thread) : (s.setThread k t).lines = s.lines := rfl
@[simp] theorem State.setThread_larder (s : State) (k : Nat) (t : Thread) : (s.setThread k t).larder = s.larder := rfl
@[simp] theorem State.setThread_freed (s : State) (k : Nat) (t : Thread) : (s.setThread k t).freed = s.freed := rfl
@[simp] theorem State.setThread_lrenews (s : State) (k : Nat) (t : Thread) : (s.setThread k t).lrenews = s.lrenews := rfl
@[simp] theorem State.setThread_sflushes (s : State) (k : Nat) (t : Thread) : (s.setThread k t).sflushes = s.sflushes := rfl
@[simp] theorem State.setThread_memory (s : State) (k : Nat) (t : Thread) : (s.setThread k t).memory = s.memory := rfl
@[simp] theorem State.setThread_hostMemory (s : State) (k : Nat) (t : Thread) : (s.setThread k t).hostMemory = s.hostMemory := rfl
@[simp] theorem State.setThread_poison (s : State) (k : Nat) (t : Thread) : (s.setThread k t).poison = s.poison := rfl
@[simp] theorem State.setThread_misses (s : State) (k : Nat) (t : Thread) : (s.setThread k t).misses = s.misses := rfl
@[simp] theorem State.setThread_walkCaches (s : State) (k : Nat) (t : Thread) : (s.setThread k t).walkCaches = s.walkCaches := rfl
@[simp] theorem State.setThread_walks (s : State) (k : Nat) (t : Thread) : (s.setThread k t).walks = s.walks := rfl
@[simp] theorem State.setThread_tickets (s : State) (k : Nat) (t : Thread) : (s.setThread k t).tickets = s.tickets := rfl
@[simp] theorem State.setThread_nextTicket (s : State) (k : Nat) (t : Thread) : (s.setThread k t).nextTicket = s.nextTicket := rfl
@[simp] theorem State.setThread_tiles (s : State) (k : Nat) (t : Thread) : (s.setThread k t).tiles = s.tiles := rfl
@[simp] theorem State.setThread_tileWords (s : State) (k : Nat) (t : Thread) : (s.setThread k t).tileWords = s.tileWords := rfl
@[simp] theorem State.setThread_bank (s : State) (k : Nat) (t : Thread) : (s.setThread k t).bank = s.bank := rfl
@[simp] theorem State.setThread_copies (s : State) (k : Nat) (t : Thread) : (s.setThread k t).copies = s.copies := rfl
@[simp] theorem State.setThread_queuesMat (s : State) (k : Nat) (t : Thread) : (s.setThread k t).queuesMat = s.queuesMat := rfl
@[simp] theorem State.setThread_partials (s : State) (k : Nat) (t : Thread) : (s.setThread k t).partials = s.partials := rfl
@[simp] theorem State.setThread_swaps (s : State) (k : Nat) (t : Thread) : (s.setThread k t).swaps = s.swaps := rfl
@[simp] theorem State.setThread_contexts (s : State) (k : Nat) (t : Thread) : (s.setThread k t).contexts = s.contexts := rfl
@[simp] theorem State.setThread_launches (s : State) (k : Nat) (t : Thread) : (s.setThread k t).launches = s.launches := rfl
@[simp] theorem State.setThread_blocks (s : State) (k : Nat) (t : Thread) : (s.setThread k t).blocks = s.blocks := rfl
@[simp] theorem State.setThread_saved (s : State) (k : Nat) (t : Thread) : (s.setThread k t).saved = s.saved := rfl
@[simp] theorem State.setThread_packets (s : State) (k : Nat) (t : Thread) : (s.setThread k t).packets = s.packets := rfl
@[simp] theorem State.setThread_successors (s : State) (k : Nat) (t : Thread) : (s.setThread k t).successors = s.successors := rfl
@[simp] theorem State.setThread_placed (s : State) (k : Nat) (t : Thread) : (s.setThread k t).placed = s.placed := rfl
@[simp] theorem State.setThread_remoteClaims (s : State) (k : Nat) (t : Thread) : (s.setThread k t).remoteClaims = s.remoteClaims := rfl
@[simp] theorem State.setThread_lastServed (s : State) (k : Nat) (t : Thread) : (s.setThread k t).lastServed = s.lastServed := rfl
@[simp] theorem State.setThread_signals (s : State) (k : Nat) (t : Thread) : (s.setThread k t).signals = s.signals := rfl
@[simp] theorem State.setThread_harnessWaits (s : State) (k : Nat) (t : Thread) : (s.setThread k t).harnessWaits = s.harnessWaits := rfl
@[simp] theorem State.setThread_heldReports (s : State) (k : Nat) (t : Thread) : (s.setThread k t).heldReports = s.heldReports := rfl
@[simp] theorem State.setThread_wbqs (s : State) (k : Nat) (t : Thread) : (s.setThread k t).wbqs = s.wbqs := rfl
@[simp] theorem State.setThread_ops (s : State) (k : Nat) (t : Thread) : (s.setThread k t).ops = s.ops := rfl
@[simp] theorem State.setThread_epoch (s : State) (k : Nat) (t : Thread) : (s.setThread k t).epoch = s.epoch := rfl
@[simp] theorem State.setThread_pfences (s : State) (k : Nat) (t : Thread) : (s.setThread k t).pfences = s.pfences := rfl
@[simp] theorem State.setThread_scm (s : State) (k : Nat) (t : Thread) : (s.setThread k t).scm = s.scm := rfl
@[simp] theorem State.setThread_captures (s : State) (k : Nat) (t : Thread) : (s.setThread k t).captures = s.captures := rfl
@[simp] theorem State.setThread_stableSlots (s : State) (k : Nat) (t : Thread) : (s.setThread k t).stableSlots = s.stableSlots := rfl
@[simp] theorem State.setThread_fragments (s : State) (k : Nat) (t : Thread) : (s.setThread k t).fragments = s.fragments := rfl
@[simp] theorem State.setThread_digests (s : State) (k : Nat) (t : Thread) : (s.setThread k t).digests = s.digests := rfl
@[simp] theorem State.setThread_ports (s : State) (k : Nat) (t : Thread) : (s.setThread k t).ports = s.ports := rfl
@[simp] theorem State.setThread_received (s : State) (k : Nat) (t : Thread) : (s.setThread k t).received = s.received := rfl
@[simp] theorem State.setThread_outbox (s : State) (k : Nat) (t : Thread) : (s.setThread k t).outbox = s.outbox := rfl
@[simp] theorem State.setThread_peers (s : State) (k : Nat) (t : Thread) : (s.setThread k t).peers = s.peers := rfl
@[simp] theorem State.setThread_answered (s : State) (k : Nat) (t : Thread) : (s.setThread k t).answered = s.answered := rfl
@[simp] theorem State.setThread_code (s : State) (k : Nat) (t : Thread) : (s.setThread k t).code = s.code := rfl
@[simp] theorem State.setThread_notices (s : State) (k : Nat) (t : Thread) : (s.setThread k t).notices = s.notices := rfl
@[simp] theorem State.setThread_runs (s : State) (k : Nat) (t : Thread) : (s.setThread k t).runs = s.runs := rfl
@[simp] theorem State.setThread_collLoads (s : State) (k : Nat) (t : Thread) : (s.setThread k t).collLoads = s.collLoads := rfl
@[simp] theorem State.setThread_repartIssues (s : State) (k : Nat) (t : Thread) : (s.setThread k t).repartIssues = s.repartIssues := rfl
@[simp] theorem State.setThread_dumps (s : State) (k : Nat) (t : Thread) : (s.setThread k t).dumps = s.dumps := rfl
@[simp] theorem State.setThread_tests (s : State) (k : Nat) (t : Thread) : (s.setThread k t).tests = s.tests := rfl
@[simp] theorem State.setThread_preempting (s : State) (k : Nat) (t : Thread) : (s.setThread k t).preempting = s.preempting := rfl
@[simp] theorem State.setThread_arrlog (s : State) (k : Nat) (t : Thread) : (s.setThread k t).arrlog = s.arrlog := rfl
@[simp] theorem State.setThread_xfrlog (s : State) (k : Nat) (t : Thread) : (s.setThread k t).xfrlog = s.xfrlog := rfl
@[simp] theorem State.setThread_faillog (s : State) (k : Nat) (t : Thread) : (s.setThread k t).faillog = s.faillog := rfl
@[simp] theorem State.setThread_fusedMap (s : State) (k : Nat) (t : Thread) : (s.setThread k t).fusedMap = s.fusedMap := rfl
@[simp] theorem State.setThread_serviceMap (s : State) (k : Nat) (t : Thread) : (s.setThread k t).serviceMap = s.serviceMap := rfl
@[simp] theorem State.setThread_temps (s : State) (k : Nat) (t : Thread) : (s.setThread k t).temps = s.temps := rfl
@[simp] theorem State.setThread_selfRefresh (s : State) (k : Nat) (t : Thread) : (s.setThread k t).selfRefresh = s.selfRefresh := rfl
@[simp] theorem State.setThread_fencedPcs (s : State) (k : Nat) (t : Thread) : (s.setThread k t).fencedPcs = s.fencedPcs := rfl
@[simp] theorem State.setThread_freezeOrder (s : State) (k : Nat) (t : Thread) : (s.setThread k t).freezeOrder = s.freezeOrder := rfl
@[simp] theorem State.setThread_regs (s : State) (k : Nat) (t : Thread) : (s.setThread k t).regs = s.regs := rfl

/-! ### updThread -/

@[simp] theorem State.updThread_agenda (s : State) (k : Nat) (f : Thread → Thread) : (s.updThread k f).agenda = s.agenda := rfl
@[simp] theorem State.updThread_tick (s : State) (k : Nat) (f : Thread → Thread) : (s.updThread k f).tick = s.tick := rfl
@[simp] theorem State.updThread_serial (s : State) (k : Nat) (f : Thread → Thread) : (s.updThread k f).serial = s.serial := rfl
@[simp] theorem State.updThread_issuing (s : State) (k : Nat) (f : Thread → Thread) : (s.updThread k f).issuing = s.issuing := rfl
@[simp] theorem State.updThread_timebase (s : State) (k : Nat) (f : Thread → Thread) : (s.updThread k f).timebase = s.timebase := rfl
@[simp] theorem State.updThread_pkg (s : State) (k : Nat) (f : Thread → Thread) : (s.updThread k f).pkg = s.pkg := rfl
@[simp] theorem State.updThread_domain (s : State) (k : Nat) (f : Thread → Thread) : (s.updThread k f).domain = s.domain := rfl
@[simp] theorem State.updThread_failed (s : State) (k : Nat) (f : Thread → Thread) : (s.updThread k f).failed = s.failed := rfl
@[simp] theorem State.updThread_threads (s : State) (k : Nat) (f : Thread → Thread) : (s.updThread k f).threads = s.threads.adjust k f := rfl
@[simp] theorem State.updThread_groups (s : State) (k : Nat) (f : Thread → Thread) : (s.updThread k f).groups = s.groups := rfl
@[simp] theorem State.updThread_units (s : State) (k : Nat) (f : Thread → Thread) : (s.updThread k f).units = s.units := rfl
@[simp] theorem State.updThread_cores (s : State) (k : Nat) (f : Thread → Thread) : (s.updThread k f).cores = s.cores := rfl
@[simp] theorem State.updThread_records (s : State) (k : Nat) (f : Thread → Thread) : (s.updThread k f).records = s.records := rfl
@[simp] theorem State.updThread_lines (s : State) (k : Nat) (f : Thread → Thread) : (s.updThread k f).lines = s.lines := rfl
@[simp] theorem State.updThread_larder (s : State) (k : Nat) (f : Thread → Thread) : (s.updThread k f).larder = s.larder := rfl
@[simp] theorem State.updThread_freed (s : State) (k : Nat) (f : Thread → Thread) : (s.updThread k f).freed = s.freed := rfl
@[simp] theorem State.updThread_lrenews (s : State) (k : Nat) (f : Thread → Thread) : (s.updThread k f).lrenews = s.lrenews := rfl
@[simp] theorem State.updThread_sflushes (s : State) (k : Nat) (f : Thread → Thread) : (s.updThread k f).sflushes = s.sflushes := rfl
@[simp] theorem State.updThread_memory (s : State) (k : Nat) (f : Thread → Thread) : (s.updThread k f).memory = s.memory := rfl
@[simp] theorem State.updThread_hostMemory (s : State) (k : Nat) (f : Thread → Thread) : (s.updThread k f).hostMemory = s.hostMemory := rfl
@[simp] theorem State.updThread_poison (s : State) (k : Nat) (f : Thread → Thread) : (s.updThread k f).poison = s.poison := rfl
@[simp] theorem State.updThread_misses (s : State) (k : Nat) (f : Thread → Thread) : (s.updThread k f).misses = s.misses := rfl
@[simp] theorem State.updThread_walkCaches (s : State) (k : Nat) (f : Thread → Thread) : (s.updThread k f).walkCaches = s.walkCaches := rfl
@[simp] theorem State.updThread_walks (s : State) (k : Nat) (f : Thread → Thread) : (s.updThread k f).walks = s.walks := rfl
@[simp] theorem State.updThread_tickets (s : State) (k : Nat) (f : Thread → Thread) : (s.updThread k f).tickets = s.tickets := rfl
@[simp] theorem State.updThread_nextTicket (s : State) (k : Nat) (f : Thread → Thread) : (s.updThread k f).nextTicket = s.nextTicket := rfl
@[simp] theorem State.updThread_tiles (s : State) (k : Nat) (f : Thread → Thread) : (s.updThread k f).tiles = s.tiles := rfl
@[simp] theorem State.updThread_tileWords (s : State) (k : Nat) (f : Thread → Thread) : (s.updThread k f).tileWords = s.tileWords := rfl
@[simp] theorem State.updThread_bank (s : State) (k : Nat) (f : Thread → Thread) : (s.updThread k f).bank = s.bank := rfl
@[simp] theorem State.updThread_copies (s : State) (k : Nat) (f : Thread → Thread) : (s.updThread k f).copies = s.copies := rfl
@[simp] theorem State.updThread_queuesMat (s : State) (k : Nat) (f : Thread → Thread) : (s.updThread k f).queuesMat = s.queuesMat := rfl
@[simp] theorem State.updThread_partials (s : State) (k : Nat) (f : Thread → Thread) : (s.updThread k f).partials = s.partials := rfl
@[simp] theorem State.updThread_swaps (s : State) (k : Nat) (f : Thread → Thread) : (s.updThread k f).swaps = s.swaps := rfl
@[simp] theorem State.updThread_contexts (s : State) (k : Nat) (f : Thread → Thread) : (s.updThread k f).contexts = s.contexts := rfl
@[simp] theorem State.updThread_launches (s : State) (k : Nat) (f : Thread → Thread) : (s.updThread k f).launches = s.launches := rfl
@[simp] theorem State.updThread_blocks (s : State) (k : Nat) (f : Thread → Thread) : (s.updThread k f).blocks = s.blocks := rfl
@[simp] theorem State.updThread_saved (s : State) (k : Nat) (f : Thread → Thread) : (s.updThread k f).saved = s.saved := rfl
@[simp] theorem State.updThread_packets (s : State) (k : Nat) (f : Thread → Thread) : (s.updThread k f).packets = s.packets := rfl
@[simp] theorem State.updThread_successors (s : State) (k : Nat) (f : Thread → Thread) : (s.updThread k f).successors = s.successors := rfl
@[simp] theorem State.updThread_placed (s : State) (k : Nat) (f : Thread → Thread) : (s.updThread k f).placed = s.placed := rfl
@[simp] theorem State.updThread_remoteClaims (s : State) (k : Nat) (f : Thread → Thread) : (s.updThread k f).remoteClaims = s.remoteClaims := rfl
@[simp] theorem State.updThread_lastServed (s : State) (k : Nat) (f : Thread → Thread) : (s.updThread k f).lastServed = s.lastServed := rfl
@[simp] theorem State.updThread_signals (s : State) (k : Nat) (f : Thread → Thread) : (s.updThread k f).signals = s.signals := rfl
@[simp] theorem State.updThread_harnessWaits (s : State) (k : Nat) (f : Thread → Thread) : (s.updThread k f).harnessWaits = s.harnessWaits := rfl
@[simp] theorem State.updThread_heldReports (s : State) (k : Nat) (f : Thread → Thread) : (s.updThread k f).heldReports = s.heldReports := rfl
@[simp] theorem State.updThread_wbqs (s : State) (k : Nat) (f : Thread → Thread) : (s.updThread k f).wbqs = s.wbqs := rfl
@[simp] theorem State.updThread_ops (s : State) (k : Nat) (f : Thread → Thread) : (s.updThread k f).ops = s.ops := rfl
@[simp] theorem State.updThread_epoch (s : State) (k : Nat) (f : Thread → Thread) : (s.updThread k f).epoch = s.epoch := rfl
@[simp] theorem State.updThread_pfences (s : State) (k : Nat) (f : Thread → Thread) : (s.updThread k f).pfences = s.pfences := rfl
@[simp] theorem State.updThread_scm (s : State) (k : Nat) (f : Thread → Thread) : (s.updThread k f).scm = s.scm := rfl
@[simp] theorem State.updThread_captures (s : State) (k : Nat) (f : Thread → Thread) : (s.updThread k f).captures = s.captures := rfl
@[simp] theorem State.updThread_stableSlots (s : State) (k : Nat) (f : Thread → Thread) : (s.updThread k f).stableSlots = s.stableSlots := rfl
@[simp] theorem State.updThread_fragments (s : State) (k : Nat) (f : Thread → Thread) : (s.updThread k f).fragments = s.fragments := rfl
@[simp] theorem State.updThread_digests (s : State) (k : Nat) (f : Thread → Thread) : (s.updThread k f).digests = s.digests := rfl
@[simp] theorem State.updThread_ports (s : State) (k : Nat) (f : Thread → Thread) : (s.updThread k f).ports = s.ports := rfl
@[simp] theorem State.updThread_received (s : State) (k : Nat) (f : Thread → Thread) : (s.updThread k f).received = s.received := rfl
@[simp] theorem State.updThread_outbox (s : State) (k : Nat) (f : Thread → Thread) : (s.updThread k f).outbox = s.outbox := rfl
@[simp] theorem State.updThread_peers (s : State) (k : Nat) (f : Thread → Thread) : (s.updThread k f).peers = s.peers := rfl
@[simp] theorem State.updThread_answered (s : State) (k : Nat) (f : Thread → Thread) : (s.updThread k f).answered = s.answered := rfl
@[simp] theorem State.updThread_code (s : State) (k : Nat) (f : Thread → Thread) : (s.updThread k f).code = s.code := rfl
@[simp] theorem State.updThread_notices (s : State) (k : Nat) (f : Thread → Thread) : (s.updThread k f).notices = s.notices := rfl
@[simp] theorem State.updThread_runs (s : State) (k : Nat) (f : Thread → Thread) : (s.updThread k f).runs = s.runs := rfl
@[simp] theorem State.updThread_collLoads (s : State) (k : Nat) (f : Thread → Thread) : (s.updThread k f).collLoads = s.collLoads := rfl
@[simp] theorem State.updThread_repartIssues (s : State) (k : Nat) (f : Thread → Thread) : (s.updThread k f).repartIssues = s.repartIssues := rfl
@[simp] theorem State.updThread_dumps (s : State) (k : Nat) (f : Thread → Thread) : (s.updThread k f).dumps = s.dumps := rfl
@[simp] theorem State.updThread_tests (s : State) (k : Nat) (f : Thread → Thread) : (s.updThread k f).tests = s.tests := rfl
@[simp] theorem State.updThread_preempting (s : State) (k : Nat) (f : Thread → Thread) : (s.updThread k f).preempting = s.preempting := rfl
@[simp] theorem State.updThread_arrlog (s : State) (k : Nat) (f : Thread → Thread) : (s.updThread k f).arrlog = s.arrlog := rfl
@[simp] theorem State.updThread_xfrlog (s : State) (k : Nat) (f : Thread → Thread) : (s.updThread k f).xfrlog = s.xfrlog := rfl
@[simp] theorem State.updThread_faillog (s : State) (k : Nat) (f : Thread → Thread) : (s.updThread k f).faillog = s.faillog := rfl
@[simp] theorem State.updThread_fusedMap (s : State) (k : Nat) (f : Thread → Thread) : (s.updThread k f).fusedMap = s.fusedMap := rfl
@[simp] theorem State.updThread_serviceMap (s : State) (k : Nat) (f : Thread → Thread) : (s.updThread k f).serviceMap = s.serviceMap := rfl
@[simp] theorem State.updThread_temps (s : State) (k : Nat) (f : Thread → Thread) : (s.updThread k f).temps = s.temps := rfl
@[simp] theorem State.updThread_selfRefresh (s : State) (k : Nat) (f : Thread → Thread) : (s.updThread k f).selfRefresh = s.selfRefresh := rfl
@[simp] theorem State.updThread_fencedPcs (s : State) (k : Nat) (f : Thread → Thread) : (s.updThread k f).fencedPcs = s.fencedPcs := rfl
@[simp] theorem State.updThread_freezeOrder (s : State) (k : Nat) (f : Thread → Thread) : (s.updThread k f).freezeOrder = s.freezeOrder := rfl
@[simp] theorem State.updThread_regs (s : State) (k : Nat) (f : Thread → Thread) : (s.updThread k f).regs = s.regs := rfl

/-! ### setUnit -/

@[simp] theorem State.setUnit_agenda (s : State) (u : Nat) (v : SimdUnit) : (s.setUnit u v).agenda = s.agenda := rfl
@[simp] theorem State.setUnit_tick (s : State) (u : Nat) (v : SimdUnit) : (s.setUnit u v).tick = s.tick := rfl
@[simp] theorem State.setUnit_serial (s : State) (u : Nat) (v : SimdUnit) : (s.setUnit u v).serial = s.serial := rfl
@[simp] theorem State.setUnit_issuing (s : State) (u : Nat) (v : SimdUnit) : (s.setUnit u v).issuing = s.issuing := rfl
@[simp] theorem State.setUnit_timebase (s : State) (u : Nat) (v : SimdUnit) : (s.setUnit u v).timebase = s.timebase := rfl
@[simp] theorem State.setUnit_pkg (s : State) (u : Nat) (v : SimdUnit) : (s.setUnit u v).pkg = s.pkg := rfl
@[simp] theorem State.setUnit_domain (s : State) (u : Nat) (v : SimdUnit) : (s.setUnit u v).domain = s.domain := rfl
@[simp] theorem State.setUnit_failed (s : State) (u : Nat) (v : SimdUnit) : (s.setUnit u v).failed = s.failed := rfl
@[simp] theorem State.setUnit_threads (s : State) (u : Nat) (v : SimdUnit) : (s.setUnit u v).threads = s.threads := rfl
@[simp] theorem State.setUnit_groups (s : State) (u : Nat) (v : SimdUnit) : (s.setUnit u v).groups = s.groups := rfl
@[simp] theorem State.setUnit_units (s : State) (u : Nat) (v : SimdUnit) : (s.setUnit u v).units = s.units.ins u v := rfl
@[simp] theorem State.setUnit_cores (s : State) (u : Nat) (v : SimdUnit) : (s.setUnit u v).cores = s.cores := rfl
@[simp] theorem State.setUnit_records (s : State) (u : Nat) (v : SimdUnit) : (s.setUnit u v).records = s.records := rfl
@[simp] theorem State.setUnit_lines (s : State) (u : Nat) (v : SimdUnit) : (s.setUnit u v).lines = s.lines := rfl
@[simp] theorem State.setUnit_larder (s : State) (u : Nat) (v : SimdUnit) : (s.setUnit u v).larder = s.larder := rfl
@[simp] theorem State.setUnit_freed (s : State) (u : Nat) (v : SimdUnit) : (s.setUnit u v).freed = s.freed := rfl
@[simp] theorem State.setUnit_lrenews (s : State) (u : Nat) (v : SimdUnit) : (s.setUnit u v).lrenews = s.lrenews := rfl
@[simp] theorem State.setUnit_sflushes (s : State) (u : Nat) (v : SimdUnit) : (s.setUnit u v).sflushes = s.sflushes := rfl
@[simp] theorem State.setUnit_memory (s : State) (u : Nat) (v : SimdUnit) : (s.setUnit u v).memory = s.memory := rfl
@[simp] theorem State.setUnit_hostMemory (s : State) (u : Nat) (v : SimdUnit) : (s.setUnit u v).hostMemory = s.hostMemory := rfl
@[simp] theorem State.setUnit_poison (s : State) (u : Nat) (v : SimdUnit) : (s.setUnit u v).poison = s.poison := rfl
@[simp] theorem State.setUnit_misses (s : State) (u : Nat) (v : SimdUnit) : (s.setUnit u v).misses = s.misses := rfl
@[simp] theorem State.setUnit_walkCaches (s : State) (u : Nat) (v : SimdUnit) : (s.setUnit u v).walkCaches = s.walkCaches := rfl
@[simp] theorem State.setUnit_walks (s : State) (u : Nat) (v : SimdUnit) : (s.setUnit u v).walks = s.walks := rfl
@[simp] theorem State.setUnit_tickets (s : State) (u : Nat) (v : SimdUnit) : (s.setUnit u v).tickets = s.tickets := rfl
@[simp] theorem State.setUnit_nextTicket (s : State) (u : Nat) (v : SimdUnit) : (s.setUnit u v).nextTicket = s.nextTicket := rfl
@[simp] theorem State.setUnit_tiles (s : State) (u : Nat) (v : SimdUnit) : (s.setUnit u v).tiles = s.tiles := rfl
@[simp] theorem State.setUnit_tileWords (s : State) (u : Nat) (v : SimdUnit) : (s.setUnit u v).tileWords = s.tileWords := rfl
@[simp] theorem State.setUnit_bank (s : State) (u : Nat) (v : SimdUnit) : (s.setUnit u v).bank = s.bank := rfl
@[simp] theorem State.setUnit_copies (s : State) (u : Nat) (v : SimdUnit) : (s.setUnit u v).copies = s.copies := rfl
@[simp] theorem State.setUnit_queuesMat (s : State) (u : Nat) (v : SimdUnit) : (s.setUnit u v).queuesMat = s.queuesMat := rfl
@[simp] theorem State.setUnit_partials (s : State) (u : Nat) (v : SimdUnit) : (s.setUnit u v).partials = s.partials := rfl
@[simp] theorem State.setUnit_swaps (s : State) (u : Nat) (v : SimdUnit) : (s.setUnit u v).swaps = s.swaps := rfl
@[simp] theorem State.setUnit_contexts (s : State) (u : Nat) (v : SimdUnit) : (s.setUnit u v).contexts = s.contexts := rfl
@[simp] theorem State.setUnit_launches (s : State) (u : Nat) (v : SimdUnit) : (s.setUnit u v).launches = s.launches := rfl
@[simp] theorem State.setUnit_blocks (s : State) (u : Nat) (v : SimdUnit) : (s.setUnit u v).blocks = s.blocks := rfl
@[simp] theorem State.setUnit_saved (s : State) (u : Nat) (v : SimdUnit) : (s.setUnit u v).saved = s.saved := rfl
@[simp] theorem State.setUnit_packets (s : State) (u : Nat) (v : SimdUnit) : (s.setUnit u v).packets = s.packets := rfl
@[simp] theorem State.setUnit_successors (s : State) (u : Nat) (v : SimdUnit) : (s.setUnit u v).successors = s.successors := rfl
@[simp] theorem State.setUnit_placed (s : State) (u : Nat) (v : SimdUnit) : (s.setUnit u v).placed = s.placed := rfl
@[simp] theorem State.setUnit_remoteClaims (s : State) (u : Nat) (v : SimdUnit) : (s.setUnit u v).remoteClaims = s.remoteClaims := rfl
@[simp] theorem State.setUnit_lastServed (s : State) (u : Nat) (v : SimdUnit) : (s.setUnit u v).lastServed = s.lastServed := rfl
@[simp] theorem State.setUnit_signals (s : State) (u : Nat) (v : SimdUnit) : (s.setUnit u v).signals = s.signals := rfl
@[simp] theorem State.setUnit_harnessWaits (s : State) (u : Nat) (v : SimdUnit) : (s.setUnit u v).harnessWaits = s.harnessWaits := rfl
@[simp] theorem State.setUnit_heldReports (s : State) (u : Nat) (v : SimdUnit) : (s.setUnit u v).heldReports = s.heldReports := rfl
@[simp] theorem State.setUnit_wbqs (s : State) (u : Nat) (v : SimdUnit) : (s.setUnit u v).wbqs = s.wbqs := rfl
@[simp] theorem State.setUnit_ops (s : State) (u : Nat) (v : SimdUnit) : (s.setUnit u v).ops = s.ops := rfl
@[simp] theorem State.setUnit_epoch (s : State) (u : Nat) (v : SimdUnit) : (s.setUnit u v).epoch = s.epoch := rfl
@[simp] theorem State.setUnit_pfences (s : State) (u : Nat) (v : SimdUnit) : (s.setUnit u v).pfences = s.pfences := rfl
@[simp] theorem State.setUnit_scm (s : State) (u : Nat) (v : SimdUnit) : (s.setUnit u v).scm = s.scm := rfl
@[simp] theorem State.setUnit_captures (s : State) (u : Nat) (v : SimdUnit) : (s.setUnit u v).captures = s.captures := rfl
@[simp] theorem State.setUnit_stableSlots (s : State) (u : Nat) (v : SimdUnit) : (s.setUnit u v).stableSlots = s.stableSlots := rfl
@[simp] theorem State.setUnit_fragments (s : State) (u : Nat) (v : SimdUnit) : (s.setUnit u v).fragments = s.fragments := rfl
@[simp] theorem State.setUnit_digests (s : State) (u : Nat) (v : SimdUnit) : (s.setUnit u v).digests = s.digests := rfl
@[simp] theorem State.setUnit_ports (s : State) (u : Nat) (v : SimdUnit) : (s.setUnit u v).ports = s.ports := rfl
@[simp] theorem State.setUnit_received (s : State) (u : Nat) (v : SimdUnit) : (s.setUnit u v).received = s.received := rfl
@[simp] theorem State.setUnit_outbox (s : State) (u : Nat) (v : SimdUnit) : (s.setUnit u v).outbox = s.outbox := rfl
@[simp] theorem State.setUnit_peers (s : State) (u : Nat) (v : SimdUnit) : (s.setUnit u v).peers = s.peers := rfl
@[simp] theorem State.setUnit_answered (s : State) (u : Nat) (v : SimdUnit) : (s.setUnit u v).answered = s.answered := rfl
@[simp] theorem State.setUnit_code (s : State) (u : Nat) (v : SimdUnit) : (s.setUnit u v).code = s.code := rfl
@[simp] theorem State.setUnit_notices (s : State) (u : Nat) (v : SimdUnit) : (s.setUnit u v).notices = s.notices := rfl
@[simp] theorem State.setUnit_runs (s : State) (u : Nat) (v : SimdUnit) : (s.setUnit u v).runs = s.runs := rfl
@[simp] theorem State.setUnit_collLoads (s : State) (u : Nat) (v : SimdUnit) : (s.setUnit u v).collLoads = s.collLoads := rfl
@[simp] theorem State.setUnit_repartIssues (s : State) (u : Nat) (v : SimdUnit) : (s.setUnit u v).repartIssues = s.repartIssues := rfl
@[simp] theorem State.setUnit_dumps (s : State) (u : Nat) (v : SimdUnit) : (s.setUnit u v).dumps = s.dumps := rfl
@[simp] theorem State.setUnit_tests (s : State) (u : Nat) (v : SimdUnit) : (s.setUnit u v).tests = s.tests := rfl
@[simp] theorem State.setUnit_preempting (s : State) (u : Nat) (v : SimdUnit) : (s.setUnit u v).preempting = s.preempting := rfl
@[simp] theorem State.setUnit_arrlog (s : State) (u : Nat) (v : SimdUnit) : (s.setUnit u v).arrlog = s.arrlog := rfl
@[simp] theorem State.setUnit_xfrlog (s : State) (u : Nat) (v : SimdUnit) : (s.setUnit u v).xfrlog = s.xfrlog := rfl
@[simp] theorem State.setUnit_faillog (s : State) (u : Nat) (v : SimdUnit) : (s.setUnit u v).faillog = s.faillog := rfl
@[simp] theorem State.setUnit_fusedMap (s : State) (u : Nat) (v : SimdUnit) : (s.setUnit u v).fusedMap = s.fusedMap := rfl
@[simp] theorem State.setUnit_serviceMap (s : State) (u : Nat) (v : SimdUnit) : (s.setUnit u v).serviceMap = s.serviceMap := rfl
@[simp] theorem State.setUnit_temps (s : State) (u : Nat) (v : SimdUnit) : (s.setUnit u v).temps = s.temps := rfl
@[simp] theorem State.setUnit_selfRefresh (s : State) (u : Nat) (v : SimdUnit) : (s.setUnit u v).selfRefresh = s.selfRefresh := rfl
@[simp] theorem State.setUnit_fencedPcs (s : State) (u : Nat) (v : SimdUnit) : (s.setUnit u v).fencedPcs = s.fencedPcs := rfl
@[simp] theorem State.setUnit_freezeOrder (s : State) (u : Nat) (v : SimdUnit) : (s.setUnit u v).freezeOrder = s.freezeOrder := rfl
@[simp] theorem State.setUnit_regs (s : State) (u : Nat) (v : SimdUnit) : (s.setUnit u v).regs = s.regs := rfl

/-! ### setCore -/

@[simp] theorem State.setCore_agenda (s : State) (c : Nat) (v : Core) : (s.setCore c v).agenda = s.agenda := rfl
@[simp] theorem State.setCore_tick (s : State) (c : Nat) (v : Core) : (s.setCore c v).tick = s.tick := rfl
@[simp] theorem State.setCore_serial (s : State) (c : Nat) (v : Core) : (s.setCore c v).serial = s.serial := rfl
@[simp] theorem State.setCore_issuing (s : State) (c : Nat) (v : Core) : (s.setCore c v).issuing = s.issuing := rfl
@[simp] theorem State.setCore_timebase (s : State) (c : Nat) (v : Core) : (s.setCore c v).timebase = s.timebase := rfl
@[simp] theorem State.setCore_pkg (s : State) (c : Nat) (v : Core) : (s.setCore c v).pkg = s.pkg := rfl
@[simp] theorem State.setCore_domain (s : State) (c : Nat) (v : Core) : (s.setCore c v).domain = s.domain := rfl
@[simp] theorem State.setCore_failed (s : State) (c : Nat) (v : Core) : (s.setCore c v).failed = s.failed := rfl
@[simp] theorem State.setCore_threads (s : State) (c : Nat) (v : Core) : (s.setCore c v).threads = s.threads := rfl
@[simp] theorem State.setCore_groups (s : State) (c : Nat) (v : Core) : (s.setCore c v).groups = s.groups := rfl
@[simp] theorem State.setCore_units (s : State) (c : Nat) (v : Core) : (s.setCore c v).units = s.units := rfl
@[simp] theorem State.setCore_cores (s : State) (c : Nat) (v : Core) : (s.setCore c v).cores = s.cores.ins c v := rfl
@[simp] theorem State.setCore_records (s : State) (c : Nat) (v : Core) : (s.setCore c v).records = s.records := rfl
@[simp] theorem State.setCore_lines (s : State) (c : Nat) (v : Core) : (s.setCore c v).lines = s.lines := rfl
@[simp] theorem State.setCore_larder (s : State) (c : Nat) (v : Core) : (s.setCore c v).larder = s.larder := rfl
@[simp] theorem State.setCore_freed (s : State) (c : Nat) (v : Core) : (s.setCore c v).freed = s.freed := rfl
@[simp] theorem State.setCore_lrenews (s : State) (c : Nat) (v : Core) : (s.setCore c v).lrenews = s.lrenews := rfl
@[simp] theorem State.setCore_sflushes (s : State) (c : Nat) (v : Core) : (s.setCore c v).sflushes = s.sflushes := rfl
@[simp] theorem State.setCore_memory (s : State) (c : Nat) (v : Core) : (s.setCore c v).memory = s.memory := rfl
@[simp] theorem State.setCore_hostMemory (s : State) (c : Nat) (v : Core) : (s.setCore c v).hostMemory = s.hostMemory := rfl
@[simp] theorem State.setCore_poison (s : State) (c : Nat) (v : Core) : (s.setCore c v).poison = s.poison := rfl
@[simp] theorem State.setCore_misses (s : State) (c : Nat) (v : Core) : (s.setCore c v).misses = s.misses := rfl
@[simp] theorem State.setCore_walkCaches (s : State) (c : Nat) (v : Core) : (s.setCore c v).walkCaches = s.walkCaches := rfl
@[simp] theorem State.setCore_walks (s : State) (c : Nat) (v : Core) : (s.setCore c v).walks = s.walks := rfl
@[simp] theorem State.setCore_tickets (s : State) (c : Nat) (v : Core) : (s.setCore c v).tickets = s.tickets := rfl
@[simp] theorem State.setCore_nextTicket (s : State) (c : Nat) (v : Core) : (s.setCore c v).nextTicket = s.nextTicket := rfl
@[simp] theorem State.setCore_tiles (s : State) (c : Nat) (v : Core) : (s.setCore c v).tiles = s.tiles := rfl
@[simp] theorem State.setCore_tileWords (s : State) (c : Nat) (v : Core) : (s.setCore c v).tileWords = s.tileWords := rfl
@[simp] theorem State.setCore_bank (s : State) (c : Nat) (v : Core) : (s.setCore c v).bank = s.bank := rfl
@[simp] theorem State.setCore_copies (s : State) (c : Nat) (v : Core) : (s.setCore c v).copies = s.copies := rfl
@[simp] theorem State.setCore_queuesMat (s : State) (c : Nat) (v : Core) : (s.setCore c v).queuesMat = s.queuesMat := rfl
@[simp] theorem State.setCore_partials (s : State) (c : Nat) (v : Core) : (s.setCore c v).partials = s.partials := rfl
@[simp] theorem State.setCore_swaps (s : State) (c : Nat) (v : Core) : (s.setCore c v).swaps = s.swaps := rfl
@[simp] theorem State.setCore_contexts (s : State) (c : Nat) (v : Core) : (s.setCore c v).contexts = s.contexts := rfl
@[simp] theorem State.setCore_launches (s : State) (c : Nat) (v : Core) : (s.setCore c v).launches = s.launches := rfl
@[simp] theorem State.setCore_blocks (s : State) (c : Nat) (v : Core) : (s.setCore c v).blocks = s.blocks := rfl
@[simp] theorem State.setCore_saved (s : State) (c : Nat) (v : Core) : (s.setCore c v).saved = s.saved := rfl
@[simp] theorem State.setCore_packets (s : State) (c : Nat) (v : Core) : (s.setCore c v).packets = s.packets := rfl
@[simp] theorem State.setCore_successors (s : State) (c : Nat) (v : Core) : (s.setCore c v).successors = s.successors := rfl
@[simp] theorem State.setCore_placed (s : State) (c : Nat) (v : Core) : (s.setCore c v).placed = s.placed := rfl
@[simp] theorem State.setCore_remoteClaims (s : State) (c : Nat) (v : Core) : (s.setCore c v).remoteClaims = s.remoteClaims := rfl
@[simp] theorem State.setCore_lastServed (s : State) (c : Nat) (v : Core) : (s.setCore c v).lastServed = s.lastServed := rfl
@[simp] theorem State.setCore_signals (s : State) (c : Nat) (v : Core) : (s.setCore c v).signals = s.signals := rfl
@[simp] theorem State.setCore_harnessWaits (s : State) (c : Nat) (v : Core) : (s.setCore c v).harnessWaits = s.harnessWaits := rfl
@[simp] theorem State.setCore_heldReports (s : State) (c : Nat) (v : Core) : (s.setCore c v).heldReports = s.heldReports := rfl
@[simp] theorem State.setCore_wbqs (s : State) (c : Nat) (v : Core) : (s.setCore c v).wbqs = s.wbqs := rfl
@[simp] theorem State.setCore_ops (s : State) (c : Nat) (v : Core) : (s.setCore c v).ops = s.ops := rfl
@[simp] theorem State.setCore_epoch (s : State) (c : Nat) (v : Core) : (s.setCore c v).epoch = s.epoch := rfl
@[simp] theorem State.setCore_pfences (s : State) (c : Nat) (v : Core) : (s.setCore c v).pfences = s.pfences := rfl
@[simp] theorem State.setCore_scm (s : State) (c : Nat) (v : Core) : (s.setCore c v).scm = s.scm := rfl
@[simp] theorem State.setCore_captures (s : State) (c : Nat) (v : Core) : (s.setCore c v).captures = s.captures := rfl
@[simp] theorem State.setCore_stableSlots (s : State) (c : Nat) (v : Core) : (s.setCore c v).stableSlots = s.stableSlots := rfl
@[simp] theorem State.setCore_fragments (s : State) (c : Nat) (v : Core) : (s.setCore c v).fragments = s.fragments := rfl
@[simp] theorem State.setCore_digests (s : State) (c : Nat) (v : Core) : (s.setCore c v).digests = s.digests := rfl
@[simp] theorem State.setCore_ports (s : State) (c : Nat) (v : Core) : (s.setCore c v).ports = s.ports := rfl
@[simp] theorem State.setCore_received (s : State) (c : Nat) (v : Core) : (s.setCore c v).received = s.received := rfl
@[simp] theorem State.setCore_outbox (s : State) (c : Nat) (v : Core) : (s.setCore c v).outbox = s.outbox := rfl
@[simp] theorem State.setCore_peers (s : State) (c : Nat) (v : Core) : (s.setCore c v).peers = s.peers := rfl
@[simp] theorem State.setCore_answered (s : State) (c : Nat) (v : Core) : (s.setCore c v).answered = s.answered := rfl
@[simp] theorem State.setCore_code (s : State) (c : Nat) (v : Core) : (s.setCore c v).code = s.code := rfl
@[simp] theorem State.setCore_notices (s : State) (c : Nat) (v : Core) : (s.setCore c v).notices = s.notices := rfl
@[simp] theorem State.setCore_runs (s : State) (c : Nat) (v : Core) : (s.setCore c v).runs = s.runs := rfl
@[simp] theorem State.setCore_collLoads (s : State) (c : Nat) (v : Core) : (s.setCore c v).collLoads = s.collLoads := rfl
@[simp] theorem State.setCore_repartIssues (s : State) (c : Nat) (v : Core) : (s.setCore c v).repartIssues = s.repartIssues := rfl
@[simp] theorem State.setCore_dumps (s : State) (c : Nat) (v : Core) : (s.setCore c v).dumps = s.dumps := rfl
@[simp] theorem State.setCore_tests (s : State) (c : Nat) (v : Core) : (s.setCore c v).tests = s.tests := rfl
@[simp] theorem State.setCore_preempting (s : State) (c : Nat) (v : Core) : (s.setCore c v).preempting = s.preempting := rfl
@[simp] theorem State.setCore_arrlog (s : State) (c : Nat) (v : Core) : (s.setCore c v).arrlog = s.arrlog := rfl
@[simp] theorem State.setCore_xfrlog (s : State) (c : Nat) (v : Core) : (s.setCore c v).xfrlog = s.xfrlog := rfl
@[simp] theorem State.setCore_faillog (s : State) (c : Nat) (v : Core) : (s.setCore c v).faillog = s.faillog := rfl
@[simp] theorem State.setCore_fusedMap (s : State) (c : Nat) (v : Core) : (s.setCore c v).fusedMap = s.fusedMap := rfl
@[simp] theorem State.setCore_serviceMap (s : State) (c : Nat) (v : Core) : (s.setCore c v).serviceMap = s.serviceMap := rfl
@[simp] theorem State.setCore_temps (s : State) (c : Nat) (v : Core) : (s.setCore c v).temps = s.temps := rfl
@[simp] theorem State.setCore_selfRefresh (s : State) (c : Nat) (v : Core) : (s.setCore c v).selfRefresh = s.selfRefresh := rfl
@[simp] theorem State.setCore_fencedPcs (s : State) (c : Nat) (v : Core) : (s.setCore c v).fencedPcs = s.fencedPcs := rfl
@[simp] theorem State.setCore_freezeOrder (s : State) (c : Nat) (v : Core) : (s.setCore c v).freezeOrder = s.freezeOrder := rfl
@[simp] theorem State.setCore_regs (s : State) (c : Nat) (v : Core) : (s.setCore c v).regs = s.regs := rfl

/-! ### updCore -/

@[simp] theorem State.updCore_agenda (s : State) (c : Nat) (f : Core → Core) : (s.updCore c f).agenda = s.agenda := rfl
@[simp] theorem State.updCore_tick (s : State) (c : Nat) (f : Core → Core) : (s.updCore c f).tick = s.tick := rfl
@[simp] theorem State.updCore_serial (s : State) (c : Nat) (f : Core → Core) : (s.updCore c f).serial = s.serial := rfl
@[simp] theorem State.updCore_issuing (s : State) (c : Nat) (f : Core → Core) : (s.updCore c f).issuing = s.issuing := rfl
@[simp] theorem State.updCore_timebase (s : State) (c : Nat) (f : Core → Core) : (s.updCore c f).timebase = s.timebase := rfl
@[simp] theorem State.updCore_pkg (s : State) (c : Nat) (f : Core → Core) : (s.updCore c f).pkg = s.pkg := rfl
@[simp] theorem State.updCore_domain (s : State) (c : Nat) (f : Core → Core) : (s.updCore c f).domain = s.domain := rfl
@[simp] theorem State.updCore_failed (s : State) (c : Nat) (f : Core → Core) : (s.updCore c f).failed = s.failed := rfl
@[simp] theorem State.updCore_threads (s : State) (c : Nat) (f : Core → Core) : (s.updCore c f).threads = s.threads := rfl
@[simp] theorem State.updCore_groups (s : State) (c : Nat) (f : Core → Core) : (s.updCore c f).groups = s.groups := rfl
@[simp] theorem State.updCore_units (s : State) (c : Nat) (f : Core → Core) : (s.updCore c f).units = s.units := rfl
@[simp] theorem State.updCore_cores (s : State) (c : Nat) (f : Core → Core) : (s.updCore c f).cores = s.cores.ins c (f (s.core c)) := rfl
@[simp] theorem State.updCore_records (s : State) (c : Nat) (f : Core → Core) : (s.updCore c f).records = s.records := rfl
@[simp] theorem State.updCore_lines (s : State) (c : Nat) (f : Core → Core) : (s.updCore c f).lines = s.lines := rfl
@[simp] theorem State.updCore_larder (s : State) (c : Nat) (f : Core → Core) : (s.updCore c f).larder = s.larder := rfl
@[simp] theorem State.updCore_freed (s : State) (c : Nat) (f : Core → Core) : (s.updCore c f).freed = s.freed := rfl
@[simp] theorem State.updCore_lrenews (s : State) (c : Nat) (f : Core → Core) : (s.updCore c f).lrenews = s.lrenews := rfl
@[simp] theorem State.updCore_sflushes (s : State) (c : Nat) (f : Core → Core) : (s.updCore c f).sflushes = s.sflushes := rfl
@[simp] theorem State.updCore_memory (s : State) (c : Nat) (f : Core → Core) : (s.updCore c f).memory = s.memory := rfl
@[simp] theorem State.updCore_hostMemory (s : State) (c : Nat) (f : Core → Core) : (s.updCore c f).hostMemory = s.hostMemory := rfl
@[simp] theorem State.updCore_poison (s : State) (c : Nat) (f : Core → Core) : (s.updCore c f).poison = s.poison := rfl
@[simp] theorem State.updCore_misses (s : State) (c : Nat) (f : Core → Core) : (s.updCore c f).misses = s.misses := rfl
@[simp] theorem State.updCore_walkCaches (s : State) (c : Nat) (f : Core → Core) : (s.updCore c f).walkCaches = s.walkCaches := rfl
@[simp] theorem State.updCore_walks (s : State) (c : Nat) (f : Core → Core) : (s.updCore c f).walks = s.walks := rfl
@[simp] theorem State.updCore_tickets (s : State) (c : Nat) (f : Core → Core) : (s.updCore c f).tickets = s.tickets := rfl
@[simp] theorem State.updCore_nextTicket (s : State) (c : Nat) (f : Core → Core) : (s.updCore c f).nextTicket = s.nextTicket := rfl
@[simp] theorem State.updCore_tiles (s : State) (c : Nat) (f : Core → Core) : (s.updCore c f).tiles = s.tiles := rfl
@[simp] theorem State.updCore_tileWords (s : State) (c : Nat) (f : Core → Core) : (s.updCore c f).tileWords = s.tileWords := rfl
@[simp] theorem State.updCore_bank (s : State) (c : Nat) (f : Core → Core) : (s.updCore c f).bank = s.bank := rfl
@[simp] theorem State.updCore_copies (s : State) (c : Nat) (f : Core → Core) : (s.updCore c f).copies = s.copies := rfl
@[simp] theorem State.updCore_queuesMat (s : State) (c : Nat) (f : Core → Core) : (s.updCore c f).queuesMat = s.queuesMat := rfl
@[simp] theorem State.updCore_partials (s : State) (c : Nat) (f : Core → Core) : (s.updCore c f).partials = s.partials := rfl
@[simp] theorem State.updCore_swaps (s : State) (c : Nat) (f : Core → Core) : (s.updCore c f).swaps = s.swaps := rfl
@[simp] theorem State.updCore_contexts (s : State) (c : Nat) (f : Core → Core) : (s.updCore c f).contexts = s.contexts := rfl
@[simp] theorem State.updCore_launches (s : State) (c : Nat) (f : Core → Core) : (s.updCore c f).launches = s.launches := rfl
@[simp] theorem State.updCore_blocks (s : State) (c : Nat) (f : Core → Core) : (s.updCore c f).blocks = s.blocks := rfl
@[simp] theorem State.updCore_saved (s : State) (c : Nat) (f : Core → Core) : (s.updCore c f).saved = s.saved := rfl
@[simp] theorem State.updCore_packets (s : State) (c : Nat) (f : Core → Core) : (s.updCore c f).packets = s.packets := rfl
@[simp] theorem State.updCore_successors (s : State) (c : Nat) (f : Core → Core) : (s.updCore c f).successors = s.successors := rfl
@[simp] theorem State.updCore_placed (s : State) (c : Nat) (f : Core → Core) : (s.updCore c f).placed = s.placed := rfl
@[simp] theorem State.updCore_remoteClaims (s : State) (c : Nat) (f : Core → Core) : (s.updCore c f).remoteClaims = s.remoteClaims := rfl
@[simp] theorem State.updCore_lastServed (s : State) (c : Nat) (f : Core → Core) : (s.updCore c f).lastServed = s.lastServed := rfl
@[simp] theorem State.updCore_signals (s : State) (c : Nat) (f : Core → Core) : (s.updCore c f).signals = s.signals := rfl
@[simp] theorem State.updCore_harnessWaits (s : State) (c : Nat) (f : Core → Core) : (s.updCore c f).harnessWaits = s.harnessWaits := rfl
@[simp] theorem State.updCore_heldReports (s : State) (c : Nat) (f : Core → Core) : (s.updCore c f).heldReports = s.heldReports := rfl
@[simp] theorem State.updCore_wbqs (s : State) (c : Nat) (f : Core → Core) : (s.updCore c f).wbqs = s.wbqs := rfl
@[simp] theorem State.updCore_ops (s : State) (c : Nat) (f : Core → Core) : (s.updCore c f).ops = s.ops := rfl
@[simp] theorem State.updCore_epoch (s : State) (c : Nat) (f : Core → Core) : (s.updCore c f).epoch = s.epoch := rfl
@[simp] theorem State.updCore_pfences (s : State) (c : Nat) (f : Core → Core) : (s.updCore c f).pfences = s.pfences := rfl
@[simp] theorem State.updCore_scm (s : State) (c : Nat) (f : Core → Core) : (s.updCore c f).scm = s.scm := rfl
@[simp] theorem State.updCore_captures (s : State) (c : Nat) (f : Core → Core) : (s.updCore c f).captures = s.captures := rfl
@[simp] theorem State.updCore_stableSlots (s : State) (c : Nat) (f : Core → Core) : (s.updCore c f).stableSlots = s.stableSlots := rfl
@[simp] theorem State.updCore_fragments (s : State) (c : Nat) (f : Core → Core) : (s.updCore c f).fragments = s.fragments := rfl
@[simp] theorem State.updCore_digests (s : State) (c : Nat) (f : Core → Core) : (s.updCore c f).digests = s.digests := rfl
@[simp] theorem State.updCore_ports (s : State) (c : Nat) (f : Core → Core) : (s.updCore c f).ports = s.ports := rfl
@[simp] theorem State.updCore_received (s : State) (c : Nat) (f : Core → Core) : (s.updCore c f).received = s.received := rfl
@[simp] theorem State.updCore_outbox (s : State) (c : Nat) (f : Core → Core) : (s.updCore c f).outbox = s.outbox := rfl
@[simp] theorem State.updCore_peers (s : State) (c : Nat) (f : Core → Core) : (s.updCore c f).peers = s.peers := rfl
@[simp] theorem State.updCore_answered (s : State) (c : Nat) (f : Core → Core) : (s.updCore c f).answered = s.answered := rfl
@[simp] theorem State.updCore_code (s : State) (c : Nat) (f : Core → Core) : (s.updCore c f).code = s.code := rfl
@[simp] theorem State.updCore_notices (s : State) (c : Nat) (f : Core → Core) : (s.updCore c f).notices = s.notices := rfl
@[simp] theorem State.updCore_runs (s : State) (c : Nat) (f : Core → Core) : (s.updCore c f).runs = s.runs := rfl
@[simp] theorem State.updCore_collLoads (s : State) (c : Nat) (f : Core → Core) : (s.updCore c f).collLoads = s.collLoads := rfl
@[simp] theorem State.updCore_repartIssues (s : State) (c : Nat) (f : Core → Core) : (s.updCore c f).repartIssues = s.repartIssues := rfl
@[simp] theorem State.updCore_dumps (s : State) (c : Nat) (f : Core → Core) : (s.updCore c f).dumps = s.dumps := rfl
@[simp] theorem State.updCore_tests (s : State) (c : Nat) (f : Core → Core) : (s.updCore c f).tests = s.tests := rfl
@[simp] theorem State.updCore_preempting (s : State) (c : Nat) (f : Core → Core) : (s.updCore c f).preempting = s.preempting := rfl
@[simp] theorem State.updCore_arrlog (s : State) (c : Nat) (f : Core → Core) : (s.updCore c f).arrlog = s.arrlog := rfl
@[simp] theorem State.updCore_xfrlog (s : State) (c : Nat) (f : Core → Core) : (s.updCore c f).xfrlog = s.xfrlog := rfl
@[simp] theorem State.updCore_faillog (s : State) (c : Nat) (f : Core → Core) : (s.updCore c f).faillog = s.faillog := rfl
@[simp] theorem State.updCore_fusedMap (s : State) (c : Nat) (f : Core → Core) : (s.updCore c f).fusedMap = s.fusedMap := rfl
@[simp] theorem State.updCore_serviceMap (s : State) (c : Nat) (f : Core → Core) : (s.updCore c f).serviceMap = s.serviceMap := rfl
@[simp] theorem State.updCore_temps (s : State) (c : Nat) (f : Core → Core) : (s.updCore c f).temps = s.temps := rfl
@[simp] theorem State.updCore_selfRefresh (s : State) (c : Nat) (f : Core → Core) : (s.updCore c f).selfRefresh = s.selfRefresh := rfl
@[simp] theorem State.updCore_fencedPcs (s : State) (c : Nat) (f : Core → Core) : (s.updCore c f).fencedPcs = s.fencedPcs := rfl
@[simp] theorem State.updCore_freezeOrder (s : State) (c : Nat) (f : Core → Core) : (s.updCore c f).freezeOrder = s.freezeOrder := rfl
@[simp] theorem State.updCore_regs (s : State) (c : Nat) (f : Core → Core) : (s.updCore c f).regs = s.regs := rfl

/-! ### updBlock -/

@[simp] theorem State.updBlock_agenda (s : State) (b : Nat) (f : Block → Block) : (s.updBlock b f).agenda = s.agenda := rfl
@[simp] theorem State.updBlock_tick (s : State) (b : Nat) (f : Block → Block) : (s.updBlock b f).tick = s.tick := rfl
@[simp] theorem State.updBlock_serial (s : State) (b : Nat) (f : Block → Block) : (s.updBlock b f).serial = s.serial := rfl
@[simp] theorem State.updBlock_issuing (s : State) (b : Nat) (f : Block → Block) : (s.updBlock b f).issuing = s.issuing := rfl
@[simp] theorem State.updBlock_timebase (s : State) (b : Nat) (f : Block → Block) : (s.updBlock b f).timebase = s.timebase := rfl
@[simp] theorem State.updBlock_pkg (s : State) (b : Nat) (f : Block → Block) : (s.updBlock b f).pkg = s.pkg := rfl
@[simp] theorem State.updBlock_domain (s : State) (b : Nat) (f : Block → Block) : (s.updBlock b f).domain = s.domain := rfl
@[simp] theorem State.updBlock_failed (s : State) (b : Nat) (f : Block → Block) : (s.updBlock b f).failed = s.failed := rfl
@[simp] theorem State.updBlock_threads (s : State) (b : Nat) (f : Block → Block) : (s.updBlock b f).threads = s.threads := rfl
@[simp] theorem State.updBlock_groups (s : State) (b : Nat) (f : Block → Block) : (s.updBlock b f).groups = s.groups := rfl
@[simp] theorem State.updBlock_units (s : State) (b : Nat) (f : Block → Block) : (s.updBlock b f).units = s.units := rfl
@[simp] theorem State.updBlock_cores (s : State) (b : Nat) (f : Block → Block) : (s.updBlock b f).cores = s.cores := rfl
@[simp] theorem State.updBlock_records (s : State) (b : Nat) (f : Block → Block) : (s.updBlock b f).records = s.records := rfl
@[simp] theorem State.updBlock_lines (s : State) (b : Nat) (f : Block → Block) : (s.updBlock b f).lines = s.lines := rfl
@[simp] theorem State.updBlock_larder (s : State) (b : Nat) (f : Block → Block) : (s.updBlock b f).larder = s.larder := rfl
@[simp] theorem State.updBlock_freed (s : State) (b : Nat) (f : Block → Block) : (s.updBlock b f).freed = s.freed := rfl
@[simp] theorem State.updBlock_lrenews (s : State) (b : Nat) (f : Block → Block) : (s.updBlock b f).lrenews = s.lrenews := rfl
@[simp] theorem State.updBlock_sflushes (s : State) (b : Nat) (f : Block → Block) : (s.updBlock b f).sflushes = s.sflushes := rfl
@[simp] theorem State.updBlock_memory (s : State) (b : Nat) (f : Block → Block) : (s.updBlock b f).memory = s.memory := rfl
@[simp] theorem State.updBlock_hostMemory (s : State) (b : Nat) (f : Block → Block) : (s.updBlock b f).hostMemory = s.hostMemory := rfl
@[simp] theorem State.updBlock_poison (s : State) (b : Nat) (f : Block → Block) : (s.updBlock b f).poison = s.poison := rfl
@[simp] theorem State.updBlock_misses (s : State) (b : Nat) (f : Block → Block) : (s.updBlock b f).misses = s.misses := rfl
@[simp] theorem State.updBlock_walkCaches (s : State) (b : Nat) (f : Block → Block) : (s.updBlock b f).walkCaches = s.walkCaches := rfl
@[simp] theorem State.updBlock_walks (s : State) (b : Nat) (f : Block → Block) : (s.updBlock b f).walks = s.walks := rfl
@[simp] theorem State.updBlock_tickets (s : State) (b : Nat) (f : Block → Block) : (s.updBlock b f).tickets = s.tickets := rfl
@[simp] theorem State.updBlock_nextTicket (s : State) (b : Nat) (f : Block → Block) : (s.updBlock b f).nextTicket = s.nextTicket := rfl
@[simp] theorem State.updBlock_tiles (s : State) (b : Nat) (f : Block → Block) : (s.updBlock b f).tiles = s.tiles := rfl
@[simp] theorem State.updBlock_tileWords (s : State) (b : Nat) (f : Block → Block) : (s.updBlock b f).tileWords = s.tileWords := rfl
@[simp] theorem State.updBlock_bank (s : State) (b : Nat) (f : Block → Block) : (s.updBlock b f).bank = s.bank := rfl
@[simp] theorem State.updBlock_copies (s : State) (b : Nat) (f : Block → Block) : (s.updBlock b f).copies = s.copies := rfl
@[simp] theorem State.updBlock_queuesMat (s : State) (b : Nat) (f : Block → Block) : (s.updBlock b f).queuesMat = s.queuesMat := rfl
@[simp] theorem State.updBlock_partials (s : State) (b : Nat) (f : Block → Block) : (s.updBlock b f).partials = s.partials := rfl
@[simp] theorem State.updBlock_swaps (s : State) (b : Nat) (f : Block → Block) : (s.updBlock b f).swaps = s.swaps := rfl
@[simp] theorem State.updBlock_contexts (s : State) (b : Nat) (f : Block → Block) : (s.updBlock b f).contexts = s.contexts := rfl
@[simp] theorem State.updBlock_launches (s : State) (b : Nat) (f : Block → Block) : (s.updBlock b f).launches = s.launches := rfl
@[simp] theorem State.updBlock_blocks (s : State) (b : Nat) (f : Block → Block) : (s.updBlock b f).blocks = s.blocks.adjust b f := rfl
@[simp] theorem State.updBlock_saved (s : State) (b : Nat) (f : Block → Block) : (s.updBlock b f).saved = s.saved := rfl
@[simp] theorem State.updBlock_packets (s : State) (b : Nat) (f : Block → Block) : (s.updBlock b f).packets = s.packets := rfl
@[simp] theorem State.updBlock_successors (s : State) (b : Nat) (f : Block → Block) : (s.updBlock b f).successors = s.successors := rfl
@[simp] theorem State.updBlock_placed (s : State) (b : Nat) (f : Block → Block) : (s.updBlock b f).placed = s.placed := rfl
@[simp] theorem State.updBlock_remoteClaims (s : State) (b : Nat) (f : Block → Block) : (s.updBlock b f).remoteClaims = s.remoteClaims := rfl
@[simp] theorem State.updBlock_lastServed (s : State) (b : Nat) (f : Block → Block) : (s.updBlock b f).lastServed = s.lastServed := rfl
@[simp] theorem State.updBlock_signals (s : State) (b : Nat) (f : Block → Block) : (s.updBlock b f).signals = s.signals := rfl
@[simp] theorem State.updBlock_harnessWaits (s : State) (b : Nat) (f : Block → Block) : (s.updBlock b f).harnessWaits = s.harnessWaits := rfl
@[simp] theorem State.updBlock_heldReports (s : State) (b : Nat) (f : Block → Block) : (s.updBlock b f).heldReports = s.heldReports := rfl
@[simp] theorem State.updBlock_wbqs (s : State) (b : Nat) (f : Block → Block) : (s.updBlock b f).wbqs = s.wbqs := rfl
@[simp] theorem State.updBlock_ops (s : State) (b : Nat) (f : Block → Block) : (s.updBlock b f).ops = s.ops := rfl
@[simp] theorem State.updBlock_epoch (s : State) (b : Nat) (f : Block → Block) : (s.updBlock b f).epoch = s.epoch := rfl
@[simp] theorem State.updBlock_pfences (s : State) (b : Nat) (f : Block → Block) : (s.updBlock b f).pfences = s.pfences := rfl
@[simp] theorem State.updBlock_scm (s : State) (b : Nat) (f : Block → Block) : (s.updBlock b f).scm = s.scm := rfl
@[simp] theorem State.updBlock_captures (s : State) (b : Nat) (f : Block → Block) : (s.updBlock b f).captures = s.captures := rfl
@[simp] theorem State.updBlock_stableSlots (s : State) (b : Nat) (f : Block → Block) : (s.updBlock b f).stableSlots = s.stableSlots := rfl
@[simp] theorem State.updBlock_fragments (s : State) (b : Nat) (f : Block → Block) : (s.updBlock b f).fragments = s.fragments := rfl
@[simp] theorem State.updBlock_digests (s : State) (b : Nat) (f : Block → Block) : (s.updBlock b f).digests = s.digests := rfl
@[simp] theorem State.updBlock_ports (s : State) (b : Nat) (f : Block → Block) : (s.updBlock b f).ports = s.ports := rfl
@[simp] theorem State.updBlock_received (s : State) (b : Nat) (f : Block → Block) : (s.updBlock b f).received = s.received := rfl
@[simp] theorem State.updBlock_outbox (s : State) (b : Nat) (f : Block → Block) : (s.updBlock b f).outbox = s.outbox := rfl
@[simp] theorem State.updBlock_peers (s : State) (b : Nat) (f : Block → Block) : (s.updBlock b f).peers = s.peers := rfl
@[simp] theorem State.updBlock_answered (s : State) (b : Nat) (f : Block → Block) : (s.updBlock b f).answered = s.answered := rfl
@[simp] theorem State.updBlock_code (s : State) (b : Nat) (f : Block → Block) : (s.updBlock b f).code = s.code := rfl
@[simp] theorem State.updBlock_notices (s : State) (b : Nat) (f : Block → Block) : (s.updBlock b f).notices = s.notices := rfl
@[simp] theorem State.updBlock_runs (s : State) (b : Nat) (f : Block → Block) : (s.updBlock b f).runs = s.runs := rfl
@[simp] theorem State.updBlock_collLoads (s : State) (b : Nat) (f : Block → Block) : (s.updBlock b f).collLoads = s.collLoads := rfl
@[simp] theorem State.updBlock_repartIssues (s : State) (b : Nat) (f : Block → Block) : (s.updBlock b f).repartIssues = s.repartIssues := rfl
@[simp] theorem State.updBlock_dumps (s : State) (b : Nat) (f : Block → Block) : (s.updBlock b f).dumps = s.dumps := rfl
@[simp] theorem State.updBlock_tests (s : State) (b : Nat) (f : Block → Block) : (s.updBlock b f).tests = s.tests := rfl
@[simp] theorem State.updBlock_preempting (s : State) (b : Nat) (f : Block → Block) : (s.updBlock b f).preempting = s.preempting := rfl
@[simp] theorem State.updBlock_arrlog (s : State) (b : Nat) (f : Block → Block) : (s.updBlock b f).arrlog = s.arrlog := rfl
@[simp] theorem State.updBlock_xfrlog (s : State) (b : Nat) (f : Block → Block) : (s.updBlock b f).xfrlog = s.xfrlog := rfl
@[simp] theorem State.updBlock_faillog (s : State) (b : Nat) (f : Block → Block) : (s.updBlock b f).faillog = s.faillog := rfl
@[simp] theorem State.updBlock_fusedMap (s : State) (b : Nat) (f : Block → Block) : (s.updBlock b f).fusedMap = s.fusedMap := rfl
@[simp] theorem State.updBlock_serviceMap (s : State) (b : Nat) (f : Block → Block) : (s.updBlock b f).serviceMap = s.serviceMap := rfl
@[simp] theorem State.updBlock_temps (s : State) (b : Nat) (f : Block → Block) : (s.updBlock b f).temps = s.temps := rfl
@[simp] theorem State.updBlock_selfRefresh (s : State) (b : Nat) (f : Block → Block) : (s.updBlock b f).selfRefresh = s.selfRefresh := rfl
@[simp] theorem State.updBlock_fencedPcs (s : State) (b : Nat) (f : Block → Block) : (s.updBlock b f).fencedPcs = s.fencedPcs := rfl
@[simp] theorem State.updBlock_freezeOrder (s : State) (b : Nat) (f : Block → Block) : (s.updBlock b f).freezeOrder = s.freezeOrder := rfl
@[simp] theorem State.updBlock_regs (s : State) (b : Nat) (f : Block → Block) : (s.updBlock b f).regs = s.regs := rfl

/-! ### updCtx -/

@[simp] theorem State.updCtx_agenda (s : State) (a : Nat) (f : Context → Context) : (s.updCtx a f).agenda = s.agenda := rfl
@[simp] theorem State.updCtx_tick (s : State) (a : Nat) (f : Context → Context) : (s.updCtx a f).tick = s.tick := rfl
@[simp] theorem State.updCtx_serial (s : State) (a : Nat) (f : Context → Context) : (s.updCtx a f).serial = s.serial := rfl
@[simp] theorem State.updCtx_issuing (s : State) (a : Nat) (f : Context → Context) : (s.updCtx a f).issuing = s.issuing := rfl
@[simp] theorem State.updCtx_timebase (s : State) (a : Nat) (f : Context → Context) : (s.updCtx a f).timebase = s.timebase := rfl
@[simp] theorem State.updCtx_pkg (s : State) (a : Nat) (f : Context → Context) : (s.updCtx a f).pkg = s.pkg := rfl
@[simp] theorem State.updCtx_domain (s : State) (a : Nat) (f : Context → Context) : (s.updCtx a f).domain = s.domain := rfl
@[simp] theorem State.updCtx_failed (s : State) (a : Nat) (f : Context → Context) : (s.updCtx a f).failed = s.failed := rfl
@[simp] theorem State.updCtx_threads (s : State) (a : Nat) (f : Context → Context) : (s.updCtx a f).threads = s.threads := rfl
@[simp] theorem State.updCtx_groups (s : State) (a : Nat) (f : Context → Context) : (s.updCtx a f).groups = s.groups := rfl
@[simp] theorem State.updCtx_units (s : State) (a : Nat) (f : Context → Context) : (s.updCtx a f).units = s.units := rfl
@[simp] theorem State.updCtx_cores (s : State) (a : Nat) (f : Context → Context) : (s.updCtx a f).cores = s.cores := rfl
@[simp] theorem State.updCtx_records (s : State) (a : Nat) (f : Context → Context) : (s.updCtx a f).records = s.records := rfl
@[simp] theorem State.updCtx_lines (s : State) (a : Nat) (f : Context → Context) : (s.updCtx a f).lines = s.lines := rfl
@[simp] theorem State.updCtx_larder (s : State) (a : Nat) (f : Context → Context) : (s.updCtx a f).larder = s.larder := rfl
@[simp] theorem State.updCtx_freed (s : State) (a : Nat) (f : Context → Context) : (s.updCtx a f).freed = s.freed := rfl
@[simp] theorem State.updCtx_lrenews (s : State) (a : Nat) (f : Context → Context) : (s.updCtx a f).lrenews = s.lrenews := rfl
@[simp] theorem State.updCtx_sflushes (s : State) (a : Nat) (f : Context → Context) : (s.updCtx a f).sflushes = s.sflushes := rfl
@[simp] theorem State.updCtx_memory (s : State) (a : Nat) (f : Context → Context) : (s.updCtx a f).memory = s.memory := rfl
@[simp] theorem State.updCtx_hostMemory (s : State) (a : Nat) (f : Context → Context) : (s.updCtx a f).hostMemory = s.hostMemory := rfl
@[simp] theorem State.updCtx_poison (s : State) (a : Nat) (f : Context → Context) : (s.updCtx a f).poison = s.poison := rfl
@[simp] theorem State.updCtx_misses (s : State) (a : Nat) (f : Context → Context) : (s.updCtx a f).misses = s.misses := rfl
@[simp] theorem State.updCtx_walkCaches (s : State) (a : Nat) (f : Context → Context) : (s.updCtx a f).walkCaches = s.walkCaches := rfl
@[simp] theorem State.updCtx_walks (s : State) (a : Nat) (f : Context → Context) : (s.updCtx a f).walks = s.walks := rfl
@[simp] theorem State.updCtx_tickets (s : State) (a : Nat) (f : Context → Context) : (s.updCtx a f).tickets = s.tickets := rfl
@[simp] theorem State.updCtx_nextTicket (s : State) (a : Nat) (f : Context → Context) : (s.updCtx a f).nextTicket = s.nextTicket := rfl
@[simp] theorem State.updCtx_tiles (s : State) (a : Nat) (f : Context → Context) : (s.updCtx a f).tiles = s.tiles := rfl
@[simp] theorem State.updCtx_tileWords (s : State) (a : Nat) (f : Context → Context) : (s.updCtx a f).tileWords = s.tileWords := rfl
@[simp] theorem State.updCtx_bank (s : State) (a : Nat) (f : Context → Context) : (s.updCtx a f).bank = s.bank := rfl
@[simp] theorem State.updCtx_copies (s : State) (a : Nat) (f : Context → Context) : (s.updCtx a f).copies = s.copies := rfl
@[simp] theorem State.updCtx_queuesMat (s : State) (a : Nat) (f : Context → Context) : (s.updCtx a f).queuesMat = s.queuesMat := rfl
@[simp] theorem State.updCtx_partials (s : State) (a : Nat) (f : Context → Context) : (s.updCtx a f).partials = s.partials := rfl
@[simp] theorem State.updCtx_swaps (s : State) (a : Nat) (f : Context → Context) : (s.updCtx a f).swaps = s.swaps := rfl
@[simp] theorem State.updCtx_contexts (s : State) (a : Nat) (f : Context → Context) : (s.updCtx a f).contexts = s.contexts.adjust a f := rfl
@[simp] theorem State.updCtx_launches (s : State) (a : Nat) (f : Context → Context) : (s.updCtx a f).launches = s.launches := rfl
@[simp] theorem State.updCtx_blocks (s : State) (a : Nat) (f : Context → Context) : (s.updCtx a f).blocks = s.blocks := rfl
@[simp] theorem State.updCtx_saved (s : State) (a : Nat) (f : Context → Context) : (s.updCtx a f).saved = s.saved := rfl
@[simp] theorem State.updCtx_packets (s : State) (a : Nat) (f : Context → Context) : (s.updCtx a f).packets = s.packets := rfl
@[simp] theorem State.updCtx_successors (s : State) (a : Nat) (f : Context → Context) : (s.updCtx a f).successors = s.successors := rfl
@[simp] theorem State.updCtx_placed (s : State) (a : Nat) (f : Context → Context) : (s.updCtx a f).placed = s.placed := rfl
@[simp] theorem State.updCtx_remoteClaims (s : State) (a : Nat) (f : Context → Context) : (s.updCtx a f).remoteClaims = s.remoteClaims := rfl
@[simp] theorem State.updCtx_lastServed (s : State) (a : Nat) (f : Context → Context) : (s.updCtx a f).lastServed = s.lastServed := rfl
@[simp] theorem State.updCtx_signals (s : State) (a : Nat) (f : Context → Context) : (s.updCtx a f).signals = s.signals := rfl
@[simp] theorem State.updCtx_harnessWaits (s : State) (a : Nat) (f : Context → Context) : (s.updCtx a f).harnessWaits = s.harnessWaits := rfl
@[simp] theorem State.updCtx_heldReports (s : State) (a : Nat) (f : Context → Context) : (s.updCtx a f).heldReports = s.heldReports := rfl
@[simp] theorem State.updCtx_wbqs (s : State) (a : Nat) (f : Context → Context) : (s.updCtx a f).wbqs = s.wbqs := rfl
@[simp] theorem State.updCtx_ops (s : State) (a : Nat) (f : Context → Context) : (s.updCtx a f).ops = s.ops := rfl
@[simp] theorem State.updCtx_epoch (s : State) (a : Nat) (f : Context → Context) : (s.updCtx a f).epoch = s.epoch := rfl
@[simp] theorem State.updCtx_pfences (s : State) (a : Nat) (f : Context → Context) : (s.updCtx a f).pfences = s.pfences := rfl
@[simp] theorem State.updCtx_scm (s : State) (a : Nat) (f : Context → Context) : (s.updCtx a f).scm = s.scm := rfl
@[simp] theorem State.updCtx_captures (s : State) (a : Nat) (f : Context → Context) : (s.updCtx a f).captures = s.captures := rfl
@[simp] theorem State.updCtx_stableSlots (s : State) (a : Nat) (f : Context → Context) : (s.updCtx a f).stableSlots = s.stableSlots := rfl
@[simp] theorem State.updCtx_fragments (s : State) (a : Nat) (f : Context → Context) : (s.updCtx a f).fragments = s.fragments := rfl
@[simp] theorem State.updCtx_digests (s : State) (a : Nat) (f : Context → Context) : (s.updCtx a f).digests = s.digests := rfl
@[simp] theorem State.updCtx_ports (s : State) (a : Nat) (f : Context → Context) : (s.updCtx a f).ports = s.ports := rfl
@[simp] theorem State.updCtx_received (s : State) (a : Nat) (f : Context → Context) : (s.updCtx a f).received = s.received := rfl
@[simp] theorem State.updCtx_outbox (s : State) (a : Nat) (f : Context → Context) : (s.updCtx a f).outbox = s.outbox := rfl
@[simp] theorem State.updCtx_peers (s : State) (a : Nat) (f : Context → Context) : (s.updCtx a f).peers = s.peers := rfl
@[simp] theorem State.updCtx_answered (s : State) (a : Nat) (f : Context → Context) : (s.updCtx a f).answered = s.answered := rfl
@[simp] theorem State.updCtx_code (s : State) (a : Nat) (f : Context → Context) : (s.updCtx a f).code = s.code := rfl
@[simp] theorem State.updCtx_notices (s : State) (a : Nat) (f : Context → Context) : (s.updCtx a f).notices = s.notices := rfl
@[simp] theorem State.updCtx_runs (s : State) (a : Nat) (f : Context → Context) : (s.updCtx a f).runs = s.runs := rfl
@[simp] theorem State.updCtx_collLoads (s : State) (a : Nat) (f : Context → Context) : (s.updCtx a f).collLoads = s.collLoads := rfl
@[simp] theorem State.updCtx_repartIssues (s : State) (a : Nat) (f : Context → Context) : (s.updCtx a f).repartIssues = s.repartIssues := rfl
@[simp] theorem State.updCtx_dumps (s : State) (a : Nat) (f : Context → Context) : (s.updCtx a f).dumps = s.dumps := rfl
@[simp] theorem State.updCtx_tests (s : State) (a : Nat) (f : Context → Context) : (s.updCtx a f).tests = s.tests := rfl
@[simp] theorem State.updCtx_preempting (s : State) (a : Nat) (f : Context → Context) : (s.updCtx a f).preempting = s.preempting := rfl
@[simp] theorem State.updCtx_arrlog (s : State) (a : Nat) (f : Context → Context) : (s.updCtx a f).arrlog = s.arrlog := rfl
@[simp] theorem State.updCtx_xfrlog (s : State) (a : Nat) (f : Context → Context) : (s.updCtx a f).xfrlog = s.xfrlog := rfl
@[simp] theorem State.updCtx_faillog (s : State) (a : Nat) (f : Context → Context) : (s.updCtx a f).faillog = s.faillog := rfl
@[simp] theorem State.updCtx_fusedMap (s : State) (a : Nat) (f : Context → Context) : (s.updCtx a f).fusedMap = s.fusedMap := rfl
@[simp] theorem State.updCtx_serviceMap (s : State) (a : Nat) (f : Context → Context) : (s.updCtx a f).serviceMap = s.serviceMap := rfl
@[simp] theorem State.updCtx_temps (s : State) (a : Nat) (f : Context → Context) : (s.updCtx a f).temps = s.temps := rfl
@[simp] theorem State.updCtx_selfRefresh (s : State) (a : Nat) (f : Context → Context) : (s.updCtx a f).selfRefresh = s.selfRefresh := rfl
@[simp] theorem State.updCtx_fencedPcs (s : State) (a : Nat) (f : Context → Context) : (s.updCtx a f).fencedPcs = s.fencedPcs := rfl
@[simp] theorem State.updCtx_freezeOrder (s : State) (a : Nat) (f : Context → Context) : (s.updCtx a f).freezeOrder = s.freezeOrder := rfl
@[simp] theorem State.updCtx_regs (s : State) (a : Nat) (f : Context → Context) : (s.updCtx a f).regs = s.regs := rfl

/-! ### updLaunch -/

@[simp] theorem State.updLaunch_agenda (s : State) (l : Nat) (f : Launch → Launch) : (s.updLaunch l f).agenda = s.agenda := rfl
@[simp] theorem State.updLaunch_tick (s : State) (l : Nat) (f : Launch → Launch) : (s.updLaunch l f).tick = s.tick := rfl
@[simp] theorem State.updLaunch_serial (s : State) (l : Nat) (f : Launch → Launch) : (s.updLaunch l f).serial = s.serial := rfl
@[simp] theorem State.updLaunch_issuing (s : State) (l : Nat) (f : Launch → Launch) : (s.updLaunch l f).issuing = s.issuing := rfl
@[simp] theorem State.updLaunch_timebase (s : State) (l : Nat) (f : Launch → Launch) : (s.updLaunch l f).timebase = s.timebase := rfl
@[simp] theorem State.updLaunch_pkg (s : State) (l : Nat) (f : Launch → Launch) : (s.updLaunch l f).pkg = s.pkg := rfl
@[simp] theorem State.updLaunch_domain (s : State) (l : Nat) (f : Launch → Launch) : (s.updLaunch l f).domain = s.domain := rfl
@[simp] theorem State.updLaunch_failed (s : State) (l : Nat) (f : Launch → Launch) : (s.updLaunch l f).failed = s.failed := rfl
@[simp] theorem State.updLaunch_threads (s : State) (l : Nat) (f : Launch → Launch) : (s.updLaunch l f).threads = s.threads := rfl
@[simp] theorem State.updLaunch_groups (s : State) (l : Nat) (f : Launch → Launch) : (s.updLaunch l f).groups = s.groups := rfl
@[simp] theorem State.updLaunch_units (s : State) (l : Nat) (f : Launch → Launch) : (s.updLaunch l f).units = s.units := rfl
@[simp] theorem State.updLaunch_cores (s : State) (l : Nat) (f : Launch → Launch) : (s.updLaunch l f).cores = s.cores := rfl
@[simp] theorem State.updLaunch_records (s : State) (l : Nat) (f : Launch → Launch) : (s.updLaunch l f).records = s.records := rfl
@[simp] theorem State.updLaunch_lines (s : State) (l : Nat) (f : Launch → Launch) : (s.updLaunch l f).lines = s.lines := rfl
@[simp] theorem State.updLaunch_larder (s : State) (l : Nat) (f : Launch → Launch) : (s.updLaunch l f).larder = s.larder := rfl
@[simp] theorem State.updLaunch_freed (s : State) (l : Nat) (f : Launch → Launch) : (s.updLaunch l f).freed = s.freed := rfl
@[simp] theorem State.updLaunch_lrenews (s : State) (l : Nat) (f : Launch → Launch) : (s.updLaunch l f).lrenews = s.lrenews := rfl
@[simp] theorem State.updLaunch_sflushes (s : State) (l : Nat) (f : Launch → Launch) : (s.updLaunch l f).sflushes = s.sflushes := rfl
@[simp] theorem State.updLaunch_memory (s : State) (l : Nat) (f : Launch → Launch) : (s.updLaunch l f).memory = s.memory := rfl
@[simp] theorem State.updLaunch_hostMemory (s : State) (l : Nat) (f : Launch → Launch) : (s.updLaunch l f).hostMemory = s.hostMemory := rfl
@[simp] theorem State.updLaunch_poison (s : State) (l : Nat) (f : Launch → Launch) : (s.updLaunch l f).poison = s.poison := rfl
@[simp] theorem State.updLaunch_misses (s : State) (l : Nat) (f : Launch → Launch) : (s.updLaunch l f).misses = s.misses := rfl
@[simp] theorem State.updLaunch_walkCaches (s : State) (l : Nat) (f : Launch → Launch) : (s.updLaunch l f).walkCaches = s.walkCaches := rfl
@[simp] theorem State.updLaunch_walks (s : State) (l : Nat) (f : Launch → Launch) : (s.updLaunch l f).walks = s.walks := rfl
@[simp] theorem State.updLaunch_tickets (s : State) (l : Nat) (f : Launch → Launch) : (s.updLaunch l f).tickets = s.tickets := rfl
@[simp] theorem State.updLaunch_nextTicket (s : State) (l : Nat) (f : Launch → Launch) : (s.updLaunch l f).nextTicket = s.nextTicket := rfl
@[simp] theorem State.updLaunch_tiles (s : State) (l : Nat) (f : Launch → Launch) : (s.updLaunch l f).tiles = s.tiles := rfl
@[simp] theorem State.updLaunch_tileWords (s : State) (l : Nat) (f : Launch → Launch) : (s.updLaunch l f).tileWords = s.tileWords := rfl
@[simp] theorem State.updLaunch_bank (s : State) (l : Nat) (f : Launch → Launch) : (s.updLaunch l f).bank = s.bank := rfl
@[simp] theorem State.updLaunch_copies (s : State) (l : Nat) (f : Launch → Launch) : (s.updLaunch l f).copies = s.copies := rfl
@[simp] theorem State.updLaunch_queuesMat (s : State) (l : Nat) (f : Launch → Launch) : (s.updLaunch l f).queuesMat = s.queuesMat := rfl
@[simp] theorem State.updLaunch_partials (s : State) (l : Nat) (f : Launch → Launch) : (s.updLaunch l f).partials = s.partials := rfl
@[simp] theorem State.updLaunch_swaps (s : State) (l : Nat) (f : Launch → Launch) : (s.updLaunch l f).swaps = s.swaps := rfl
@[simp] theorem State.updLaunch_contexts (s : State) (l : Nat) (f : Launch → Launch) : (s.updLaunch l f).contexts = s.contexts := rfl
@[simp] theorem State.updLaunch_launches (s : State) (l : Nat) (f : Launch → Launch) : (s.updLaunch l f).launches = s.launches.adjust l f := rfl
@[simp] theorem State.updLaunch_blocks (s : State) (l : Nat) (f : Launch → Launch) : (s.updLaunch l f).blocks = s.blocks := rfl
@[simp] theorem State.updLaunch_saved (s : State) (l : Nat) (f : Launch → Launch) : (s.updLaunch l f).saved = s.saved := rfl
@[simp] theorem State.updLaunch_packets (s : State) (l : Nat) (f : Launch → Launch) : (s.updLaunch l f).packets = s.packets := rfl
@[simp] theorem State.updLaunch_successors (s : State) (l : Nat) (f : Launch → Launch) : (s.updLaunch l f).successors = s.successors := rfl
@[simp] theorem State.updLaunch_placed (s : State) (l : Nat) (f : Launch → Launch) : (s.updLaunch l f).placed = s.placed := rfl
@[simp] theorem State.updLaunch_remoteClaims (s : State) (l : Nat) (f : Launch → Launch) : (s.updLaunch l f).remoteClaims = s.remoteClaims := rfl
@[simp] theorem State.updLaunch_lastServed (s : State) (l : Nat) (f : Launch → Launch) : (s.updLaunch l f).lastServed = s.lastServed := rfl
@[simp] theorem State.updLaunch_signals (s : State) (l : Nat) (f : Launch → Launch) : (s.updLaunch l f).signals = s.signals := rfl
@[simp] theorem State.updLaunch_harnessWaits (s : State) (l : Nat) (f : Launch → Launch) : (s.updLaunch l f).harnessWaits = s.harnessWaits := rfl
@[simp] theorem State.updLaunch_heldReports (s : State) (l : Nat) (f : Launch → Launch) : (s.updLaunch l f).heldReports = s.heldReports := rfl
@[simp] theorem State.updLaunch_wbqs (s : State) (l : Nat) (f : Launch → Launch) : (s.updLaunch l f).wbqs = s.wbqs := rfl
@[simp] theorem State.updLaunch_ops (s : State) (l : Nat) (f : Launch → Launch) : (s.updLaunch l f).ops = s.ops := rfl
@[simp] theorem State.updLaunch_epoch (s : State) (l : Nat) (f : Launch → Launch) : (s.updLaunch l f).epoch = s.epoch := rfl
@[simp] theorem State.updLaunch_pfences (s : State) (l : Nat) (f : Launch → Launch) : (s.updLaunch l f).pfences = s.pfences := rfl
@[simp] theorem State.updLaunch_scm (s : State) (l : Nat) (f : Launch → Launch) : (s.updLaunch l f).scm = s.scm := rfl
@[simp] theorem State.updLaunch_captures (s : State) (l : Nat) (f : Launch → Launch) : (s.updLaunch l f).captures = s.captures := rfl
@[simp] theorem State.updLaunch_stableSlots (s : State) (l : Nat) (f : Launch → Launch) : (s.updLaunch l f).stableSlots = s.stableSlots := rfl
@[simp] theorem State.updLaunch_fragments (s : State) (l : Nat) (f : Launch → Launch) : (s.updLaunch l f).fragments = s.fragments := rfl
@[simp] theorem State.updLaunch_digests (s : State) (l : Nat) (f : Launch → Launch) : (s.updLaunch l f).digests = s.digests := rfl
@[simp] theorem State.updLaunch_ports (s : State) (l : Nat) (f : Launch → Launch) : (s.updLaunch l f).ports = s.ports := rfl
@[simp] theorem State.updLaunch_received (s : State) (l : Nat) (f : Launch → Launch) : (s.updLaunch l f).received = s.received := rfl
@[simp] theorem State.updLaunch_outbox (s : State) (l : Nat) (f : Launch → Launch) : (s.updLaunch l f).outbox = s.outbox := rfl
@[simp] theorem State.updLaunch_peers (s : State) (l : Nat) (f : Launch → Launch) : (s.updLaunch l f).peers = s.peers := rfl
@[simp] theorem State.updLaunch_answered (s : State) (l : Nat) (f : Launch → Launch) : (s.updLaunch l f).answered = s.answered := rfl
@[simp] theorem State.updLaunch_code (s : State) (l : Nat) (f : Launch → Launch) : (s.updLaunch l f).code = s.code := rfl
@[simp] theorem State.updLaunch_notices (s : State) (l : Nat) (f : Launch → Launch) : (s.updLaunch l f).notices = s.notices := rfl
@[simp] theorem State.updLaunch_runs (s : State) (l : Nat) (f : Launch → Launch) : (s.updLaunch l f).runs = s.runs := rfl
@[simp] theorem State.updLaunch_collLoads (s : State) (l : Nat) (f : Launch → Launch) : (s.updLaunch l f).collLoads = s.collLoads := rfl
@[simp] theorem State.updLaunch_repartIssues (s : State) (l : Nat) (f : Launch → Launch) : (s.updLaunch l f).repartIssues = s.repartIssues := rfl
@[simp] theorem State.updLaunch_dumps (s : State) (l : Nat) (f : Launch → Launch) : (s.updLaunch l f).dumps = s.dumps := rfl
@[simp] theorem State.updLaunch_tests (s : State) (l : Nat) (f : Launch → Launch) : (s.updLaunch l f).tests = s.tests := rfl
@[simp] theorem State.updLaunch_preempting (s : State) (l : Nat) (f : Launch → Launch) : (s.updLaunch l f).preempting = s.preempting := rfl
@[simp] theorem State.updLaunch_arrlog (s : State) (l : Nat) (f : Launch → Launch) : (s.updLaunch l f).arrlog = s.arrlog := rfl
@[simp] theorem State.updLaunch_xfrlog (s : State) (l : Nat) (f : Launch → Launch) : (s.updLaunch l f).xfrlog = s.xfrlog := rfl
@[simp] theorem State.updLaunch_faillog (s : State) (l : Nat) (f : Launch → Launch) : (s.updLaunch l f).faillog = s.faillog := rfl
@[simp] theorem State.updLaunch_fusedMap (s : State) (l : Nat) (f : Launch → Launch) : (s.updLaunch l f).fusedMap = s.fusedMap := rfl
@[simp] theorem State.updLaunch_serviceMap (s : State) (l : Nat) (f : Launch → Launch) : (s.updLaunch l f).serviceMap = s.serviceMap := rfl
@[simp] theorem State.updLaunch_temps (s : State) (l : Nat) (f : Launch → Launch) : (s.updLaunch l f).temps = s.temps := rfl
@[simp] theorem State.updLaunch_selfRefresh (s : State) (l : Nat) (f : Launch → Launch) : (s.updLaunch l f).selfRefresh = s.selfRefresh := rfl
@[simp] theorem State.updLaunch_fencedPcs (s : State) (l : Nat) (f : Launch → Launch) : (s.updLaunch l f).fencedPcs = s.fencedPcs := rfl
@[simp] theorem State.updLaunch_freezeOrder (s : State) (l : Nat) (f : Launch → Launch) : (s.updLaunch l f).freezeOrder = s.freezeOrder := rfl
@[simp] theorem State.updLaunch_regs (s : State) (l : Nat) (f : Launch → Launch) : (s.updLaunch l f).regs = s.regs := rfl

/-! ### updGroup -/

@[simp] theorem State.updGroup_agenda (s : State) (g : Nat) (f : Group → Group) : (s.updGroup g f).agenda = s.agenda := rfl
@[simp] theorem State.updGroup_tick (s : State) (g : Nat) (f : Group → Group) : (s.updGroup g f).tick = s.tick := rfl
@[simp] theorem State.updGroup_serial (s : State) (g : Nat) (f : Group → Group) : (s.updGroup g f).serial = s.serial := rfl
@[simp] theorem State.updGroup_issuing (s : State) (g : Nat) (f : Group → Group) : (s.updGroup g f).issuing = s.issuing := rfl
@[simp] theorem State.updGroup_timebase (s : State) (g : Nat) (f : Group → Group) : (s.updGroup g f).timebase = s.timebase := rfl
@[simp] theorem State.updGroup_pkg (s : State) (g : Nat) (f : Group → Group) : (s.updGroup g f).pkg = s.pkg := rfl
@[simp] theorem State.updGroup_domain (s : State) (g : Nat) (f : Group → Group) : (s.updGroup g f).domain = s.domain := rfl
@[simp] theorem State.updGroup_failed (s : State) (g : Nat) (f : Group → Group) : (s.updGroup g f).failed = s.failed := rfl
@[simp] theorem State.updGroup_threads (s : State) (g : Nat) (f : Group → Group) : (s.updGroup g f).threads = s.threads := rfl
@[simp] theorem State.updGroup_groups (s : State) (g : Nat) (f : Group → Group) : (s.updGroup g f).groups = s.groups.adjust g f := rfl
@[simp] theorem State.updGroup_units (s : State) (g : Nat) (f : Group → Group) : (s.updGroup g f).units = s.units := rfl
@[simp] theorem State.updGroup_cores (s : State) (g : Nat) (f : Group → Group) : (s.updGroup g f).cores = s.cores := rfl
@[simp] theorem State.updGroup_records (s : State) (g : Nat) (f : Group → Group) : (s.updGroup g f).records = s.records := rfl
@[simp] theorem State.updGroup_lines (s : State) (g : Nat) (f : Group → Group) : (s.updGroup g f).lines = s.lines := rfl
@[simp] theorem State.updGroup_larder (s : State) (g : Nat) (f : Group → Group) : (s.updGroup g f).larder = s.larder := rfl
@[simp] theorem State.updGroup_freed (s : State) (g : Nat) (f : Group → Group) : (s.updGroup g f).freed = s.freed := rfl
@[simp] theorem State.updGroup_lrenews (s : State) (g : Nat) (f : Group → Group) : (s.updGroup g f).lrenews = s.lrenews := rfl
@[simp] theorem State.updGroup_sflushes (s : State) (g : Nat) (f : Group → Group) : (s.updGroup g f).sflushes = s.sflushes := rfl
@[simp] theorem State.updGroup_memory (s : State) (g : Nat) (f : Group → Group) : (s.updGroup g f).memory = s.memory := rfl
@[simp] theorem State.updGroup_hostMemory (s : State) (g : Nat) (f : Group → Group) : (s.updGroup g f).hostMemory = s.hostMemory := rfl
@[simp] theorem State.updGroup_poison (s : State) (g : Nat) (f : Group → Group) : (s.updGroup g f).poison = s.poison := rfl
@[simp] theorem State.updGroup_misses (s : State) (g : Nat) (f : Group → Group) : (s.updGroup g f).misses = s.misses := rfl
@[simp] theorem State.updGroup_walkCaches (s : State) (g : Nat) (f : Group → Group) : (s.updGroup g f).walkCaches = s.walkCaches := rfl
@[simp] theorem State.updGroup_walks (s : State) (g : Nat) (f : Group → Group) : (s.updGroup g f).walks = s.walks := rfl
@[simp] theorem State.updGroup_tickets (s : State) (g : Nat) (f : Group → Group) : (s.updGroup g f).tickets = s.tickets := rfl
@[simp] theorem State.updGroup_nextTicket (s : State) (g : Nat) (f : Group → Group) : (s.updGroup g f).nextTicket = s.nextTicket := rfl
@[simp] theorem State.updGroup_tiles (s : State) (g : Nat) (f : Group → Group) : (s.updGroup g f).tiles = s.tiles := rfl
@[simp] theorem State.updGroup_tileWords (s : State) (g : Nat) (f : Group → Group) : (s.updGroup g f).tileWords = s.tileWords := rfl
@[simp] theorem State.updGroup_bank (s : State) (g : Nat) (f : Group → Group) : (s.updGroup g f).bank = s.bank := rfl
@[simp] theorem State.updGroup_copies (s : State) (g : Nat) (f : Group → Group) : (s.updGroup g f).copies = s.copies := rfl
@[simp] theorem State.updGroup_queuesMat (s : State) (g : Nat) (f : Group → Group) : (s.updGroup g f).queuesMat = s.queuesMat := rfl
@[simp] theorem State.updGroup_partials (s : State) (g : Nat) (f : Group → Group) : (s.updGroup g f).partials = s.partials := rfl
@[simp] theorem State.updGroup_swaps (s : State) (g : Nat) (f : Group → Group) : (s.updGroup g f).swaps = s.swaps := rfl
@[simp] theorem State.updGroup_contexts (s : State) (g : Nat) (f : Group → Group) : (s.updGroup g f).contexts = s.contexts := rfl
@[simp] theorem State.updGroup_launches (s : State) (g : Nat) (f : Group → Group) : (s.updGroup g f).launches = s.launches := rfl
@[simp] theorem State.updGroup_blocks (s : State) (g : Nat) (f : Group → Group) : (s.updGroup g f).blocks = s.blocks := rfl
@[simp] theorem State.updGroup_saved (s : State) (g : Nat) (f : Group → Group) : (s.updGroup g f).saved = s.saved := rfl
@[simp] theorem State.updGroup_packets (s : State) (g : Nat) (f : Group → Group) : (s.updGroup g f).packets = s.packets := rfl
@[simp] theorem State.updGroup_successors (s : State) (g : Nat) (f : Group → Group) : (s.updGroup g f).successors = s.successors := rfl
@[simp] theorem State.updGroup_placed (s : State) (g : Nat) (f : Group → Group) : (s.updGroup g f).placed = s.placed := rfl
@[simp] theorem State.updGroup_remoteClaims (s : State) (g : Nat) (f : Group → Group) : (s.updGroup g f).remoteClaims = s.remoteClaims := rfl
@[simp] theorem State.updGroup_lastServed (s : State) (g : Nat) (f : Group → Group) : (s.updGroup g f).lastServed = s.lastServed := rfl
@[simp] theorem State.updGroup_signals (s : State) (g : Nat) (f : Group → Group) : (s.updGroup g f).signals = s.signals := rfl
@[simp] theorem State.updGroup_harnessWaits (s : State) (g : Nat) (f : Group → Group) : (s.updGroup g f).harnessWaits = s.harnessWaits := rfl
@[simp] theorem State.updGroup_heldReports (s : State) (g : Nat) (f : Group → Group) : (s.updGroup g f).heldReports = s.heldReports := rfl
@[simp] theorem State.updGroup_wbqs (s : State) (g : Nat) (f : Group → Group) : (s.updGroup g f).wbqs = s.wbqs := rfl
@[simp] theorem State.updGroup_ops (s : State) (g : Nat) (f : Group → Group) : (s.updGroup g f).ops = s.ops := rfl
@[simp] theorem State.updGroup_epoch (s : State) (g : Nat) (f : Group → Group) : (s.updGroup g f).epoch = s.epoch := rfl
@[simp] theorem State.updGroup_pfences (s : State) (g : Nat) (f : Group → Group) : (s.updGroup g f).pfences = s.pfences := rfl
@[simp] theorem State.updGroup_scm (s : State) (g : Nat) (f : Group → Group) : (s.updGroup g f).scm = s.scm := rfl
@[simp] theorem State.updGroup_captures (s : State) (g : Nat) (f : Group → Group) : (s.updGroup g f).captures = s.captures := rfl
@[simp] theorem State.updGroup_stableSlots (s : State) (g : Nat) (f : Group → Group) : (s.updGroup g f).stableSlots = s.stableSlots := rfl
@[simp] theorem State.updGroup_fragments (s : State) (g : Nat) (f : Group → Group) : (s.updGroup g f).fragments = s.fragments := rfl
@[simp] theorem State.updGroup_digests (s : State) (g : Nat) (f : Group → Group) : (s.updGroup g f).digests = s.digests := rfl
@[simp] theorem State.updGroup_ports (s : State) (g : Nat) (f : Group → Group) : (s.updGroup g f).ports = s.ports := rfl
@[simp] theorem State.updGroup_received (s : State) (g : Nat) (f : Group → Group) : (s.updGroup g f).received = s.received := rfl
@[simp] theorem State.updGroup_outbox (s : State) (g : Nat) (f : Group → Group) : (s.updGroup g f).outbox = s.outbox := rfl
@[simp] theorem State.updGroup_peers (s : State) (g : Nat) (f : Group → Group) : (s.updGroup g f).peers = s.peers := rfl
@[simp] theorem State.updGroup_answered (s : State) (g : Nat) (f : Group → Group) : (s.updGroup g f).answered = s.answered := rfl
@[simp] theorem State.updGroup_code (s : State) (g : Nat) (f : Group → Group) : (s.updGroup g f).code = s.code := rfl
@[simp] theorem State.updGroup_notices (s : State) (g : Nat) (f : Group → Group) : (s.updGroup g f).notices = s.notices := rfl
@[simp] theorem State.updGroup_runs (s : State) (g : Nat) (f : Group → Group) : (s.updGroup g f).runs = s.runs := rfl
@[simp] theorem State.updGroup_collLoads (s : State) (g : Nat) (f : Group → Group) : (s.updGroup g f).collLoads = s.collLoads := rfl
@[simp] theorem State.updGroup_repartIssues (s : State) (g : Nat) (f : Group → Group) : (s.updGroup g f).repartIssues = s.repartIssues := rfl
@[simp] theorem State.updGroup_dumps (s : State) (g : Nat) (f : Group → Group) : (s.updGroup g f).dumps = s.dumps := rfl
@[simp] theorem State.updGroup_tests (s : State) (g : Nat) (f : Group → Group) : (s.updGroup g f).tests = s.tests := rfl
@[simp] theorem State.updGroup_preempting (s : State) (g : Nat) (f : Group → Group) : (s.updGroup g f).preempting = s.preempting := rfl
@[simp] theorem State.updGroup_arrlog (s : State) (g : Nat) (f : Group → Group) : (s.updGroup g f).arrlog = s.arrlog := rfl
@[simp] theorem State.updGroup_xfrlog (s : State) (g : Nat) (f : Group → Group) : (s.updGroup g f).xfrlog = s.xfrlog := rfl
@[simp] theorem State.updGroup_faillog (s : State) (g : Nat) (f : Group → Group) : (s.updGroup g f).faillog = s.faillog := rfl
@[simp] theorem State.updGroup_fusedMap (s : State) (g : Nat) (f : Group → Group) : (s.updGroup g f).fusedMap = s.fusedMap := rfl
@[simp] theorem State.updGroup_serviceMap (s : State) (g : Nat) (f : Group → Group) : (s.updGroup g f).serviceMap = s.serviceMap := rfl
@[simp] theorem State.updGroup_temps (s : State) (g : Nat) (f : Group → Group) : (s.updGroup g f).temps = s.temps := rfl
@[simp] theorem State.updGroup_selfRefresh (s : State) (g : Nat) (f : Group → Group) : (s.updGroup g f).selfRefresh = s.selfRefresh := rfl
@[simp] theorem State.updGroup_fencedPcs (s : State) (g : Nat) (f : Group → Group) : (s.updGroup g f).fencedPcs = s.fencedPcs := rfl
@[simp] theorem State.updGroup_freezeOrder (s : State) (g : Nat) (f : Group → Group) : (s.updGroup g f).freezeOrder = s.freezeOrder := rfl
@[simp] theorem State.updGroup_regs (s : State) (g : Nat) (f : Group → Group) : (s.updGroup g f).regs = s.regs := rfl

/-! ### updRecord -/

@[simp] theorem State.updRecord_agenda (s : State) (r : Nat) (f : Record → Record) : (s.updRecord r f).agenda = s.agenda := rfl
@[simp] theorem State.updRecord_tick (s : State) (r : Nat) (f : Record → Record) : (s.updRecord r f).tick = s.tick := rfl
@[simp] theorem State.updRecord_serial (s : State) (r : Nat) (f : Record → Record) : (s.updRecord r f).serial = s.serial := rfl
@[simp] theorem State.updRecord_issuing (s : State) (r : Nat) (f : Record → Record) : (s.updRecord r f).issuing = s.issuing := rfl
@[simp] theorem State.updRecord_timebase (s : State) (r : Nat) (f : Record → Record) : (s.updRecord r f).timebase = s.timebase := rfl
@[simp] theorem State.updRecord_pkg (s : State) (r : Nat) (f : Record → Record) : (s.updRecord r f).pkg = s.pkg := rfl
@[simp] theorem State.updRecord_domain (s : State) (r : Nat) (f : Record → Record) : (s.updRecord r f).domain = s.domain := rfl
@[simp] theorem State.updRecord_failed (s : State) (r : Nat) (f : Record → Record) : (s.updRecord r f).failed = s.failed := rfl
@[simp] theorem State.updRecord_threads (s : State) (r : Nat) (f : Record → Record) : (s.updRecord r f).threads = s.threads := rfl
@[simp] theorem State.updRecord_groups (s : State) (r : Nat) (f : Record → Record) : (s.updRecord r f).groups = s.groups := rfl
@[simp] theorem State.updRecord_units (s : State) (r : Nat) (f : Record → Record) : (s.updRecord r f).units = s.units := rfl
@[simp] theorem State.updRecord_cores (s : State) (r : Nat) (f : Record → Record) : (s.updRecord r f).cores = s.cores := rfl
@[simp] theorem State.updRecord_records (s : State) (r : Nat) (f : Record → Record) : (s.updRecord r f).records = s.records.adjust r f := rfl
@[simp] theorem State.updRecord_lines (s : State) (r : Nat) (f : Record → Record) : (s.updRecord r f).lines = s.lines := rfl
@[simp] theorem State.updRecord_larder (s : State) (r : Nat) (f : Record → Record) : (s.updRecord r f).larder = s.larder := rfl
@[simp] theorem State.updRecord_freed (s : State) (r : Nat) (f : Record → Record) : (s.updRecord r f).freed = s.freed := rfl
@[simp] theorem State.updRecord_lrenews (s : State) (r : Nat) (f : Record → Record) : (s.updRecord r f).lrenews = s.lrenews := rfl
@[simp] theorem State.updRecord_sflushes (s : State) (r : Nat) (f : Record → Record) : (s.updRecord r f).sflushes = s.sflushes := rfl
@[simp] theorem State.updRecord_memory (s : State) (r : Nat) (f : Record → Record) : (s.updRecord r f).memory = s.memory := rfl
@[simp] theorem State.updRecord_hostMemory (s : State) (r : Nat) (f : Record → Record) : (s.updRecord r f).hostMemory = s.hostMemory := rfl
@[simp] theorem State.updRecord_poison (s : State) (r : Nat) (f : Record → Record) : (s.updRecord r f).poison = s.poison := rfl
@[simp] theorem State.updRecord_misses (s : State) (r : Nat) (f : Record → Record) : (s.updRecord r f).misses = s.misses := rfl
@[simp] theorem State.updRecord_walkCaches (s : State) (r : Nat) (f : Record → Record) : (s.updRecord r f).walkCaches = s.walkCaches := rfl
@[simp] theorem State.updRecord_walks (s : State) (r : Nat) (f : Record → Record) : (s.updRecord r f).walks = s.walks := rfl
@[simp] theorem State.updRecord_tickets (s : State) (r : Nat) (f : Record → Record) : (s.updRecord r f).tickets = s.tickets := rfl
@[simp] theorem State.updRecord_nextTicket (s : State) (r : Nat) (f : Record → Record) : (s.updRecord r f).nextTicket = s.nextTicket := rfl
@[simp] theorem State.updRecord_tiles (s : State) (r : Nat) (f : Record → Record) : (s.updRecord r f).tiles = s.tiles := rfl
@[simp] theorem State.updRecord_tileWords (s : State) (r : Nat) (f : Record → Record) : (s.updRecord r f).tileWords = s.tileWords := rfl
@[simp] theorem State.updRecord_bank (s : State) (r : Nat) (f : Record → Record) : (s.updRecord r f).bank = s.bank := rfl
@[simp] theorem State.updRecord_copies (s : State) (r : Nat) (f : Record → Record) : (s.updRecord r f).copies = s.copies := rfl
@[simp] theorem State.updRecord_queuesMat (s : State) (r : Nat) (f : Record → Record) : (s.updRecord r f).queuesMat = s.queuesMat := rfl
@[simp] theorem State.updRecord_partials (s : State) (r : Nat) (f : Record → Record) : (s.updRecord r f).partials = s.partials := rfl
@[simp] theorem State.updRecord_swaps (s : State) (r : Nat) (f : Record → Record) : (s.updRecord r f).swaps = s.swaps := rfl
@[simp] theorem State.updRecord_contexts (s : State) (r : Nat) (f : Record → Record) : (s.updRecord r f).contexts = s.contexts := rfl
@[simp] theorem State.updRecord_launches (s : State) (r : Nat) (f : Record → Record) : (s.updRecord r f).launches = s.launches := rfl
@[simp] theorem State.updRecord_blocks (s : State) (r : Nat) (f : Record → Record) : (s.updRecord r f).blocks = s.blocks := rfl
@[simp] theorem State.updRecord_saved (s : State) (r : Nat) (f : Record → Record) : (s.updRecord r f).saved = s.saved := rfl
@[simp] theorem State.updRecord_packets (s : State) (r : Nat) (f : Record → Record) : (s.updRecord r f).packets = s.packets := rfl
@[simp] theorem State.updRecord_successors (s : State) (r : Nat) (f : Record → Record) : (s.updRecord r f).successors = s.successors := rfl
@[simp] theorem State.updRecord_placed (s : State) (r : Nat) (f : Record → Record) : (s.updRecord r f).placed = s.placed := rfl
@[simp] theorem State.updRecord_remoteClaims (s : State) (r : Nat) (f : Record → Record) : (s.updRecord r f).remoteClaims = s.remoteClaims := rfl
@[simp] theorem State.updRecord_lastServed (s : State) (r : Nat) (f : Record → Record) : (s.updRecord r f).lastServed = s.lastServed := rfl
@[simp] theorem State.updRecord_signals (s : State) (r : Nat) (f : Record → Record) : (s.updRecord r f).signals = s.signals := rfl
@[simp] theorem State.updRecord_harnessWaits (s : State) (r : Nat) (f : Record → Record) : (s.updRecord r f).harnessWaits = s.harnessWaits := rfl
@[simp] theorem State.updRecord_heldReports (s : State) (r : Nat) (f : Record → Record) : (s.updRecord r f).heldReports = s.heldReports := rfl
@[simp] theorem State.updRecord_wbqs (s : State) (r : Nat) (f : Record → Record) : (s.updRecord r f).wbqs = s.wbqs := rfl
@[simp] theorem State.updRecord_ops (s : State) (r : Nat) (f : Record → Record) : (s.updRecord r f).ops = s.ops := rfl
@[simp] theorem State.updRecord_epoch (s : State) (r : Nat) (f : Record → Record) : (s.updRecord r f).epoch = s.epoch := rfl
@[simp] theorem State.updRecord_pfences (s : State) (r : Nat) (f : Record → Record) : (s.updRecord r f).pfences = s.pfences := rfl
@[simp] theorem State.updRecord_scm (s : State) (r : Nat) (f : Record → Record) : (s.updRecord r f).scm = s.scm := rfl
@[simp] theorem State.updRecord_captures (s : State) (r : Nat) (f : Record → Record) : (s.updRecord r f).captures = s.captures := rfl
@[simp] theorem State.updRecord_stableSlots (s : State) (r : Nat) (f : Record → Record) : (s.updRecord r f).stableSlots = s.stableSlots := rfl
@[simp] theorem State.updRecord_fragments (s : State) (r : Nat) (f : Record → Record) : (s.updRecord r f).fragments = s.fragments := rfl
@[simp] theorem State.updRecord_digests (s : State) (r : Nat) (f : Record → Record) : (s.updRecord r f).digests = s.digests := rfl
@[simp] theorem State.updRecord_ports (s : State) (r : Nat) (f : Record → Record) : (s.updRecord r f).ports = s.ports := rfl
@[simp] theorem State.updRecord_received (s : State) (r : Nat) (f : Record → Record) : (s.updRecord r f).received = s.received := rfl
@[simp] theorem State.updRecord_outbox (s : State) (r : Nat) (f : Record → Record) : (s.updRecord r f).outbox = s.outbox := rfl
@[simp] theorem State.updRecord_peers (s : State) (r : Nat) (f : Record → Record) : (s.updRecord r f).peers = s.peers := rfl
@[simp] theorem State.updRecord_answered (s : State) (r : Nat) (f : Record → Record) : (s.updRecord r f).answered = s.answered := rfl
@[simp] theorem State.updRecord_code (s : State) (r : Nat) (f : Record → Record) : (s.updRecord r f).code = s.code := rfl
@[simp] theorem State.updRecord_notices (s : State) (r : Nat) (f : Record → Record) : (s.updRecord r f).notices = s.notices := rfl
@[simp] theorem State.updRecord_runs (s : State) (r : Nat) (f : Record → Record) : (s.updRecord r f).runs = s.runs := rfl
@[simp] theorem State.updRecord_collLoads (s : State) (r : Nat) (f : Record → Record) : (s.updRecord r f).collLoads = s.collLoads := rfl
@[simp] theorem State.updRecord_repartIssues (s : State) (r : Nat) (f : Record → Record) : (s.updRecord r f).repartIssues = s.repartIssues := rfl
@[simp] theorem State.updRecord_dumps (s : State) (r : Nat) (f : Record → Record) : (s.updRecord r f).dumps = s.dumps := rfl
@[simp] theorem State.updRecord_tests (s : State) (r : Nat) (f : Record → Record) : (s.updRecord r f).tests = s.tests := rfl
@[simp] theorem State.updRecord_preempting (s : State) (r : Nat) (f : Record → Record) : (s.updRecord r f).preempting = s.preempting := rfl
@[simp] theorem State.updRecord_arrlog (s : State) (r : Nat) (f : Record → Record) : (s.updRecord r f).arrlog = s.arrlog := rfl
@[simp] theorem State.updRecord_xfrlog (s : State) (r : Nat) (f : Record → Record) : (s.updRecord r f).xfrlog = s.xfrlog := rfl
@[simp] theorem State.updRecord_faillog (s : State) (r : Nat) (f : Record → Record) : (s.updRecord r f).faillog = s.faillog := rfl
@[simp] theorem State.updRecord_fusedMap (s : State) (r : Nat) (f : Record → Record) : (s.updRecord r f).fusedMap = s.fusedMap := rfl
@[simp] theorem State.updRecord_serviceMap (s : State) (r : Nat) (f : Record → Record) : (s.updRecord r f).serviceMap = s.serviceMap := rfl
@[simp] theorem State.updRecord_temps (s : State) (r : Nat) (f : Record → Record) : (s.updRecord r f).temps = s.temps := rfl
@[simp] theorem State.updRecord_selfRefresh (s : State) (r : Nat) (f : Record → Record) : (s.updRecord r f).selfRefresh = s.selfRefresh := rfl
@[simp] theorem State.updRecord_fencedPcs (s : State) (r : Nat) (f : Record → Record) : (s.updRecord r f).fencedPcs = s.fencedPcs := rfl
@[simp] theorem State.updRecord_freezeOrder (s : State) (r : Nat) (f : Record → Record) : (s.updRecord r f).freezeOrder = s.freezeOrder := rfl
@[simp] theorem State.updRecord_regs (s : State) (r : Nat) (f : Record → Record) : (s.updRecord r f).regs = s.regs := rfl

/-! ### later -/

@[simp] theorem State.later_agenda (s : State) (ns : Nat) : (s.later ns).agenda = s.agenda := rfl
@[simp] theorem State.later_tick (s : State) (ns : Nat) : (s.later ns).tick = s.tick := rfl
@[simp] theorem State.later_serial (s : State) (ns : Nat) : (s.later ns).serial = s.serial := rfl
@[simp] theorem State.later_issuing (s : State) (ns : Nat) : (s.later ns).issuing = s.issuing := rfl
@[simp] theorem State.later_timebase (s : State) (ns : Nat) : (s.later ns).timebase = s.timebase + BitVec.ofNat 64 ns := rfl
@[simp] theorem State.later_pkg (s : State) (ns : Nat) : (s.later ns).pkg = s.pkg := rfl
@[simp] theorem State.later_domain (s : State) (ns : Nat) : (s.later ns).domain = s.domain := rfl
@[simp] theorem State.later_failed (s : State) (ns : Nat) : (s.later ns).failed = s.failed := rfl
@[simp] theorem State.later_threads (s : State) (ns : Nat) : (s.later ns).threads = s.threads := rfl
@[simp] theorem State.later_groups (s : State) (ns : Nat) : (s.later ns).groups = s.groups := rfl
@[simp] theorem State.later_units (s : State) (ns : Nat) : (s.later ns).units = s.units := rfl
@[simp] theorem State.later_cores (s : State) (ns : Nat) : (s.later ns).cores = s.cores := rfl
@[simp] theorem State.later_records (s : State) (ns : Nat) : (s.later ns).records = s.records := rfl
@[simp] theorem State.later_lines (s : State) (ns : Nat) : (s.later ns).lines = s.lines := rfl
@[simp] theorem State.later_larder (s : State) (ns : Nat) : (s.later ns).larder = s.larder := rfl
@[simp] theorem State.later_freed (s : State) (ns : Nat) : (s.later ns).freed = s.freed := rfl
@[simp] theorem State.later_lrenews (s : State) (ns : Nat) : (s.later ns).lrenews = s.lrenews := rfl
@[simp] theorem State.later_sflushes (s : State) (ns : Nat) : (s.later ns).sflushes = s.sflushes := rfl
@[simp] theorem State.later_memory (s : State) (ns : Nat) : (s.later ns).memory = s.memory := rfl
@[simp] theorem State.later_hostMemory (s : State) (ns : Nat) : (s.later ns).hostMemory = s.hostMemory := rfl
@[simp] theorem State.later_poison (s : State) (ns : Nat) : (s.later ns).poison = s.poison := rfl
@[simp] theorem State.later_misses (s : State) (ns : Nat) : (s.later ns).misses = s.misses := rfl
@[simp] theorem State.later_walkCaches (s : State) (ns : Nat) : (s.later ns).walkCaches = s.walkCaches := rfl
@[simp] theorem State.later_walks (s : State) (ns : Nat) : (s.later ns).walks = s.walks := rfl
@[simp] theorem State.later_tickets (s : State) (ns : Nat) : (s.later ns).tickets = s.tickets := rfl
@[simp] theorem State.later_nextTicket (s : State) (ns : Nat) : (s.later ns).nextTicket = s.nextTicket := rfl
@[simp] theorem State.later_tiles (s : State) (ns : Nat) : (s.later ns).tiles = s.tiles := rfl
@[simp] theorem State.later_tileWords (s : State) (ns : Nat) : (s.later ns).tileWords = s.tileWords := rfl
@[simp] theorem State.later_bank (s : State) (ns : Nat) : (s.later ns).bank = s.bank := rfl
@[simp] theorem State.later_copies (s : State) (ns : Nat) : (s.later ns).copies = s.copies := rfl
@[simp] theorem State.later_queuesMat (s : State) (ns : Nat) : (s.later ns).queuesMat = s.queuesMat := rfl
@[simp] theorem State.later_partials (s : State) (ns : Nat) : (s.later ns).partials = s.partials := rfl
@[simp] theorem State.later_swaps (s : State) (ns : Nat) : (s.later ns).swaps = s.swaps := rfl
@[simp] theorem State.later_contexts (s : State) (ns : Nat) : (s.later ns).contexts = s.contexts := rfl
@[simp] theorem State.later_launches (s : State) (ns : Nat) : (s.later ns).launches = s.launches := rfl
@[simp] theorem State.later_blocks (s : State) (ns : Nat) : (s.later ns).blocks = s.blocks := rfl
@[simp] theorem State.later_saved (s : State) (ns : Nat) : (s.later ns).saved = s.saved := rfl
@[simp] theorem State.later_packets (s : State) (ns : Nat) : (s.later ns).packets = s.packets := rfl
@[simp] theorem State.later_successors (s : State) (ns : Nat) : (s.later ns).successors = s.successors := rfl
@[simp] theorem State.later_placed (s : State) (ns : Nat) : (s.later ns).placed = s.placed := rfl
@[simp] theorem State.later_remoteClaims (s : State) (ns : Nat) : (s.later ns).remoteClaims = s.remoteClaims := rfl
@[simp] theorem State.later_lastServed (s : State) (ns : Nat) : (s.later ns).lastServed = s.lastServed := rfl
@[simp] theorem State.later_signals (s : State) (ns : Nat) : (s.later ns).signals = s.signals := rfl
@[simp] theorem State.later_harnessWaits (s : State) (ns : Nat) : (s.later ns).harnessWaits = s.harnessWaits := rfl
@[simp] theorem State.later_heldReports (s : State) (ns : Nat) : (s.later ns).heldReports = s.heldReports := rfl
@[simp] theorem State.later_wbqs (s : State) (ns : Nat) : (s.later ns).wbqs = s.wbqs := rfl
@[simp] theorem State.later_ops (s : State) (ns : Nat) : (s.later ns).ops = s.ops := rfl
@[simp] theorem State.later_epoch (s : State) (ns : Nat) : (s.later ns).epoch = s.epoch := rfl
@[simp] theorem State.later_pfences (s : State) (ns : Nat) : (s.later ns).pfences = s.pfences := rfl
@[simp] theorem State.later_scm (s : State) (ns : Nat) : (s.later ns).scm = s.scm := rfl
@[simp] theorem State.later_captures (s : State) (ns : Nat) : (s.later ns).captures = s.captures := rfl
@[simp] theorem State.later_stableSlots (s : State) (ns : Nat) : (s.later ns).stableSlots = s.stableSlots := rfl
@[simp] theorem State.later_fragments (s : State) (ns : Nat) : (s.later ns).fragments = s.fragments := rfl
@[simp] theorem State.later_digests (s : State) (ns : Nat) : (s.later ns).digests = s.digests := rfl
@[simp] theorem State.later_ports (s : State) (ns : Nat) : (s.later ns).ports = s.ports := rfl
@[simp] theorem State.later_received (s : State) (ns : Nat) : (s.later ns).received = s.received := rfl
@[simp] theorem State.later_outbox (s : State) (ns : Nat) : (s.later ns).outbox = s.outbox := rfl
@[simp] theorem State.later_peers (s : State) (ns : Nat) : (s.later ns).peers = s.peers := rfl
@[simp] theorem State.later_answered (s : State) (ns : Nat) : (s.later ns).answered = s.answered := rfl
@[simp] theorem State.later_code (s : State) (ns : Nat) : (s.later ns).code = s.code := rfl
@[simp] theorem State.later_notices (s : State) (ns : Nat) : (s.later ns).notices = s.notices := rfl
@[simp] theorem State.later_runs (s : State) (ns : Nat) : (s.later ns).runs = s.runs := rfl
@[simp] theorem State.later_collLoads (s : State) (ns : Nat) : (s.later ns).collLoads = s.collLoads := rfl
@[simp] theorem State.later_repartIssues (s : State) (ns : Nat) : (s.later ns).repartIssues = s.repartIssues := rfl
@[simp] theorem State.later_dumps (s : State) (ns : Nat) : (s.later ns).dumps = s.dumps := rfl
@[simp] theorem State.later_tests (s : State) (ns : Nat) : (s.later ns).tests = s.tests := rfl
@[simp] theorem State.later_preempting (s : State) (ns : Nat) : (s.later ns).preempting = s.preempting := rfl
@[simp] theorem State.later_arrlog (s : State) (ns : Nat) : (s.later ns).arrlog = s.arrlog := rfl
@[simp] theorem State.later_xfrlog (s : State) (ns : Nat) : (s.later ns).xfrlog = s.xfrlog := rfl
@[simp] theorem State.later_faillog (s : State) (ns : Nat) : (s.later ns).faillog = s.faillog := rfl
@[simp] theorem State.later_fusedMap (s : State) (ns : Nat) : (s.later ns).fusedMap = s.fusedMap := rfl
@[simp] theorem State.later_serviceMap (s : State) (ns : Nat) : (s.later ns).serviceMap = s.serviceMap := rfl
@[simp] theorem State.later_temps (s : State) (ns : Nat) : (s.later ns).temps = s.temps := rfl
@[simp] theorem State.later_selfRefresh (s : State) (ns : Nat) : (s.later ns).selfRefresh = s.selfRefresh := rfl
@[simp] theorem State.later_fencedPcs (s : State) (ns : Nat) : (s.later ns).fencedPcs = s.fencedPcs := rfl
@[simp] theorem State.later_freezeOrder (s : State) (ns : Nat) : (s.later ns).freezeOrder = s.freezeOrder := rfl
@[simp] theorem State.later_regs (s : State) (ns : Nat) : (s.later ns).regs = s.regs := rfl

/-! ### updPort -/

@[simp] theorem State.updPort_agenda (s : State) (n : Nat) (f : Port → Port) : (s.updPort n f).agenda = s.agenda := rfl
@[simp] theorem State.updPort_tick (s : State) (n : Nat) (f : Port → Port) : (s.updPort n f).tick = s.tick := rfl
@[simp] theorem State.updPort_serial (s : State) (n : Nat) (f : Port → Port) : (s.updPort n f).serial = s.serial := rfl
@[simp] theorem State.updPort_issuing (s : State) (n : Nat) (f : Port → Port) : (s.updPort n f).issuing = s.issuing := rfl
@[simp] theorem State.updPort_timebase (s : State) (n : Nat) (f : Port → Port) : (s.updPort n f).timebase = s.timebase := rfl
@[simp] theorem State.updPort_pkg (s : State) (n : Nat) (f : Port → Port) : (s.updPort n f).pkg = s.pkg := rfl
@[simp] theorem State.updPort_domain (s : State) (n : Nat) (f : Port → Port) : (s.updPort n f).domain = s.domain := rfl
@[simp] theorem State.updPort_failed (s : State) (n : Nat) (f : Port → Port) : (s.updPort n f).failed = s.failed := rfl
@[simp] theorem State.updPort_threads (s : State) (n : Nat) (f : Port → Port) : (s.updPort n f).threads = s.threads := rfl
@[simp] theorem State.updPort_groups (s : State) (n : Nat) (f : Port → Port) : (s.updPort n f).groups = s.groups := rfl
@[simp] theorem State.updPort_units (s : State) (n : Nat) (f : Port → Port) : (s.updPort n f).units = s.units := rfl
@[simp] theorem State.updPort_cores (s : State) (n : Nat) (f : Port → Port) : (s.updPort n f).cores = s.cores := rfl
@[simp] theorem State.updPort_records (s : State) (n : Nat) (f : Port → Port) : (s.updPort n f).records = s.records := rfl
@[simp] theorem State.updPort_lines (s : State) (n : Nat) (f : Port → Port) : (s.updPort n f).lines = s.lines := rfl
@[simp] theorem State.updPort_larder (s : State) (n : Nat) (f : Port → Port) : (s.updPort n f).larder = s.larder := rfl
@[simp] theorem State.updPort_freed (s : State) (n : Nat) (f : Port → Port) : (s.updPort n f).freed = s.freed := rfl
@[simp] theorem State.updPort_lrenews (s : State) (n : Nat) (f : Port → Port) : (s.updPort n f).lrenews = s.lrenews := rfl
@[simp] theorem State.updPort_sflushes (s : State) (n : Nat) (f : Port → Port) : (s.updPort n f).sflushes = s.sflushes := rfl
@[simp] theorem State.updPort_memory (s : State) (n : Nat) (f : Port → Port) : (s.updPort n f).memory = s.memory := rfl
@[simp] theorem State.updPort_hostMemory (s : State) (n : Nat) (f : Port → Port) : (s.updPort n f).hostMemory = s.hostMemory := rfl
@[simp] theorem State.updPort_poison (s : State) (n : Nat) (f : Port → Port) : (s.updPort n f).poison = s.poison := rfl
@[simp] theorem State.updPort_misses (s : State) (n : Nat) (f : Port → Port) : (s.updPort n f).misses = s.misses := rfl
@[simp] theorem State.updPort_walkCaches (s : State) (n : Nat) (f : Port → Port) : (s.updPort n f).walkCaches = s.walkCaches := rfl
@[simp] theorem State.updPort_walks (s : State) (n : Nat) (f : Port → Port) : (s.updPort n f).walks = s.walks := rfl
@[simp] theorem State.updPort_tickets (s : State) (n : Nat) (f : Port → Port) : (s.updPort n f).tickets = s.tickets := rfl
@[simp] theorem State.updPort_nextTicket (s : State) (n : Nat) (f : Port → Port) : (s.updPort n f).nextTicket = s.nextTicket := rfl
@[simp] theorem State.updPort_tiles (s : State) (n : Nat) (f : Port → Port) : (s.updPort n f).tiles = s.tiles := rfl
@[simp] theorem State.updPort_tileWords (s : State) (n : Nat) (f : Port → Port) : (s.updPort n f).tileWords = s.tileWords := rfl
@[simp] theorem State.updPort_bank (s : State) (n : Nat) (f : Port → Port) : (s.updPort n f).bank = s.bank := rfl
@[simp] theorem State.updPort_copies (s : State) (n : Nat) (f : Port → Port) : (s.updPort n f).copies = s.copies := rfl
@[simp] theorem State.updPort_queuesMat (s : State) (n : Nat) (f : Port → Port) : (s.updPort n f).queuesMat = s.queuesMat := rfl
@[simp] theorem State.updPort_partials (s : State) (n : Nat) (f : Port → Port) : (s.updPort n f).partials = s.partials := rfl
@[simp] theorem State.updPort_swaps (s : State) (n : Nat) (f : Port → Port) : (s.updPort n f).swaps = s.swaps := rfl
@[simp] theorem State.updPort_contexts (s : State) (n : Nat) (f : Port → Port) : (s.updPort n f).contexts = s.contexts := rfl
@[simp] theorem State.updPort_launches (s : State) (n : Nat) (f : Port → Port) : (s.updPort n f).launches = s.launches := rfl
@[simp] theorem State.updPort_blocks (s : State) (n : Nat) (f : Port → Port) : (s.updPort n f).blocks = s.blocks := rfl
@[simp] theorem State.updPort_saved (s : State) (n : Nat) (f : Port → Port) : (s.updPort n f).saved = s.saved := rfl
@[simp] theorem State.updPort_packets (s : State) (n : Nat) (f : Port → Port) : (s.updPort n f).packets = s.packets := rfl
@[simp] theorem State.updPort_successors (s : State) (n : Nat) (f : Port → Port) : (s.updPort n f).successors = s.successors := rfl
@[simp] theorem State.updPort_placed (s : State) (n : Nat) (f : Port → Port) : (s.updPort n f).placed = s.placed := rfl
@[simp] theorem State.updPort_remoteClaims (s : State) (n : Nat) (f : Port → Port) : (s.updPort n f).remoteClaims = s.remoteClaims := rfl
@[simp] theorem State.updPort_lastServed (s : State) (n : Nat) (f : Port → Port) : (s.updPort n f).lastServed = s.lastServed := rfl
@[simp] theorem State.updPort_signals (s : State) (n : Nat) (f : Port → Port) : (s.updPort n f).signals = s.signals := rfl
@[simp] theorem State.updPort_harnessWaits (s : State) (n : Nat) (f : Port → Port) : (s.updPort n f).harnessWaits = s.harnessWaits := rfl
@[simp] theorem State.updPort_heldReports (s : State) (n : Nat) (f : Port → Port) : (s.updPort n f).heldReports = s.heldReports := rfl
@[simp] theorem State.updPort_wbqs (s : State) (n : Nat) (f : Port → Port) : (s.updPort n f).wbqs = s.wbqs := rfl
@[simp] theorem State.updPort_ops (s : State) (n : Nat) (f : Port → Port) : (s.updPort n f).ops = s.ops := rfl
@[simp] theorem State.updPort_epoch (s : State) (n : Nat) (f : Port → Port) : (s.updPort n f).epoch = s.epoch := rfl
@[simp] theorem State.updPort_pfences (s : State) (n : Nat) (f : Port → Port) : (s.updPort n f).pfences = s.pfences := rfl
@[simp] theorem State.updPort_scm (s : State) (n : Nat) (f : Port → Port) : (s.updPort n f).scm = s.scm := rfl
@[simp] theorem State.updPort_captures (s : State) (n : Nat) (f : Port → Port) : (s.updPort n f).captures = s.captures := rfl
@[simp] theorem State.updPort_stableSlots (s : State) (n : Nat) (f : Port → Port) : (s.updPort n f).stableSlots = s.stableSlots := rfl
@[simp] theorem State.updPort_fragments (s : State) (n : Nat) (f : Port → Port) : (s.updPort n f).fragments = s.fragments := rfl
@[simp] theorem State.updPort_digests (s : State) (n : Nat) (f : Port → Port) : (s.updPort n f).digests = s.digests := rfl
@[simp] theorem State.updPort_ports (s : State) (n : Nat) (f : Port → Port) : (s.updPort n f).ports = adjustAt s.ports n f := rfl
@[simp] theorem State.updPort_received (s : State) (n : Nat) (f : Port → Port) : (s.updPort n f).received = s.received := rfl
@[simp] theorem State.updPort_outbox (s : State) (n : Nat) (f : Port → Port) : (s.updPort n f).outbox = s.outbox := rfl
@[simp] theorem State.updPort_peers (s : State) (n : Nat) (f : Port → Port) : (s.updPort n f).peers = s.peers := rfl
@[simp] theorem State.updPort_answered (s : State) (n : Nat) (f : Port → Port) : (s.updPort n f).answered = s.answered := rfl
@[simp] theorem State.updPort_code (s : State) (n : Nat) (f : Port → Port) : (s.updPort n f).code = s.code := rfl
@[simp] theorem State.updPort_notices (s : State) (n : Nat) (f : Port → Port) : (s.updPort n f).notices = s.notices := rfl
@[simp] theorem State.updPort_runs (s : State) (n : Nat) (f : Port → Port) : (s.updPort n f).runs = s.runs := rfl
@[simp] theorem State.updPort_collLoads (s : State) (n : Nat) (f : Port → Port) : (s.updPort n f).collLoads = s.collLoads := rfl
@[simp] theorem State.updPort_repartIssues (s : State) (n : Nat) (f : Port → Port) : (s.updPort n f).repartIssues = s.repartIssues := rfl
@[simp] theorem State.updPort_dumps (s : State) (n : Nat) (f : Port → Port) : (s.updPort n f).dumps = s.dumps := rfl
@[simp] theorem State.updPort_tests (s : State) (n : Nat) (f : Port → Port) : (s.updPort n f).tests = s.tests := rfl
@[simp] theorem State.updPort_preempting (s : State) (n : Nat) (f : Port → Port) : (s.updPort n f).preempting = s.preempting := rfl
@[simp] theorem State.updPort_arrlog (s : State) (n : Nat) (f : Port → Port) : (s.updPort n f).arrlog = s.arrlog := rfl
@[simp] theorem State.updPort_xfrlog (s : State) (n : Nat) (f : Port → Port) : (s.updPort n f).xfrlog = s.xfrlog := rfl
@[simp] theorem State.updPort_faillog (s : State) (n : Nat) (f : Port → Port) : (s.updPort n f).faillog = s.faillog := rfl
@[simp] theorem State.updPort_fusedMap (s : State) (n : Nat) (f : Port → Port) : (s.updPort n f).fusedMap = s.fusedMap := rfl
@[simp] theorem State.updPort_serviceMap (s : State) (n : Nat) (f : Port → Port) : (s.updPort n f).serviceMap = s.serviceMap := rfl
@[simp] theorem State.updPort_temps (s : State) (n : Nat) (f : Port → Port) : (s.updPort n f).temps = s.temps := rfl
@[simp] theorem State.updPort_selfRefresh (s : State) (n : Nat) (f : Port → Port) : (s.updPort n f).selfRefresh = s.selfRefresh := rfl
@[simp] theorem State.updPort_fencedPcs (s : State) (n : Nat) (f : Port → Port) : (s.updPort n f).fencedPcs = s.fencedPcs := rfl
@[simp] theorem State.updPort_freezeOrder (s : State) (n : Nat) (f : Port → Port) : (s.updPort n f).freezeOrder = s.freezeOrder := rfl
@[simp] theorem State.updPort_regs (s : State) (n : Nat) (f : Port → Port) : (s.updPort n f).regs = s.regs := rfl

/-! ### logArray -/

@[simp] theorem State.logArray_agenda (s : State) (src cls rest : Nat) : (s.logArray src cls rest).agenda = s.agenda := rfl
@[simp] theorem State.logArray_tick (s : State) (src cls rest : Nat) : (s.logArray src cls rest).tick = s.tick := rfl
@[simp] theorem State.logArray_serial (s : State) (src cls rest : Nat) : (s.logArray src cls rest).serial = s.serial := rfl
@[simp] theorem State.logArray_issuing (s : State) (src cls rest : Nat) : (s.logArray src cls rest).issuing = s.issuing := rfl
@[simp] theorem State.logArray_timebase (s : State) (src cls rest : Nat) : (s.logArray src cls rest).timebase = s.timebase := rfl
@[simp] theorem State.logArray_pkg (s : State) (src cls rest : Nat) : (s.logArray src cls rest).pkg = s.pkg := rfl
@[simp] theorem State.logArray_domain (s : State) (src cls rest : Nat) : (s.logArray src cls rest).domain = s.domain := rfl
@[simp] theorem State.logArray_failed (s : State) (src cls rest : Nat) : (s.logArray src cls rest).failed = s.failed := rfl
@[simp] theorem State.logArray_threads (s : State) (src cls rest : Nat) : (s.logArray src cls rest).threads = s.threads := rfl
@[simp] theorem State.logArray_groups (s : State) (src cls rest : Nat) : (s.logArray src cls rest).groups = s.groups := rfl
@[simp] theorem State.logArray_units (s : State) (src cls rest : Nat) : (s.logArray src cls rest).units = s.units := rfl
@[simp] theorem State.logArray_cores (s : State) (src cls rest : Nat) : (s.logArray src cls rest).cores = s.cores := rfl
@[simp] theorem State.logArray_records (s : State) (src cls rest : Nat) : (s.logArray src cls rest).records = s.records := rfl
@[simp] theorem State.logArray_lines (s : State) (src cls rest : Nat) : (s.logArray src cls rest).lines = s.lines := rfl
@[simp] theorem State.logArray_larder (s : State) (src cls rest : Nat) : (s.logArray src cls rest).larder = s.larder := rfl
@[simp] theorem State.logArray_freed (s : State) (src cls rest : Nat) : (s.logArray src cls rest).freed = s.freed := rfl
@[simp] theorem State.logArray_lrenews (s : State) (src cls rest : Nat) : (s.logArray src cls rest).lrenews = s.lrenews := rfl
@[simp] theorem State.logArray_sflushes (s : State) (src cls rest : Nat) : (s.logArray src cls rest).sflushes = s.sflushes := rfl
@[simp] theorem State.logArray_memory (s : State) (src cls rest : Nat) : (s.logArray src cls rest).memory = s.memory := rfl
@[simp] theorem State.logArray_hostMemory (s : State) (src cls rest : Nat) : (s.logArray src cls rest).hostMemory = s.hostMemory := rfl
@[simp] theorem State.logArray_poison (s : State) (src cls rest : Nat) : (s.logArray src cls rest).poison = s.poison := rfl
@[simp] theorem State.logArray_misses (s : State) (src cls rest : Nat) : (s.logArray src cls rest).misses = s.misses := rfl
@[simp] theorem State.logArray_walkCaches (s : State) (src cls rest : Nat) : (s.logArray src cls rest).walkCaches = s.walkCaches := rfl
@[simp] theorem State.logArray_walks (s : State) (src cls rest : Nat) : (s.logArray src cls rest).walks = s.walks := rfl
@[simp] theorem State.logArray_tickets (s : State) (src cls rest : Nat) : (s.logArray src cls rest).tickets = s.tickets := rfl
@[simp] theorem State.logArray_nextTicket (s : State) (src cls rest : Nat) : (s.logArray src cls rest).nextTicket = s.nextTicket := rfl
@[simp] theorem State.logArray_tiles (s : State) (src cls rest : Nat) : (s.logArray src cls rest).tiles = s.tiles := rfl
@[simp] theorem State.logArray_tileWords (s : State) (src cls rest : Nat) : (s.logArray src cls rest).tileWords = s.tileWords := rfl
@[simp] theorem State.logArray_bank (s : State) (src cls rest : Nat) : (s.logArray src cls rest).bank = s.bank := rfl
@[simp] theorem State.logArray_copies (s : State) (src cls rest : Nat) : (s.logArray src cls rest).copies = s.copies := rfl
@[simp] theorem State.logArray_queuesMat (s : State) (src cls rest : Nat) : (s.logArray src cls rest).queuesMat = s.queuesMat := rfl
@[simp] theorem State.logArray_partials (s : State) (src cls rest : Nat) : (s.logArray src cls rest).partials = s.partials := rfl
@[simp] theorem State.logArray_swaps (s : State) (src cls rest : Nat) : (s.logArray src cls rest).swaps = s.swaps := rfl
@[simp] theorem State.logArray_contexts (s : State) (src cls rest : Nat) : (s.logArray src cls rest).contexts = s.contexts := rfl
@[simp] theorem State.logArray_launches (s : State) (src cls rest : Nat) : (s.logArray src cls rest).launches = s.launches := rfl
@[simp] theorem State.logArray_blocks (s : State) (src cls rest : Nat) : (s.logArray src cls rest).blocks = s.blocks := rfl
@[simp] theorem State.logArray_saved (s : State) (src cls rest : Nat) : (s.logArray src cls rest).saved = s.saved := rfl
@[simp] theorem State.logArray_packets (s : State) (src cls rest : Nat) : (s.logArray src cls rest).packets = s.packets := rfl
@[simp] theorem State.logArray_successors (s : State) (src cls rest : Nat) : (s.logArray src cls rest).successors = s.successors := rfl
@[simp] theorem State.logArray_placed (s : State) (src cls rest : Nat) : (s.logArray src cls rest).placed = s.placed := rfl
@[simp] theorem State.logArray_remoteClaims (s : State) (src cls rest : Nat) : (s.logArray src cls rest).remoteClaims = s.remoteClaims := rfl
@[simp] theorem State.logArray_lastServed (s : State) (src cls rest : Nat) : (s.logArray src cls rest).lastServed = s.lastServed := rfl
@[simp] theorem State.logArray_signals (s : State) (src cls rest : Nat) : (s.logArray src cls rest).signals = s.signals := rfl
@[simp] theorem State.logArray_harnessWaits (s : State) (src cls rest : Nat) : (s.logArray src cls rest).harnessWaits = s.harnessWaits := rfl
@[simp] theorem State.logArray_heldReports (s : State) (src cls rest : Nat) : (s.logArray src cls rest).heldReports = s.heldReports := rfl
@[simp] theorem State.logArray_wbqs (s : State) (src cls rest : Nat) : (s.logArray src cls rest).wbqs = s.wbqs := rfl
@[simp] theorem State.logArray_ops (s : State) (src cls rest : Nat) : (s.logArray src cls rest).ops = s.ops := rfl
@[simp] theorem State.logArray_epoch (s : State) (src cls rest : Nat) : (s.logArray src cls rest).epoch = s.epoch := rfl
@[simp] theorem State.logArray_pfences (s : State) (src cls rest : Nat) : (s.logArray src cls rest).pfences = s.pfences := rfl
@[simp] theorem State.logArray_scm (s : State) (src cls rest : Nat) : (s.logArray src cls rest).scm = s.scm := rfl
@[simp] theorem State.logArray_captures (s : State) (src cls rest : Nat) : (s.logArray src cls rest).captures = s.captures := rfl
@[simp] theorem State.logArray_stableSlots (s : State) (src cls rest : Nat) : (s.logArray src cls rest).stableSlots = s.stableSlots := rfl
@[simp] theorem State.logArray_fragments (s : State) (src cls rest : Nat) : (s.logArray src cls rest).fragments = s.fragments := rfl
@[simp] theorem State.logArray_digests (s : State) (src cls rest : Nat) : (s.logArray src cls rest).digests = s.digests := rfl
@[simp] theorem State.logArray_ports (s : State) (src cls rest : Nat) : (s.logArray src cls rest).ports = s.ports := rfl
@[simp] theorem State.logArray_received (s : State) (src cls rest : Nat) : (s.logArray src cls rest).received = s.received := rfl
@[simp] theorem State.logArray_outbox (s : State) (src cls rest : Nat) : (s.logArray src cls rest).outbox = s.outbox := rfl
@[simp] theorem State.logArray_peers (s : State) (src cls rest : Nat) : (s.logArray src cls rest).peers = s.peers := rfl
@[simp] theorem State.logArray_answered (s : State) (src cls rest : Nat) : (s.logArray src cls rest).answered = s.answered := rfl
@[simp] theorem State.logArray_code (s : State) (src cls rest : Nat) : (s.logArray src cls rest).code = s.code := rfl
@[simp] theorem State.logArray_notices (s : State) (src cls rest : Nat) : (s.logArray src cls rest).notices = s.notices := rfl
@[simp] theorem State.logArray_runs (s : State) (src cls rest : Nat) : (s.logArray src cls rest).runs = s.runs := rfl
@[simp] theorem State.logArray_collLoads (s : State) (src cls rest : Nat) : (s.logArray src cls rest).collLoads = s.collLoads := rfl
@[simp] theorem State.logArray_repartIssues (s : State) (src cls rest : Nat) : (s.logArray src cls rest).repartIssues = s.repartIssues := rfl
@[simp] theorem State.logArray_dumps (s : State) (src cls rest : Nat) : (s.logArray src cls rest).dumps = s.dumps := rfl
@[simp] theorem State.logArray_tests (s : State) (src cls rest : Nat) : (s.logArray src cls rest).tests = s.tests := rfl
@[simp] theorem State.logArray_preempting (s : State) (src cls rest : Nat) : (s.logArray src cls rest).preempting = s.preempting := rfl
@[simp] theorem State.logArray_xfrlog (s : State) (src cls rest : Nat) : (s.logArray src cls rest).xfrlog = s.xfrlog := rfl
@[simp] theorem State.logArray_faillog (s : State) (src cls rest : Nat) : (s.logArray src cls rest).faillog = s.faillog := rfl
@[simp] theorem State.logArray_fusedMap (s : State) (src cls rest : Nat) : (s.logArray src cls rest).fusedMap = s.fusedMap := rfl
@[simp] theorem State.logArray_serviceMap (s : State) (src cls rest : Nat) : (s.logArray src cls rest).serviceMap = s.serviceMap := rfl
@[simp] theorem State.logArray_temps (s : State) (src cls rest : Nat) : (s.logArray src cls rest).temps = s.temps := rfl
@[simp] theorem State.logArray_selfRefresh (s : State) (src cls rest : Nat) : (s.logArray src cls rest).selfRefresh = s.selfRefresh := rfl
@[simp] theorem State.logArray_fencedPcs (s : State) (src cls rest : Nat) : (s.logArray src cls rest).fencedPcs = s.fencedPcs := rfl
@[simp] theorem State.logArray_freezeOrder (s : State) (src cls rest : Nat) : (s.logArray src cls rest).freezeOrder = s.freezeOrder := rfl
@[simp] theorem State.logArray_regs (s : State) (src cls rest : Nat) : (s.logArray src cls rest).regs = s.regs := rfl

/-! ### fresh -/

@[simp] theorem State.fresh_number (s : State) : s.fresh.1 = s.serial := rfl
@[simp] theorem State.fresh_agenda (s : State) : s.fresh.2.agenda = s.agenda := rfl
@[simp] theorem State.fresh_tick (s : State) : s.fresh.2.tick = s.tick := rfl
@[simp] theorem State.fresh_serial (s : State) : s.fresh.2.serial = s.serial + 1 := rfl
@[simp] theorem State.fresh_issuing (s : State) : s.fresh.2.issuing = s.issuing := rfl
@[simp] theorem State.fresh_timebase (s : State) : s.fresh.2.timebase = s.timebase := rfl
@[simp] theorem State.fresh_pkg (s : State) : s.fresh.2.pkg = s.pkg := rfl
@[simp] theorem State.fresh_domain (s : State) : s.fresh.2.domain = s.domain := rfl
@[simp] theorem State.fresh_failed (s : State) : s.fresh.2.failed = s.failed := rfl
@[simp] theorem State.fresh_threads (s : State) : s.fresh.2.threads = s.threads := rfl
@[simp] theorem State.fresh_groups (s : State) : s.fresh.2.groups = s.groups := rfl
@[simp] theorem State.fresh_units (s : State) : s.fresh.2.units = s.units := rfl
@[simp] theorem State.fresh_cores (s : State) : s.fresh.2.cores = s.cores := rfl
@[simp] theorem State.fresh_records (s : State) : s.fresh.2.records = s.records := rfl
@[simp] theorem State.fresh_lines (s : State) : s.fresh.2.lines = s.lines := rfl
@[simp] theorem State.fresh_larder (s : State) : s.fresh.2.larder = s.larder := rfl
@[simp] theorem State.fresh_freed (s : State) : s.fresh.2.freed = s.freed := rfl
@[simp] theorem State.fresh_lrenews (s : State) : s.fresh.2.lrenews = s.lrenews := rfl
@[simp] theorem State.fresh_sflushes (s : State) : s.fresh.2.sflushes = s.sflushes := rfl
@[simp] theorem State.fresh_memory (s : State) : s.fresh.2.memory = s.memory := rfl
@[simp] theorem State.fresh_hostMemory (s : State) : s.fresh.2.hostMemory = s.hostMemory := rfl
@[simp] theorem State.fresh_poison (s : State) : s.fresh.2.poison = s.poison := rfl
@[simp] theorem State.fresh_misses (s : State) : s.fresh.2.misses = s.misses := rfl
@[simp] theorem State.fresh_walkCaches (s : State) : s.fresh.2.walkCaches = s.walkCaches := rfl
@[simp] theorem State.fresh_walks (s : State) : s.fresh.2.walks = s.walks := rfl
@[simp] theorem State.fresh_tickets (s : State) : s.fresh.2.tickets = s.tickets := rfl
@[simp] theorem State.fresh_nextTicket (s : State) : s.fresh.2.nextTicket = s.nextTicket := rfl
@[simp] theorem State.fresh_tiles (s : State) : s.fresh.2.tiles = s.tiles := rfl
@[simp] theorem State.fresh_tileWords (s : State) : s.fresh.2.tileWords = s.tileWords := rfl
@[simp] theorem State.fresh_bank (s : State) : s.fresh.2.bank = s.bank := rfl
@[simp] theorem State.fresh_copies (s : State) : s.fresh.2.copies = s.copies := rfl
@[simp] theorem State.fresh_queuesMat (s : State) : s.fresh.2.queuesMat = s.queuesMat := rfl
@[simp] theorem State.fresh_partials (s : State) : s.fresh.2.partials = s.partials := rfl
@[simp] theorem State.fresh_swaps (s : State) : s.fresh.2.swaps = s.swaps := rfl
@[simp] theorem State.fresh_contexts (s : State) : s.fresh.2.contexts = s.contexts := rfl
@[simp] theorem State.fresh_launches (s : State) : s.fresh.2.launches = s.launches := rfl
@[simp] theorem State.fresh_blocks (s : State) : s.fresh.2.blocks = s.blocks := rfl
@[simp] theorem State.fresh_saved (s : State) : s.fresh.2.saved = s.saved := rfl
@[simp] theorem State.fresh_packets (s : State) : s.fresh.2.packets = s.packets := rfl
@[simp] theorem State.fresh_successors (s : State) : s.fresh.2.successors = s.successors := rfl
@[simp] theorem State.fresh_placed (s : State) : s.fresh.2.placed = s.placed := rfl
@[simp] theorem State.fresh_remoteClaims (s : State) : s.fresh.2.remoteClaims = s.remoteClaims := rfl
@[simp] theorem State.fresh_lastServed (s : State) : s.fresh.2.lastServed = s.lastServed := rfl
@[simp] theorem State.fresh_signals (s : State) : s.fresh.2.signals = s.signals := rfl
@[simp] theorem State.fresh_harnessWaits (s : State) : s.fresh.2.harnessWaits = s.harnessWaits := rfl
@[simp] theorem State.fresh_heldReports (s : State) : s.fresh.2.heldReports = s.heldReports := rfl
@[simp] theorem State.fresh_wbqs (s : State) : s.fresh.2.wbqs = s.wbqs := rfl
@[simp] theorem State.fresh_ops (s : State) : s.fresh.2.ops = s.ops := rfl
@[simp] theorem State.fresh_epoch (s : State) : s.fresh.2.epoch = s.epoch := rfl
@[simp] theorem State.fresh_pfences (s : State) : s.fresh.2.pfences = s.pfences := rfl
@[simp] theorem State.fresh_scm (s : State) : s.fresh.2.scm = s.scm := rfl
@[simp] theorem State.fresh_captures (s : State) : s.fresh.2.captures = s.captures := rfl
@[simp] theorem State.fresh_stableSlots (s : State) : s.fresh.2.stableSlots = s.stableSlots := rfl
@[simp] theorem State.fresh_fragments (s : State) : s.fresh.2.fragments = s.fragments := rfl
@[simp] theorem State.fresh_digests (s : State) : s.fresh.2.digests = s.digests := rfl
@[simp] theorem State.fresh_ports (s : State) : s.fresh.2.ports = s.ports := rfl
@[simp] theorem State.fresh_received (s : State) : s.fresh.2.received = s.received := rfl
@[simp] theorem State.fresh_outbox (s : State) : s.fresh.2.outbox = s.outbox := rfl
@[simp] theorem State.fresh_peers (s : State) : s.fresh.2.peers = s.peers := rfl
@[simp] theorem State.fresh_answered (s : State) : s.fresh.2.answered = s.answered := rfl
@[simp] theorem State.fresh_code (s : State) : s.fresh.2.code = s.code := rfl
@[simp] theorem State.fresh_notices (s : State) : s.fresh.2.notices = s.notices := rfl
@[simp] theorem State.fresh_runs (s : State) : s.fresh.2.runs = s.runs := rfl
@[simp] theorem State.fresh_collLoads (s : State) : s.fresh.2.collLoads = s.collLoads := rfl
@[simp] theorem State.fresh_repartIssues (s : State) : s.fresh.2.repartIssues = s.repartIssues := rfl
@[simp] theorem State.fresh_dumps (s : State) : s.fresh.2.dumps = s.dumps := rfl
@[simp] theorem State.fresh_tests (s : State) : s.fresh.2.tests = s.tests := rfl
@[simp] theorem State.fresh_preempting (s : State) : s.fresh.2.preempting = s.preempting := rfl
@[simp] theorem State.fresh_arrlog (s : State) : s.fresh.2.arrlog = s.arrlog := rfl
@[simp] theorem State.fresh_xfrlog (s : State) : s.fresh.2.xfrlog = s.xfrlog := rfl
@[simp] theorem State.fresh_faillog (s : State) : s.fresh.2.faillog = s.faillog := rfl
@[simp] theorem State.fresh_fusedMap (s : State) : s.fresh.2.fusedMap = s.fusedMap := rfl
@[simp] theorem State.fresh_serviceMap (s : State) : s.fresh.2.serviceMap = s.serviceMap := rfl
@[simp] theorem State.fresh_temps (s : State) : s.fresh.2.temps = s.temps := rfl
@[simp] theorem State.fresh_selfRefresh (s : State) : s.fresh.2.selfRefresh = s.selfRefresh := rfl
@[simp] theorem State.fresh_fencedPcs (s : State) : s.fresh.2.fencedPcs = s.fencedPcs := rfl
@[simp] theorem State.fresh_freezeOrder (s : State) : s.fresh.2.freezeOrder = s.freezeOrder := rfl
@[simp] theorem State.fresh_regs (s : State) : s.fresh.2.regs = s.regs := rfl

end Sys2Proof.Machine
end

