-- ==== Sys2Proof/Tests/Slice0.lean ====
section
/-! SUPPORT. Small tests: ill-formed instructions are refused, words written out from the encoding tables decode to their
instructions, single instructions give the results of the worked examples, and states meet the hypotheses of the statements. -/

namespace Sys2Proof.Tests

open Sys2Proof Sys2Proof.Machine

/-! ### Well-formed instructions -/

/-- An extended head with destination v20 and source v16. -/
def ext : Head := { Head.plain with form := .ext, d := 20, a := .reg 16 }

/-- Plain class A modifiers. -/
def plainA : ModA := ⟨0, false, false, .rne⟩

/-- Plain class M modifiers. -/
def plainM : ModM := ⟨0, 0, 0, .plain⟩

/-- Operands and modifiers that no field can hold are refused: one term for each range that is checked. -/
theorem test_wf_refuses_arguments :
    ([.bra { Head.plain with form := .ext } (2 ^ 23), .brz { ext with d := 0 } (-(2 ^ 23) - 1), .exitWithSuccessors { ext with d := 0 } 0,
      .exitWithSuccessors { ext with d := 0 } 16, .trap { Head.plain with form := .ext } (2 ^ 16),
      .csrr { Head.plain with form := .ext, d := 20 } (2 ^ 12), .lred { ext with ty := .f32 } .add 64 false .rne,
      .parkNow { Head.plain with form := .ext, d := 20 } 256, .spawn { ext with ty := .b32 } false 8,
      .lea { ext with ty := .s32 } plainA 8, .pack { ext with ty := .s8 } plainA 4 false, .unpack { ext with ty := .i4 } plainA 8,
      .rand { ext with ty := .b32 } false 4, .add { ext with ty := .s32 } { plainA with tid := 64 },
      .ldg { ext with ty := .b32 } { plainM with ch := 4 }, .ldg { ext with ty := .b32 } { plainM with ofs := 2 ^ 21 },
      .barr ext (2 ^ 21), .bwait { ext with d := 0 } 0 256, .hjoin ext 256, .hwait { ext with d := 0 } 0 256, .publish ext 64,
      .collRun ext 64, .mma ext 1024] : List Instr).all (fun i => !i.wf) = true := by
  decide

/-- Heads that no word can hold are refused: codes beyond 247, latches that do not exist, v0 as a predicate, an immediate or a
literal where there is none, operands that the opcode does not have. -/
theorem test_wf_refuses_heads :
    ([.add { ext with ty := .s32, d := 248 } plainA, .add { ext with ty := .s32, a := .reg 248 } plainA,
      .add { ext with ty := .s32, a := .latch 9 } plainA, .add { ext with ty := .s32, a := .latch 0 } plainA,
      .mad { ext with ty := .s32, c := .reg 248 } plainA, .addc { ext with ty := .s32, e := 248 } plainA,
      .add { ext with ty := .s32, pred := some ⟨false, .reg 0⟩ } plainA, .add { ext with ty := .s32, b := .lit 1#64 } plainA,
      .add { ext with ty := .s32, form := .extLit } plainA, .ldg { ext with ty := .b32, b := .imm22 1#22 } plainM,
      .add { ext with ty := .s32, e := 4 } plainA, .add { ext with ty := .dflt } plainA, .add { ext with ty := .s32, c := .reg 4 } plainA,
      .add { ext with ty := .s32, ty2 := .f32 } plainA, .cvt { ext with ty := .f16, ty2 := .dflt } plainA false] : List Instr).all
      (fun i => !i.wf) = true := by
  decide

/-- What a base word cannot carry is refused: a predicate, another type, C, X, high registers, modifiers, a wide immediate. -/
theorem test_wf_refuses_base_words :
    (let b : Head := { ext with form := .base }
     [.add { b with ty := .s32, pred := some ⟨false, .reg 9⟩ } plainA, .add { b with ty := .n32 } plainA,
      .mad { b with ty := .s32, c := .reg 4 } plainA, .cmp { b with ty := .s32 } plainA .lt, .add { b with ty := .s32, d := 120 } plainA,
      .add { b with ty := .s32, a := .reg 120 } plainA, .add { b with ty := .s32, b := .src (.reg 120) } plainA,
      .add { b with ty := .s32 } { plainA with sat := true }, .shl { b with ty := .b32, b := .imm22 64#22 } plainA,
      .shl { b with ty := .b32, b := .src (.reg 3) } plainA, .bra { Head.plain with b := .src (.reg 3) } 5,
      .bra Head.plain 64] : List Instr).all (fun i => !i.wf) = true := by
  decide

/-- Encodings that R28 makes illegal are refused, and so is a step of the device. -/
theorem test_wf_refuses_illegal :
    ([.add64 { ext with ty := .s64, d := 21 } plainA, .mov { ext with ty := .b128, a := .reg 18 } plainA,
      .mov { ext with ty := .b128, a := .latch 1 } plainA, .add { ext with ty := .s32, nw := true } plainA,
      .ldg { Head.plain with form := .ext, a := .reg 16, nw := true, ty := .b32 } plainM, .add { ext with ty := .f32 } plainA,
      .add { ext with ty := .s32 } { plainA with rnd := .rtz }, .mulhi { ext with ty := .s16 } plainA,
      .incomingWriteComplete 1] : List Instr).all (fun i => !i.wf) = true := by
  decide

/-- Instructions of every form are well-formed. -/
theorem test_wf_accepts :
    ([.add { ext with ty := .s32 } plainA, .add { ext with form := .base, ty := .s32 } plainA,
      .movi { Head.plain with form := .baseLit, d := 20, b := .lit 7#64, ty := .b32 } plainA,
      .add { ext with form := .extLit, b := .lit 7#64, ty := .s32, pred := some ⟨true, .latch 2⟩ } { plainA with sat := true },
      .shl { ext with form := .base, ty := .b32, b := .imm22 5#22 } plainA, .bra Head.plain (-64),
      .ldg { ext with ty := .b32 } { plainM with ofs := -8, ord := .acquire }, .mmrd { ext with e := 32 }] : List Instr).all
      Instr.wf = true := by
  decide

/-! ### Decoding -/

/-- Row 0x0: words put together from R15, R18 to R20, R26, R30 and the entries, one for each instruction. -/
theorem test_decode_control :
    decodeWords [0x00000006, 0x00000000, 0x00000300] = .ok (.bra { Head.plain with form := .ext } 3) ∧
    decodeWords [0x0000000A, 0x00000010, 0x00000500] = .ok (.brz { Head.plain with form := .ext, a := .reg 16 } 5) ∧
    decodeWords [0x0000000E, 0x00000010, 0xFFFFF900] = .ok (.brnz { Head.plain with form := .ext, a := .reg 16 } (-7)) ∧
    decodeWords [0x0000A012, 0x00000010, 0x00000000] = .ok (.jmp { Head.plain with form := .ext, d := 20, a := .reg 16 }) ∧
    decodeWords [0x0000A016, 0x00000000, 0x00000900] = .ok (.call { Head.plain with form := .ext, d := 20 } 9) ∧
    decodeWords [0x0000001A, 0x00000010, 0x00000000] = .ok (.ret { Head.plain with form := .ext, a := .reg 16 }) ∧
    decodeWords [0x0000001E, 0x00000000, 0x00000000] = .ok (.yield { Head.plain with form := .ext }) ∧
    decodeWords [0x00000022, 0x00000000, 0x00000000] = .ok (.exit { Head.plain with form := .ext }) ∧
    decodeWords [0x30000022, 0x00000010, 0x00000000] = .ok (.exitWithSuccessors { Head.plain with form := .ext, a := .reg 16 } 3) ∧
    decodeWords [0x00000026, 0x00000000, 0x00090800] = .ok (.repeatLoop { Head.plain with form := .ext } false 9 2) ∧
    decodeWords [0x0000002A, 0x00000000, 0x004D0000] = .ok (.trap { Head.plain with form := .ext } 77) ∧
    decodeWords [0x0000002E, 0x00000000, 0x00000000] = .ok (.eret { Head.plain with form := .ext }) ∧
    decodeWords [0x0000A032, 0x00000000, 0x00000203] = .ok (.csrr { Head.plain with form := .ext, d := 20 } 0x203) ∧
    decodeWords [0x00000036, 0x00000010, 0x00000205] = .ok (.csrw { Head.plain with form := .ext, a := .reg 16 } 0x205) ∧
    decodeWords [0x0000A03A, 0x00000010, 0x00000000] = .ok (.selftestLane { Head.plain with form := .ext, d := 20, a := .reg 16 }) ∧
    decodeWords [0x1000A03A, 0x00000010, 0x00000000] = .ok (.selftestRf { Head.plain with form := .ext, d := 20, a := .reg 16 }) ∧
    decodeWords [0x2000A03A, 0x00000010, 0x00000000] = .ok (.selftestLar { Head.plain with form := .ext, d := 20, a := .reg 16 }) ∧
    decodeWords [0x3000A03A, 0x00000010, 0x00000000] = .ok (.selftestDrw { Head.plain with form := .ext, d := 20, a := .reg 16 }) ∧
    decodeWords [0x4000A03A, 0x00000010, 0x00000000] = .ok (.selftestArr { Head.plain with form := .ext, d := 20, a := .reg 16 }) ∧
    decodeWords [0x5000A03A, 0x00000010, 0x00000000] = .ok (.selftestBank { Head.plain with form := .ext, d := 20, a := .reg 16 }) ∧
    decodeWords [0x6000A03A, 0x00000010, 0x00000000] = .ok (.selftestHbm { Head.plain with form := .ext, d := 20, a := .reg 16 }) ∧
    decodeWords [0x7000A03A, 0x00000010, 0x00000000] = .ok (.selftestScm { Head.plain with form := .ext, d := 20, a := .reg 16 }) ∧
    decodeWords [0x8000A03A, 0x00000010, 0x00000000] = .ok (.selftestLink { Head.plain with form := .ext, d := 20, a := .reg 16 }) ∧
    decodeWords [0x0000003E, 0x00000000, 0x00000000] = .ok (.nop { Head.plain with form := .ext }) := by
  repeat' apply And.intro
  all_goals rfl

/-- Row 0x1: words put together from R15, R18 to R20, R26, R30 and the entries, one for each instruction. -/
theorem test_decode_lanes :
    decodeWords [0x2000A042, 0x00001810, 0x28000000] = .ok (.shfl { Head.plain with form := .ext, d := 20, a := .reg 16, b := .src (.reg 24), e := 40, ty := .b32 } .down) ∧
    decodeWords [0x2000A046, 0x00000010, 0x00000000] = .ok (.vote { Head.plain with form := .ext, d := 20, a := .reg 16, ty := .b32 } .ballot) ∧
    decodeWords [0x0000A04A, 0x00000000, 0x00000000] = .ok (.elect { Head.plain with form := .ext, d := 20, ty := .b32 } false) ∧
    decodeWords [0x1000A04E, 0x00000010, 0x00000000] = .ok (.matchLanes { Head.plain with form := .ext, d := 20, a := .reg 16, ty := .b32 } true) ∧
    decodeWords [0x2000A052, 0x0F000010, 0x00000056] = .ok (.lred { Head.plain with form := .ext, d := 20, a := .reg 16, ty := .f32 } .max 5 true .rdn) ∧
    decodeWords [0x0000A056, 0x00000000, 0x00000007] = .ok (.parkNow { Head.plain with form := .ext, d := 20, ty := .b32 } 7) ∧
    decodeWords [0x1000A056, 0x00000010, 0x00000008] = .ok (.parkUntil { Head.plain with form := .ext, d := 20, a := .reg 16, ty := .b32 } 8) ∧
    decodeWords [0x2000A056, 0x001C1810, 0x00000009] = .ok (.parkNe { Head.plain with form := .ext, d := 20, a := .reg 16, b := .src (.reg 24), c := .reg 28, ty := .b32 } 9) ∧
    decodeWords [0x0000A05A, 0x00001810, 0x00000200] = .ok (.spawn { Head.plain with form := .ext, d := 20, a := .reg 16, b := .src (.reg 24), ty := .b32 } false 2) := by
  repeat' apply And.intro
  all_goals rfl

/-- Row 0x2: words put together from R15, R18 to R20, R26, R30 and the entries, one for each instruction. -/
theorem test_decode_integer :
    decodeWords [0x0000A082, 0x00001810, 0x00000030] = .ok (.add { Head.plain with form := .ext, d := 20, a := .reg 16, b := .src (.reg 24), ty := .s32 } ⟨3, false, false, .rne⟩) ∧
    decodeWords [0x0000A086, 0x00001810, 0x00000030] = .ok (.sub { Head.plain with form := .ext, d := 20, a := .reg 16, b := .src (.reg 24), ty := .s32 } ⟨3, false, false, .rne⟩) ∧
    decodeWords [0x0000A08A, 0x071C1810, 0x20000030] = .ok (.addc { Head.plain with form := .ext, d := 20, a := .reg 16, b := .src (.reg 24), c := .reg 28, e := 32, ty := .n32 } ⟨3, false, false, .rne⟩) ∧
    decodeWords [0x0000A08E, 0x071C1810, 0x20000030] = .ok (.subc { Head.plain with form := .ext, d := 20, a := .reg 16, b := .src (.reg 24), c := .reg 28, e := 32, ty := .n32 } ⟨3, false, false, .rne⟩) ∧
    decodeWords [0x0000A092, 0x02001810, 0x00000038] = .ok (.mul { Head.plain with form := .ext, d := 20, a := .reg 16, b := .src (.reg 24), ty := .s16 } ⟨3, true, false, .rne⟩) ∧
    decodeWords [0x0000A096, 0x07001810, 0x00000030] = .ok (.mulhi { Head.plain with form := .ext, d := 20, a := .reg 16, b := .src (.reg 24), ty := .n32 } ⟨3, false, false, .rne⟩) ∧
    decodeWords [0x0000A09A, 0x00001810, 0x00000030] = .ok (.mulw { Head.plain with form := .ext, d := 20, a := .reg 16, b := .src (.reg 24), ty := .s32 } ⟨3, false, false, .rne⟩) ∧
    decodeWords [0x0000A09E, 0x001C1810, 0x00000030] = .ok (.mad { Head.plain with form := .ext, d := 20, a := .reg 16, b := .src (.reg 24), c := .reg 28, ty := .s32 } ⟨3, false, false, .rne⟩) ∧
    decodeWords [0x0000A0A2, 0x00001810, 0x00000030] = .ok (.min { Head.plain with form := .ext, d := 20, a := .reg 16, b := .src (.reg 24), ty := .s32 } ⟨3, false, false, .rne⟩) ∧
    decodeWords [0x0000A0A6, 0x05001810, 0x00000030] = .ok (.max { Head.plain with form := .ext, d := 20, a := .reg 16, b := .src (.reg 24), ty := .n8 } ⟨3, false, false, .rne⟩) ∧
    decodeWords [0x0000A0AA, 0x00000010, 0x00000030] = .ok (.abs { Head.plain with form := .ext, d := 20, a := .reg 16, ty := .s32 } ⟨3, false, false, .rne⟩) ∧
    decodeWords [0x5000A0AE, 0x00001810, 0x00000030] = .ok (.cmp { Head.plain with form := .ext, d := 20, a := .reg 16, b := .src (.reg 24), ty := .s32 } ⟨3, false, false, .rne⟩ .ge) ∧
    decodeWords [0x0000A0B2, 0x0C1C1810, 0x00000030] = .ok (.sel { Head.plain with form := .ext, d := 20, a := .reg 16, b := .src (.reg 24), c := .reg 28, ty := .b64 } ⟨3, false, false, .rne⟩) ∧
    decodeWords [0x3000A0B6, 0x07001810, 0x00000030] = .ok (.lea { Head.plain with form := .ext, d := 20, a := .reg 16, b := .src (.reg 24), ty := .n32 } ⟨3, false, false, .rne⟩ 3) := by
  repeat' apply And.intro
  all_goals rfl

/-- Row 0x3: words put together from R15, R18 to R20, R26, R30 and the entries, one for each instruction. -/
theorem test_decode_logic :
    decodeWords [0x0000A0C2, 0x00001810, 0x00000030] = .ok (.and { Head.plain with form := .ext, d := 20, a := .reg 16, b := .src (.reg 24), ty := .b32 } ⟨3, false, false, .rne⟩) ∧
    decodeWords [0x0000A0C6, 0x00001810, 0x00000030] = .ok (.or { Head.plain with form := .ext, d := 20, a := .reg 16, b := .src (.reg 24), ty := .b32 } ⟨3, false, false, .rne⟩) ∧
    decodeWords [0x0000A0CA, 0x00001810, 0x00000030] = .ok (.xor { Head.plain with form := .ext, d := 20, a := .reg 16, b := .src (.reg 24), ty := .b32 } ⟨3, false, false, .rne⟩) ∧
    decodeWords [0x0000A0CE, 0x00001810, 0x00000030] = .ok (.andn { Head.plain with form := .ext, d := 20, a := .reg 16, b := .src (.reg 24), ty := .b32 } ⟨3, false, false, .rne⟩) ∧
    decodeWords [0x0000A0D2, 0x00000010, 0x00000030] = .ok (.not { Head.plain with form := .ext, d := 20, a := .reg 16, ty := .b32 } ⟨3, false, false, .rne⟩) ∧
    decodeWords [0x0000A0D6, 0x00001810, 0x00000030] = .ok (.shl { Head.plain with form := .ext, d := 20, a := .reg 16, b := .src (.reg 24), ty := .b32 } ⟨3, false, false, .rne⟩) ∧
    decodeWords [0x0000A0DA, 0x00001810, 0x00000030] = .ok (.shr { Head.plain with form := .ext, d := 20, a := .reg 16, b := .src (.reg 24), ty := .b32 } ⟨3, false, false, .rne⟩) ∧
    decodeWords [0x0000A0DE, 0x00001810, 0x00000030] = .ok (.sar { Head.plain with form := .ext, d := 20, a := .reg 16, b := .src (.reg 24), ty := .b32 } ⟨3, false, false, .rne⟩) ∧
    decodeWords [0x0000A0E2, 0x00001810, 0x00000030] = .ok (.rol { Head.plain with form := .ext, d := 20, a := .reg 16, b := .src (.reg 24), ty := .b32 } ⟨3, false, false, .rne⟩) ∧
    decodeWords [0x0000A0E6, 0x00001810, 0x00000030] = .ok (.ror { Head.plain with form := .ext, d := 20, a := .reg 16, b := .src (.reg 24), ty := .b32 } ⟨3, false, false, .rne⟩) ∧
    decodeWords [0x0000A0EA, 0x00001810, 0x00000030] = .ok (.bfe { Head.plain with form := .ext, d := 20, a := .reg 16, b := .src (.reg 24), ty := .b32 } ⟨3, false, false, .rne⟩) ∧
    decodeWords [0x0000A0EE, 0x001C1810, 0x00000030] = .ok (.bfi { Head.plain with form := .ext, d := 20, a := .reg 16, b := .src (.reg 24), c := .reg 28, ty := .b32 } ⟨3, false, false, .rne⟩) ∧
    decodeWords [0x0000A0F2, 0x00000010, 0x00000030] = .ok (.popc { Head.plain with form := .ext, d := 20, a := .reg 16, ty := .b32 } ⟨3, false, false, .rne⟩) ∧
    decodeWords [0x0000A0F6, 0x00000010, 0x00000030] = .ok (.clz { Head.plain with form := .ext, d := 20, a := .reg 16, ty := .b32 } ⟨3, false, false, .rne⟩) ∧
    decodeWords [0x0000A0FA, 0x00000010, 0x00000030] = .ok (.ctz { Head.plain with form := .ext, d := 20, a := .reg 16, ty := .b32 } ⟨3, false, false, .rne⟩) ∧
    decodeWords [0x0000A0FE, 0x00000010, 0x00000030] = .ok (.brev { Head.plain with form := .ext, d := 20, a := .reg 16, ty := .b32 } ⟨3, false, false, .rne⟩) := by
  repeat' apply And.intro
  all_goals rfl

/-- Row 0x4: words put together from R15, R18 to R20, R26, R30 and the entries, one for each instruction. -/
theorem test_decode_moves :
    decodeWords [0x0000A102, 0x0D000010, 0x00000030] = .ok (.mov { Head.plain with form := .ext, d := 20, a := .reg 16, ty := .b128 } ⟨3, false, false, .rne⟩) ∧
    decodeWords [0x0000A106, 0x0C001800, 0x00000030] = .ok (.movi { Head.plain with form := .ext, d := 20, b := .src (.reg 24), ty := .b64 } ⟨3, false, false, .rne⟩) ∧
    decodeWords [0x0000A10A, 0x04001810, 0x00000030] = .ok (.sext { Head.plain with form := .ext, d := 20, a := .reg 16, b := .src (.reg 24), ty := .s64 } ⟨3, false, false, .rne⟩) ∧
    decodeWords [0x0000A10E, 0x07001810, 0x00000030] = .ok (.zext { Head.plain with form := .ext, d := 20, a := .reg 16, b := .src (.reg 24), ty := .n32 } ⟨3, false, false, .rne⟩) ∧
    decodeWords [0x0000A112, 0x00001810, 0x00000030] = .ok (.add64 { Head.plain with form := .ext, d := 20, a := .reg 16, b := .src (.reg 24), ty := .s64 } ⟨3, false, false, .rne⟩) ∧
    decodeWords [0x0000A116, 0x00001810, 0x00000030] = .ok (.sub64 { Head.plain with form := .ext, d := 20, a := .reg 16, b := .src (.reg 24), ty := .s64 } ⟨3, false, false, .rne⟩) ∧
    decodeWords [0x0000A11A, 0x00001810, 0x00000030] = .ok (.mul64 { Head.plain with form := .ext, d := 20, a := .reg 16, b := .src (.reg 24), ty := .s64 } ⟨3, false, false, .rne⟩) ∧
    decodeWords [0x0000A11E, 0x00001810, 0x00000030] = .ok (.shl64 { Head.plain with form := .ext, d := 20, a := .reg 16, b := .src (.reg 24), ty := .s64 } ⟨3, false, false, .rne⟩) ∧
    decodeWords [0x0000A122, 0x00001810, 0x00000030] = .ok (.shr64 { Head.plain with form := .ext, d := 20, a := .reg 16, b := .src (.reg 24), ty := .s64 } ⟨3, false, false, .rne⟩) ∧
    decodeWords [0x0000A126, 0x00001810, 0x00000030] = .ok (.sar64 { Head.plain with form := .ext, d := 20, a := .reg 16, b := .src (.reg 24), ty := .s64 } ⟨3, false, false, .rne⟩) ∧
    decodeWords [0x2000A12A, 0x08001810, 0x00000030] = .ok (.cmp64 { Head.plain with form := .ext, d := 20, a := .reg 16, b := .src (.reg 24), ty := .n64 } ⟨3, false, false, .rne⟩ .lt) ∧
    decodeWords [0x0000A12E, 0x00001810, 0x00000030] = .ok (.min64 { Head.plain with form := .ext, d := 20, a := .reg 16, b := .src (.reg 24), ty := .s64 } ⟨3, false, false, .rne⟩) ∧
    decodeWords [0x0000A132, 0x00001810, 0x00000030] = .ok (.max64 { Head.plain with form := .ext, d := 20, a := .reg 16, b := .src (.reg 24), ty := .s64 } ⟨3, false, false, .rne⟩) := by
  repeat' apply And.intro
  all_goals rfl

/-- Row 0x5: words put together from R15, R18 to R20, R26, R30 and the entries, one for each instruction. -/
theorem test_decode_float :
    decodeWords [0x0000A142, 0x00001810, 0x00000033] = .ok (.fadd { Head.plain with form := .ext, d := 20, a := .reg 16, b := .src (.reg 24), ty := .f32 } ⟨3, false, false, .rup⟩) ∧
    decodeWords [0x0000A146, 0x0E001810, 0x00000033] = .ok (.fsub { Head.plain with form := .ext, d := 20, a := .reg 16, b := .src (.reg 24), ty := .f64 } ⟨3, false, false, .rup⟩) ∧
    decodeWords [0x0000A14A, 0x00001810, 0x00000033] = .ok (.fmul { Head.plain with form := .ext, d := 20, a := .reg 16, b := .src (.reg 24), ty := .f32 } ⟨3, false, false, .rup⟩) ∧
    decodeWords [0x0000A14E, 0x0E1C1810, 0x00000033] = .ok (.fma { Head.plain with form := .ext, d := 20, a := .reg 16, b := .src (.reg 24), c := .reg 28, ty := .f64 } ⟨3, false, false, .rup⟩) ∧
    decodeWords [0x0000A152, 0x00001810, 0x00000034] = .ok (.fmin { Head.plain with form := .ext, d := 20, a := .reg 16, b := .src (.reg 24), ty := .f32 } ⟨3, false, true, .rne⟩) ∧
    decodeWords [0x0000A156, 0x11001810, 0x00000034] = .ok (.fmax { Head.plain with form := .ext, d := 20, a := .reg 16, b := .src (.reg 24), ty := .bf16 } ⟨3, false, true, .rne⟩) ∧
    decodeWords [0x6000A15A, 0x00001810, 0x00000034] = .ok (.fcmp { Head.plain with form := .ext, d := 20, a := .reg 16, b := .src (.reg 24), ty := .f32 } ⟨3, false, true, .rne⟩ .un) ∧
    decodeWords [0x1000A15E, 0x00000010, 0x00000030] = .ok (.fclass { Head.plain with form := .ext, d := 20, a := .reg 16, ty := .f32 } ⟨3, false, false, .rne⟩ true) ∧
    decodeWords [0x0000A162, 0x10000010, 0x00000033] = .ok (.fround { Head.plain with form := .ext, d := 20, a := .reg 16, ty := .f16 } ⟨3, false, false, .rup⟩) ∧
    decodeWords [0x0000A166, 0x00001810, 0x00000033] = .ok (.fscale { Head.plain with form := .ext, d := 20, a := .reg 16, b := .src (.reg 24), ty := .f32 } ⟨3, false, false, .rup⟩) ∧
    decodeWords [0x0000A16A, 0x00001810, 0x00000033] = .ok (.fadd2 { Head.plain with form := .ext, d := 20, a := .reg 16, b := .src (.reg 24), ty := .f16 } ⟨3, false, false, .rup⟩) ∧
    decodeWords [0x0000A16E, 0x00001810, 0x00000033] = .ok (.fmul2 { Head.plain with form := .ext, d := 20, a := .reg 16, b := .src (.reg 24), ty := .f16 } ⟨3, false, false, .rup⟩) ∧
    decodeWords [0x0000A172, 0x001C1810, 0x00000033] = .ok (.fma2 { Head.plain with form := .ext, d := 20, a := .reg 16, b := .src (.reg 24), c := .reg 28, ty := .f16 } ⟨3, false, false, .rup⟩) ∧
    decodeWords [0x0000A176, 0x00001810, 0x00000034] = .ok (.fmin2 { Head.plain with form := .ext, d := 20, a := .reg 16, b := .src (.reg 24), ty := .f16 } ⟨3, false, true, .rne⟩) ∧
    decodeWords [0x0000A17A, 0x11001810, 0x00000034] = .ok (.fmax2 { Head.plain with form := .ext, d := 20, a := .reg 16, b := .src (.reg 24), ty := .bf16 } ⟨3, false, true, .rne⟩) := by
  repeat' apply And.intro
  all_goals rfl

/-- Row 0x6: words put together from R15, R18 to R20, R26, R30 and the entries, one for each instruction. -/
theorem test_decode_conversions :
    decodeWords [0x0000A182, 0x00000010, 0x00000034] = .ok (.frcp { Head.plain with form := .ext, d := 20, a := .reg 16, ty := .f32 } ⟨3, false, true, .rne⟩) ∧
    decodeWords [0x0000A186, 0x00000010, 0x00000034] = .ok (.frsq { Head.plain with form := .ext, d := 20, a := .reg 16, ty := .f32 } ⟨3, false, true, .rne⟩) ∧
    decodeWords [0x0000A18A, 0x00000010, 0x00000033] = .ok (.fsqrt { Head.plain with form := .ext, d := 20, a := .reg 16, ty := .f32 } ⟨3, false, false, .rup⟩) ∧
    decodeWords [0x0000A18E, 0x00000010, 0x00000034] = .ok (.fexp2 { Head.plain with form := .ext, d := 20, a := .reg 16, ty := .f32 } ⟨3, false, true, .rne⟩) ∧
    decodeWords [0x0000A192, 0x00000010, 0x00000034] = .ok (.flog2 { Head.plain with form := .ext, d := 20, a := .reg 16, ty := .f32 } ⟨3, false, true, .rne⟩) ∧
    decodeWords [0x0000A196, 0x00000010, 0x00000034] = .ok (.fsin { Head.plain with form := .ext, d := 20, a := .reg 16, ty := .f32 } ⟨3, false, true, .rne⟩) ∧
    decodeWords [0x0000A19A, 0x00000010, 0x00000034] = .ok (.fcos { Head.plain with form := .ext, d := 20, a := .reg 16, ty := .f32 } ⟨3, false, true, .rne⟩) ∧
    decodeWords [0x0000A19E, 0x00000010, 0x00000034] = .ok (.ftanh { Head.plain with form := .ext, d := 20, a := .reg 16, ty := .f32 } ⟨3, false, true, .rne⟩) ∧
    decodeWords [0x0000A1A2, 0x030F0010, 0x00000031] = .ok (.cvt { Head.plain with form := .ext, d := 20, a := .reg 16, ty := .s32, ty2 := .f32 } ⟨3, false, false, .rtz⟩ false) ∧
    decodeWords [0x1000A1A6, 0x131C1810, 0x00000030] = .ok (.pack { Head.plain with form := .ext, d := 20, a := .reg 16, b := .src (.reg 24), c := .reg 28, ty := .e5m2 } ⟨3, false, false, .rne⟩ 1 false) ∧
    decodeWords [0x3000A1AA, 0x12000010, 0x00000030] = .ok (.unpack { Head.plain with form := .ext, d := 20, a := .reg 16, ty := .e4m3 } ⟨3, false, false, .rne⟩ 3) ∧
    decodeWords [0x1000A1AE, 0x001C1810, 0x00000000] = .ok (.rand { Head.plain with form := .ext, d := 20, a := .reg 16, b := .src (.reg 24), c := .reg 28, ty := .b32 } false 1) ∧
    decodeWords [0x000001B2, 0x00000010, 0x00000000] = .ok (.cntflush { Head.plain with form := .ext, a := .reg 16 }) := by
  repeat' apply And.intro
  all_goals rfl

/-- Row 0x7: words put together from R15, R18 to R20, R26, R30 and the entries, one for each instruction. -/
theorem test_decode_larder :
    decodeWords [0x1000A1C2, 0x00001810, 0x00000000] = .ok (.lalloc { Head.plain with form := .ext, d := 20, a := .reg 16, b := .src (.reg 24), ty := .b32 } ⟨0, 0, 0, .plain⟩ true) ∧
    decodeWords [0x000001C6, 0x00000010, 0x00000000] = .ok (.lfree { Head.plain with form := .ext, a := .reg 16, ty := .b32 } ⟨0, 0, 0, .plain⟩) ∧
    decodeWords [0x1000A1CA, 0x00001810, 0x00000000] = .ok (.luseby { Head.plain with form := .ext, d := 20, a := .reg 16, b := .src (.reg 24), ty := .b32 } ⟨0, 0, 0, .plain⟩ true) ∧
    decodeWords [0x0000A1CE, 0x00001810, 0x00000000] = .ok (.lrenew { Head.plain with form := .ext, d := 20, a := .reg 16, b := .src (.reg 24), ty := .b32 } ⟨0, 0, 0, .plain⟩) ∧
    decodeWords [0x2000A1D2, 0x0C000010, 0x00010000] = .ok (.ldl { Head.plain with form := .ext, d := 20, a := .reg 16, ty := .b64 } ⟨64, 0, 0, .plain⟩ .any) ∧
    decodeWords [0x200001D6, 0x00001810, 0xFFFF8000] = .ok (.stl { Head.plain with form := .ext, a := .reg 16, b := .src (.reg 24), ty := .b32 } ⟨-32, 0, 0, .plain⟩ .fill) ∧
    decodeWords [0x000001DA, 0x00001810, 0x00000000] = .ok (.setempty { Head.plain with form := .ext, a := .reg 16, b := .src (.reg 24), ty := .b32 } ⟨0, 0, 0, .plain⟩) ∧
    decodeWords [0x000001DE, 0x00001810, 0x00000000] = .ok (.setfull { Head.plain with form := .ext, a := .reg 16, b := .src (.reg 24), ty := .b32 } ⟨0, 0, 0, .plain⟩) ∧
    decodeWords [0x0000A1E2, 0x00000010, 0x00000000] = .ok (.lstateLine { Head.plain with form := .ext, d := 20, a := .reg 16, ty := .b32 } ⟨0, 0, 0, .plain⟩) ∧
    decodeWords [0x1000A1E2, 0x00000010, 0x00000000] = .ok (.lstateAlloc { Head.plain with form := .ext, d := 20, a := .reg 16, ty := .b32 } ⟨0, 0, 0, .plain⟩) ∧
    decodeWords [0x2000A1E2, 0x00000000, 0x00000000] = .ok (.lstateRet { Head.plain with form := .ext, d := 20, ty := .b32 } ⟨0, 0, 0, .plain⟩) ∧
    decodeWords [0x3000A1E2, 0x00000000, 0x00000000] = .ok (.lstateFree { Head.plain with form := .ext, d := 20, ty := .b32 } ⟨0, 0, 0, .plain⟩) ∧
    decodeWords [0x000001E6, 0x00001810, 0x00000000] = .ok (.smap { Head.plain with form := .ext, a := .reg 16, b := .src (.reg 24), ty := .b32 } ⟨0, 0, 0, .plain⟩) ∧
    decodeWords [0x000001EA, 0x00000010, 0x00000000] = .ok (.sunmap { Head.plain with form := .ext, a := .reg 16, ty := .b32 } ⟨0, 0, 0, .plain⟩) ∧
    decodeWords [0x1000A1EE, 0x00001810, 0x00000000] = .ok (.sflush { Head.plain with form := .ext, d := 20, a := .reg 16, b := .src (.reg 24), ty := .b32 } ⟨0, 0, 0, .plain⟩ true) := by
  repeat' apply And.intro
  all_goals rfl

/-- Row 0x8: words put together from R15, R18 to R20, R26, R30 and the entries, one for each instruction. -/
theorem test_decode_barriers :
    decodeWords [0x10000202, 0x00001810, 0x00004000] = .ok (.binit { Head.plain with form := .ext, a := .reg 16, b := .src (.reg 24) } 16 true) ∧
    decodeWords [0x0000A206, 0x00001810, 0x00004000] = .ok (.barr { Head.plain with form := .ext, d := 20, a := .reg 16, b := .src (.reg 24) } 16) ∧
    decodeWords [0x0000020A, 0x00001810, 0x00004006] = .ok (.bwait { Head.plain with form := .ext, a := .reg 16, b := .src (.reg 24) } 16 6) ∧
    decodeWords [0x0000A20E, 0x00001810, 0x00000006] = .ok (.barrw { Head.plain with form := .ext, d := 20, a := .reg 16, b := .src (.reg 24) } 0 6) ∧
    decodeWords [0x10000212, 0x00001810, 0x00000000] = .ok (.bbytes { Head.plain with form := .ext, a := .reg 16, b := .src (.reg 24) } 0 true) ∧
    decodeWords [0x0000A216, 0x00001810, 0x20000C00] = .ok (.hjoin { Head.plain with form := .ext, d := 20, a := .reg 16, b := .src (.reg 24), e := 32 } 3) ∧
    decodeWords [0x0000A21A, 0x00000010, 0x20000C00] = .ok (.hleave { Head.plain with form := .ext, d := 20, a := .reg 16, e := 32 } 3) ∧
    decodeWords [0x0000A21E, 0x00001800, 0x00000C00] = .ok (.harr { Head.plain with form := .ext, d := 20, b := .src (.reg 24) } 3) ∧
    decodeWords [0x00000222, 0x00001800, 0x00000C0C] = .ok (.hwait { Head.plain with form := .ext, b := .src (.reg 24) } 3 12) ∧
    decodeWords [0x10000226, 0x00001810, 0x00000000] = .ok (.hsig { Head.plain with form := .ext, a := .reg 16, b := .src (.reg 24) } true) := by
  repeat' apply And.intro
  all_goals rfl

/-- Row 0x9: words put together from R15, R18 to R20, R26, R30 and the entries, one for each instruction. -/
theorem test_decode_globals :
    decodeWords [0x0000A242, 0x0D000010, 0x00002001] = .ok (.ldg { Head.plain with form := .ext, d := 20, a := .reg 16, ty := .b128 } ⟨8, 0, 0, .acquire⟩) ∧
    decodeWords [0x00000246, 0x00001810, 0x00000002] = .ok (.stg { Head.plain with form := .ext, a := .reg 16, b := .src (.reg 24), ty := .b32 } ⟨0, 0, 0, .release⟩) ∧
    decodeWords [0x0000A24A, 0x00000010, 0x00000000] = .ok (.ldc { Head.plain with form := .ext, d := 20, a := .reg 16, ty := .b32 } ⟨0, 0, 0, .plain⟩) ∧
    decodeWords [0x7000A24E, 0x0C1C1810, 0x00000003] = .ok (.atom { Head.plain with form := .ext, d := 20, a := .reg 16, b := .src (.reg 24), c := .reg 28, ty := .b64 } ⟨0, 0, 0, .acqRel⟩ .cas) ∧
    decodeWords [0x00000252, 0x0F001810, 0x00000050] = .ok (.red { Head.plain with form := .ext, a := .reg 16, b := .src (.reg 24), ty := .f32 } ⟨0, 5, 0, .plain⟩ .add) ∧
    decodeWords [0x00000256, 0x00000000, 0x00000000] = .ok (.fence { Head.plain with form := .ext }) ∧
    decodeWords [0x1000025A, 0x00000010, 0x00000000] = .ok (.pref { Head.plain with form := .ext, a := .reg 16 } ⟨0, 0, 0, .plain⟩ true) := by
  repeat' apply And.intro
  all_goals rfl

/-- Row 0xA: words put together from R15, R18 to R20, R26, R30 and the entries, one for each instruction. -/
theorem test_decode_engines :
    decodeWords [0x00000282, 0x00000010, 0x00010007] = .ok (.copy { Head.plain with form := .ext, a := .reg 16 } 64 7) ∧
    decodeWords [0x0000A286, 0x00001810, 0x00010007] = .ok (.enq { Head.plain with form := .ext, d := 20, a := .reg 16, b := .src (.reg 24) } 64 7) ∧
    decodeWords [0x0000A28A, 0x00000010, 0x00001400] = .ok (.publish { Head.plain with form := .ext, d := 20, a := .reg 16 } 5) ∧
    decodeWords [0x0000A28E, 0x00001810, 0x00000050] = .ok (.collRun { Head.plain with form := .ext, d := 20, a := .reg 16, b := .src (.reg 24) } 5) ∧
    decodeWords [0x1000A28E, 0x00001810, 0x00000000] = .ok (.collLoad { Head.plain with form := .ext, d := 20, a := .reg 16, b := .src (.reg 24) } 0) ∧
    decodeWords [0x2000A28E, 0x00001800, 0x00000000] = .ok (.collDrop { Head.plain with form := .ext, d := 20, b := .src (.reg 24) } 0) ∧
    decodeWords [0x0000A292, 0x00000010, 0x00000000] = .ok (.repart { Head.plain with form := .ext, d := 20, a := .reg 16 }) ∧
    decodeWords [0x0000A296, 0x00000000, 0x00000000] = .ok (.pfenceDie { Head.plain with form := .ext, d := 20 }) ∧
    decodeWords [0x1000A296, 0x00000000, 0x00000000] = .ok (.pfencePkg { Head.plain with form := .ext, d := 20 }) ∧
    decodeWords [0x0000A29A, 0x00001800, 0x00000000] = .ok (.steptag { Head.plain with form := .ext, d := 20, b := .src (.reg 24) }) ∧
    decodeWords [0x0000A29E, 0x00001800, 0x00000000] = .ok (.snapStat { Head.plain with form := .ext, d := 20, b := .src (.reg 24) }) ∧
    decodeWords [0x1000A29E, 0x00001800, 0x00000000] = .ok (.snapGo { Head.plain with form := .ext, d := 20, b := .src (.reg 24) }) ∧
    decodeWords [0x2000A29E, 0x00001800, 0x00000000] = .ok (.snapAbort { Head.plain with form := .ext, d := 20, b := .src (.reg 24) }) ∧
    decodeWords [0x0000A2A2, 0x001C1810, 0x00000000] = .ok (.digest { Head.plain with form := .ext, d := 20, a := .reg 16, b := .src (.reg 24), c := .reg 28 }) := by
  repeat' apply And.intro
  all_goals rfl

/-- Row 0xB: words put together from R15, R18 to R20, R26, R30 and the entries, one for each instruction. -/
theorem test_decode_matrix :
    decodeWords [0x0000A2C2, 0x00000010, 0x00020100] = .ok (.mma { Head.plain with form := .ext, d := 20, a := .reg 16 } 513) ∧
    decodeWords [0x000002C6, 0x00001810, 0x00004006] = .ok (.mmwait { Head.plain with form := .ext, a := .reg 16, b := .src (.reg 24) } 16 6) ∧
    decodeWords [0x0000A2CA, 0x00000010, 0x20000000] = .ok (.mmrd { Head.plain with form := .ext, d := 20, a := .reg 16, e := 32 }) ∧
    decodeWords [0x0000A2CE, 0x00000010, 0x00000000] = .ok (.mmclrAcc { Head.plain with form := .ext, d := 20, a := .reg 16 }) ∧
    decodeWords [0x1000A2CE, 0x00000010, 0x00000000] = .ok (.mmclrClaim { Head.plain with form := .ext, d := 20, a := .reg 16 }) ∧
    decodeWords [0x2000A2CE, 0x00000010, 0x00000000] = .ok (.mmclrFree { Head.plain with form := .ext, d := 20, a := .reg 16 }) ∧
    decodeWords [0x0000A2D2, 0x00000010, 0x00000200] = .ok (.mmscl { Head.plain with form := .ext, d := 20, a := .reg 16 } 2) ∧
    decodeWords [0x0000A2D6, 0x00001810, 0x00000000] = .ok (.mmstBank { Head.plain with form := .ext, d := 20, a := .reg 16, b := .src (.reg 24) }) ∧
    decodeWords [0x1000A2D6, 0x001C1810, 0x00000000] = .ok (.mmstAcc { Head.plain with form := .ext, d := 20, a := .reg 16, b := .src (.reg 24), c := .reg 28 }) := by
  repeat' apply And.intro
  all_goals rfl

/- One declaration after another: each check by the kernel waits for all that stand before it. -/
set_option Elab.async false

/-! ### Single instructions, with the worked values of the spec -/

/-- A block for the threads of these tests. -/
def testBlock : Block := Block.blank

/-- A state in which the lanes `ls`, each with its own registers, issue an instruction together on core 0. -/
def lanes (ls : List (Nat × List (Nat × BitVec 32))) : State :=
  { State.reset with
    contexts := [(0, Context.blank)], launches := [(1, Launch.blank)], blocks := [(1, testBlock)]
    groups := [(0, ⟨0, { Header.blank with regs := 96 }, 0, 0, false⟩)]
    threads := ls.map fun l => (l.1, { Thread.fresh 0x110000 0 1 with regs := l.2 }), serial := 9
    issuing := some ⟨0, ls.map Prod.fst, 8, [0x3C, 0, 0]⟩, regs := { Regs.reset with bootstage := 3 } }

/-- The registers `ns` of lane `l` after instruction `i` is performed in `s`. -/
def after (i : Instr) (s : State) (l : Nat) (ns : List Nat) : Option (List Nat) :=
  match exec i s with
  | .next t => (t.thread? l).map fun t => ns.map fun n => t.rd (.reg n) 32
  | _ => none

/-- The registers `ns` of lane `l` after the instruction that the words `ws` encode. -/
def afterWords (ws : List Nat) (s : State) (l : Nat) (ns : List Nat) : Option (List Nat) :=
  match decodeWords ws with
  | .ok i => after i s l ns
  | .error _ => none

/-- The table of the E4M3 example: the second pack puts −0 and NaN above the two elements of the first. -/
theorem test_pack_e4m3 :
    afterWords [0x1000F1A6, 0x121E1716, 0x00000030] (lanes [(0, [(22, 0xBA000000#32), (23, 0x7FC00000#32), (30, 0x7E38#32)])]) 0 [30] =
      some [0x7F807E38] := by
  decide +kernel

/-- The pairs of the I4X example, each from the word before it: outliers, clamping and lost partners. -/
theorem test_pack_i4x :
    (let p (n a b c : Nat) : Option (List Nat) :=
      after (.pack { ext with ty := .i4x, d := 31, a := .reg 24, b := .src (.reg 25), c := .reg 31 } plainA n false)
        (lanes [(0, [(24, BitVec.ofNat 32 a), (25, BitVec.ofNat 32 b), (31, BitVec.ofNat 32 c)])]) 0 [31]
     [p 0 3 (2 ^ 32 - 5) 0, p 1 0 300 0xB3, p 2 (2 ^ 32 - 2000) 6 0x85B3, p 3 9 (2 ^ 32 - 12) 0xF885B3] =
      [some [0xB3], some [0x85B3], some [0xF885B3], some [0x89F885B3]]) := by
  decide +kernel

/-- The I4X example: the elements that the word 0x89F885B3 unpacks to. -/
theorem test_unpack_i4x :
    ((List.range 8).map fun n => after (.unpack { ext with ty := .i4x, d := 20, a := .reg 31, b := .src (.reg 0) } plainA n)
      (lanes [(0, [(31, 0x89F885B3#32)])]) 0 [20]) =
    [3, 2 ^ 32 - 5, 0, 256, 2 ^ 32 - 1024, 0, 0, 2 ^ 32 - 16].map fun v => some [v] := by
  decide +kernel

/-- Five lanes issue together, lane 2 disabled by its predicate v9: the smallest of the others is −4 in each of them. -/
def fiveLanes : State :=
  lanes [(0, [(16, 6#32), (9, 1#32)]), (1, [(16, 9#32), (9, 1#32)]), (2, [(16, BitVec.ofInt 32 (-9)), (20, 77#32)]),
    (5, [(16, BitVec.ofInt 32 (-4)), (9, 1#32)]), (31, [(16, 7#32), (9, 1#32)])]

/-- The head of an extended lane instruction under the predicate v9. -/
def underP : Head := { ext with pred := some ⟨false, .reg 9⟩ }

/-- The table of worked values for lane reductions, votes and elections. -/
theorem test_lane_table :
    ([0, 1, 2, 5, 31].map fun l => after (.lred { underP with ty := .s32 } .min 0 false .rne) fiveLanes l [20]) =
      [some [2 ^ 32 - 4], some [2 ^ 32 - 4], some [77], some [2 ^ 32 - 4], some [2 ^ 32 - 4]] ∧
    ([0, 1, 2, 5, 31].map fun l => after (.vote underP .ballot) fiveLanes l [20]) =
      [some [0x80000002], some [0x80000002], some [77], some [0x80000002], some [0x80000002]] ∧
    ([0, 1, 2, 5, 31].map fun l => after (.elect { underP with a := .reg 0, e := 21 } false) fiveLanes l [20, 21]) =
      [some [1, 0], some [0, 0], some [77, 0], some [0, 0], some [0, 0]] := by
  decide +kernel

/-- The body word of the repeat example adds v40 to v20. -/
theorem test_add_word : afterWords [0x5050A080] (lanes [(0, [(20, 5#32), (40, 6#32)])]) 0 [20] = some [11] := by
  decide +kernel

/-- R112: fround toward plus infinity of −0.3 is −0. -/
theorem test_fround_up :
    after (.fround { ext with ty := .f32 } { plainA with rnd := .rup }) (lanes [(0, [(16, 0xBE99999A#32)])]) 0 [20] =
      some [0x80000000] := by
  decide +kernel

/-- sext.s64 v40:v41, v9, #32 widens a negative word into a pair. -/
theorem test_sext :
    after (.sext { ext with ty := .s64, d := 40, a := .reg 9, b := .imm22 32#22 } plainA) (lanes [(0, [(9, 0xFFFFFFF0#32)])]) 0 [40, 41] =
      some [0xFFFFFFF0, 0xFFFFFFFF] := by
  decide +kernel

/-- lea.sh2.s32 v30:v31, v2:v3, v1 adds four times a negative index to an address across the words. -/
theorem test_lea :
    after (.lea { ext with ty := .s32, d := 30, a := .reg 2, b := .src (.reg 1) } plainA 2)
      (lanes [(0, [(1, 0xFFFFFFFF#32), (2, 2#32), (3, 1#32)])]) 0 [30, 31] = some [0xFFFFFFFE, 0] := by
  decide +kernel


/-! ### States that meet the hypotheses of the statements -/

/-- A thread with values in its registers and a result in its window. -/
def someThread : Thread :=
  { Thread.fresh 0x110000 0 1 with
    regs := [(2, 0xFFFFFFFF#32), (3, 3#32), (4, 128#32), (6, 0x110040#32), (8, 1#32), (16, 64#32), (18, 5#32), (22, 1#32)]
    window := [⟨5, 32, true⟩] }

/-- A block with one allocation of one larder unit at window address 0. -/
def someBlock : Block := { Block.blank with allocs := [⟨0, 0, false, none, [0]⟩] }

/-- A state in which one thread of one block issues on core 0, in a context with nothing in it. -/
def lone (t : Thread) (b : Block) : State :=
  { State.reset with
    contexts := [(0, Context.blank)], launches := [(1, Launch.blank)], blocks := [(1, b)]
    groups := [(0, ⟨0, Header.blank, 0, 0, false⟩)], threads := [(0, t)], serial := 9
    issuing := some ⟨0, [0], 8, [0x3C, 0, 0]⟩, regs := { Regs.reset with bootstage := 3 } }

/-- The state that most witnesses use. -/
def demo : State := lone someThread someBlock

/-- Whether instruction `i` runs in the one thread that issues. -/
def runsNow (s : State) (k : Nat) (t : Thread) (h : Head) (i : Instr) : Bool :=
  i.head = some h && s.gate i k t h = .on && (s.pairingOf k).isNone && !t.passed

/-- What `runsNow` finds. -/
theorem runs_of_runsNow {s : State} {k : Nat} {t : Thread} {h : Head} {l : List Instr} (ha : Alone s k t)
    (hl : l.all (runsNow s k t h) = true) : ∀ i ∈ l, Runs i h s k t := by
  intro i hi
  have := List.all_eq_true.mp hl i hi
  simp [runsNow] at this
  exact ⟨ha, this.1.1.1, this.1.1.2, fun _ => this.1.2, this.2⟩

/-- The same, each instruction with its own head. -/
def runsOwn (s : State) (k : Nat) (t : Thread) (i : Instr) : Bool := (i.head.map fun h => runsNow s k t h i).getD false

/-- What `runsOwn` finds. -/
theorem runs_of_runsOwn {s : State} {k : Nat} {t : Thread} {l : List Instr} (ha : Alone s k t)
    (hl : l.all (runsOwn s k t) = true) : ∀ i ∈ l, ∃ h, i.head = some h ∧ Runs i h s k t := by
  intro i hi
  have := List.all_eq_true.mp hl i hi
  cases hd : i.head with
  | none => simp [runsOwn, hd] at this
  | some h =>
    simp [runsOwn, hd] at this
    exact ⟨h, rfl, runs_of_runsNow ha (l := [i]) (by simpa using this) i (List.mem_singleton.mpr rfl)⟩

/-- A head of a type. -/
def typed (ty : Ty) : Head := { ext with ty := ty, b := .src (.reg 18) }

/-- No record was written in any cycle. -/
theorem demo_fresh (t : Thread) (b : Block) : FreshCycle (lone t b) := by
  intro r h
  cases h

/-! #### Encoding and decoding -/

/-- States and operands that meet the hypotheses of `DecodeOfEncodeIsIdentity`. -/
theorem witness_DecodeOfEncodeIsIdentity :
    (Instr.add { ext with ty := .s32, b := .src (.reg 18), d := 247, a := .latch 8, pred := some ⟨true, .reg 247⟩ } ⟨63, true, false, .rne⟩).wf = true ∧
    (Instr.ldg { ext with ty := .b32 } ⟨-(2 ^ 21), 0, 2, .acquire⟩).wf = true ∧
    (Instr.bra { Head.plain with form := .ext } (-(2 ^ 23))).wf = true := by
  decide

/-- States and operands that meet the hypotheses of `OnlyWellFormedInstructionsDecode`. -/
theorem witness_OnlyWellFormedInstructionsDecode :
    (∀ w ∈ [0xFA000004], w < 2 ^ 32) ∧ decodeWords [0xFA000004] = .ok (.bra Head.plain (-3)) ∧
    ∀ w ∈ [0, 4 * 0xBF, 4 * 0xC0, 4 * 0xFF], wordCount w ≤ ([w] : List Nat).length :=
  ⟨by decide, rfl, by decide⟩

/-! #### Steps -/

/-- The state after reset in which the next step fetches a word, once its move is off the agenda. -/
def turning (w : Nat) : State := { State.reset.withFetchWord 32 w with agenda := [] }

/-- The thread that runs there. -/
def bootThread : Thread := Thread.fresh 0x110000 0 1

/-- States and operands that meet the hypotheses of `StepRunsDecodedInstruction`. -/
theorem witness_StepRunsDecodedInstruction :
    (State.reset.withFetchWord 32 0x3C).nextMove = (.act (.issue 0 0), 1, turning 0x3C) ∧ (turning 0x3C).stage ≠ 15 ∧
    ((turning 0x3C).core ((4 * 0 + 0) / 4)).gated = false ∧
    (turning 0x3C).pickGroup 0 = some (0, ⟨0, Header.blank, 0, 0, false⟩) ∧ (turning 0x3C).pickThreads 0 = [(0, bootThread)] ∧
    bootThread.hold = .none ∧ bootThread.rep = none ∧ (turning 0x3C).fetchInstr 0 0 0 0x110000 = .words [0x3C] ∧
    (rawOf [0x3C]).isSome = true ∧ decodeWords [0x3C] = .ok (.nop Head.plain) :=
  ⟨rfl, by decide, rfl, rfl, rfl, rfl, rfl, rfl, rfl, rfl⟩

/-- States and operands that meet the hypotheses of `IllegalEncodingTraps`. -/
theorem witness_IllegalEncodingTraps :
    (turning 0).stage ≠ 15 ∧ ((turning 0).core 0).gated = false ∧ (turning 0).pickGroup 0 = some (0, ⟨0, Header.blank, 0, 0, false⟩) ∧
    (turning 0).pickThreads 0 = [(0, bootThread)] ∧ (turning 0).fetchInstr 0 0 0 0x110000 = .words [0] ∧ (rawOf [0]).isSome = true ∧
    decodeWords [0] = .error (.illegal 0x01) :=
  ⟨by decide, rfl, rfl, rfl, rfl, rfl, rfl⟩

/-- States and operands that meet the hypotheses of `AgendaStep`. -/
theorem witness_AgendaStep :
    ({ State.reset with agenda := [⟨5, .event .arrlogRead⟩] } : State).agenda = ⟨5, .event .arrlogRead⟩ :: [] ∧
    Instr.arrlogRead.parts = none :=
  ⟨rfl, rfl⟩

/-- States and operands that meet the hypotheses of `StepKeepsMemoryCanonical`. -/
theorem witness_StepKeepsMemoryCanonical : Canonical State.reset ∧ ∃ s', step State.reset = .next s' :=
  ⟨by unfold Canonical; decide, _, rfl⟩

/-- States and operands that meet the hypotheses of `BytesWrittenAreRead`. -/
theorem witness_BytesWrittenAreRead : Memory.wf [(3, 1#8), (7, 2#8)] := by decide

/-! #### Results in a thread -/

/-- A thread with a load under way to v20 and v21. -/
def loading : Thread := { someThread with incoming := [⟨7, 20, 64, [20, 21], none⟩] }

/-- States and operands that meet the hypotheses of `ResultsInThread`. -/
theorem witness_ResultsInThread :
    (⟨5, some 1, .none⟩ : Res).e = some 1 ∧ (32 : Nat) ≠ 0 ∧ (0 : Nat) < regWords (destWidth (.addc { ext with e := 32 } plainA)) ∧
    loading.rep = none ∧ (20 : Nat) ≠ 0 ∧ (7 : Nat) ≠ 0 ∧ (∃ x ∈ loading.incoming, ∀ j, j < regWords 32 → 22 + j ∉ x.live) := by
  refine ⟨rfl, by decide, by decide, rfl, by decide, by decide, _, List.mem_singleton.mpr rfl, ?_⟩
  decide

/-! #### Register instructions -/

/-- States and operands that meet the hypotheses of `IntegerArithmetic`. -/
theorem witness_IntegerArithmetic :
    ∀ i ∈ [Instr.add (typed .s32) plainA, .sub (typed .s32) plainA, .mul (typed .s32) plainA, .mad (typed .s32) plainA,
      .add64 (typed .s32) plainA, .sub64 (typed .s32) plainA, .mul64 (typed .s32) plainA, .mulhi (typed .s32) plainA,
      .mulw (typed .s32) plainA, .addc (typed .s32) plainA, .subc (typed .s32) plainA],
      Runs i (typed .s32) demo 0 someThread :=
  runs_of_runsNow ⟨rfl, rfl⟩ (by decide)

/-- States and operands that meet the hypotheses of `IntegerCompareSelect`. -/
theorem witness_IntegerCompareSelect :
    ∀ i ∈ [Instr.min (typed .s32) plainA, .max (typed .s32) plainA, .min64 (typed .s32) plainA, .max64 (typed .s32) plainA,
      .abs (typed .s32) plainA, .cmp (typed .s32) plainA .lt, .cmp64 (typed .s32) plainA .ge, .sel (typed .s32) plainA,
      .lea (typed .s32) plainA 7], Runs i (typed .s32) demo 0 someThread :=
  runs_of_runsNow ⟨rfl, rfl⟩ (by decide)

/-- States and operands that meet the hypotheses of `LogicAndShifts`. -/
theorem witness_LogicAndShifts :
    ∀ i ∈ [Instr.and (typed .b32) plainA, .or (typed .b32) plainA, .xor (typed .b32) plainA, .andn (typed .b32) plainA,
      .not (typed .b32) plainA, .shl (typed .b32) plainA, .shr (typed .b32) plainA, .sar (typed .b32) plainA,
      .rol (typed .b32) plainA, .ror (typed .b32) plainA, .shl64 (typed .b32) plainA, .shr64 (typed .b32) plainA,
      .sar64 (typed .b32) plainA], Runs i (typed .b32) demo 0 someThread :=
  runs_of_runsNow ⟨rfl, rfl⟩ (by decide)

/-- States and operands that meet the hypotheses of `FieldsCountsMoves`. -/
theorem witness_FieldsCountsMoves :
    ∀ i ∈ [Instr.bfe (typed .b32) plainA, .bfi (typed .b32) plainA, .popc (typed .b32) plainA, .clz (typed .b32) plainA,
      .ctz (typed .b32) plainA, .brev (typed .b32) plainA, .mov (typed .b32) plainA, .movi (typed .b32) plainA,
      .sext (typed .b32) plainA, .zext (typed .b32) plainA], Runs i (typed .b32) demo 0 someThread :=
  runs_of_runsNow ⟨rfl, rfl⟩ (by decide)

/-- States and operands that meet the hypotheses of `FloatArithmetic`. -/
theorem witness_FloatArithmetic :
    ∀ i ∈ [Instr.fadd (typed .f32) plainA, .fsub (typed .f32) plainA, .fmul (typed .f32) plainA, .fma (typed .f32) plainA,
      .fmin (typed .f32) plainA, .fmax (typed .f32) plainA, .fadd2 (typed .f32) plainA, .fmul2 (typed .f32) plainA,
      .fma2 (typed .f32) plainA, .fmin2 (typed .f32) plainA, .fmax2 (typed .f32) plainA, .fcmp (typed .f32) plainA .un,
      .fclass (typed .f32) plainA true, .fround (typed .f32) plainA, .fscale (typed .f32) plainA],
      Runs i (typed .f32) demo 0 someThread :=
  runs_of_runsNow ⟨rfl, rfl⟩ (by decide)

/-- States and operands that meet the hypotheses of `RepresentableValuesRoundToThemselves`. -/
theorem witness_RepresentableValuesRoundToThemselves :
    Ty.e5m2 ∈ [Ty.f64, .f32, .f16, .bf16, .e4m3, .e5m2] ∧ 0x7B < 2 ^ (fmtOf .e5m2).width ∧
    ∃ neg m e, (fmtOf .e5m2).value 0x7B = .fin neg m e :=
  ⟨by decide, by decide, _, _, _, rfl⟩

/-- States and operands that meet the hypotheses of `ApproxConvertPackRand`. -/
theorem witness_ApproxConvertPackRand :
    (∀ i ∈ [Instr.frcp (typed .f32) plainA, .frsq (typed .f32) plainA, .fsqrt (typed .f32) plainA, .fexp2 (typed .f32) plainA,
      .flog2 (typed .f32) plainA, .fsin (typed .f32) plainA, .fcos (typed .f32) plainA, .ftanh (typed .f32) plainA,
      .cvt { typed .f32 with ty2 := .s32 } plainA false, .unpack (typed .e4m3) plainA 0, .rand (typed .b32) true 3,
      .pack (typed .e4m3) plainA 1 false], ∃ h, i.head = some h ∧ Runs i h demo 0 someThread) ∧
    (packPair plainA false (typed .e4m3) someThread).1 < 2 ^ 8 ∧ (packPair plainA false (typed .e4m3) someThread).2.1 < 2 ^ 8 := by
  refine ⟨?_, by decide, by decide⟩
  intro i hi
  simp only [List.mem_cons, List.not_mem_nil, or_false] at hi
  rcases hi with rfl | rfl | rfl | rfl | rfl | rfl | rfl | rfl | rfl | rfl | rfl | rfl <;>
    exact ⟨_, rfl, ⟨rfl, rfl⟩, rfl, rfl, fun _ => rfl, rfl⟩

/-- States and operands that meet the hypotheses of `ApproxSpecialOperands`. -/
theorem witness_ApproxSpecialOperands : (0x80000000 < 0x80000001 ∧ 0xFF7FFFFF < 0x80000000 + 0x7F800000) ∧ 1 ≤ 253 ∧ 1 % 2 = 1 := by
  decide

/-! #### Checks, traps and counters -/

/-- The same state with a kernel that declares 16 registers, and with a kernel that has a handler. -/
def kernel (n handler : Nat) (t : Thread) : State :=
  { lone t someBlock with groups := [(0, ⟨0, { Header.blank with regs := n, handler := handler }, 0, 0, false⟩)] }

/-- A head with a predicate, and one that reads a latch. -/
def under (p : Pred) : Head := { typed .s32 with pred := some p }

/-- States and operands that meet the hypotheses of `ChecksComeInOrder`. -/
theorem witness_ChecksComeInOrder :
    (Instr.add (typed .s32) plainA).overRegs ((kernel 16 0 someThread).regCount 0) = true ∧
    (Instr.eret Head.plain).overRegs (demo.regCount 0) = false ∧ isPrivileged (.eret Head.plain) = true ∧ someThread.priv = false ∧
    opOf (.selftestHbm ext) = 0x0E ∧
    ((({ demo with contexts := [(0, { Context.blank with sys := false })] } : State).ctx? 0).map Context.sys).getD false = false ∧
    someThread.latchBad 2 = some 0x01 ∧ someThread.latchBad 1 = none ∧
    (under ⟨false, .latch 1⟩).pred = some ⟨false, .latch 1⟩ ∧ (someThread.rd (.latch 1) 32 % 2 == 1) = true ∧
    (someThread.rd (.reg 4) 32 % 2 == 1) = false ∧
    (Instr.add { typed .s32 with a := .latch 2 } plainA).latches = 2 :: [] ∧
    (∀ n ∈ (Instr.add { typed .s32 with a := .latch 1 } plainA).latches, someThread.latchBad n = none) := by
  decide

/-- States and operands that meet the hypotheses of `LatchChecks`. -/
theorem witness_LatchChecks :
    (1 : Nat) ≤ 8 ∧ someThread.window.length < 2 ∧ someThread.window[1 - 1]? = some ⟨5, 32, true⟩ := by
  decide

/-- States and operands that meet the hypotheses of `DisabledAndTrappingInstructions`. -/
theorem witness_DisabledAndTrappingInstructions :
    Alone demo 0 someThread ∧ FreshCycle demo ∧ demo.gate (.add (under ⟨false, .reg 4⟩) plainA) 0 someThread (under ⟨false, .reg 4⟩) = .off ∧
    demo.gate (.eret Head.plain) 0 someThread Head.plain = .trap 0x02 0x01 0 ∧ opOf (.eret Head.plain) ≠ 0x09 :=
  ⟨⟨rfl, rfl⟩, demo_fresh _ _, rfl, rfl, by decide⟩

/-- States and operands that meet the hypotheses of `TrapsAreTaken`. -/
theorem witness_TrapsAreTaken :
    (kernel 248 0x110100 someThread).thread? 0 = some someThread ∧ someThread.priv = false ∧
    (kernel 248 0x110100 someThread).issuing = some ⟨0, [0], 8, [0x3C, 0, 0]⟩ ∧
    (kernel 248 0x110100 someThread).groups.look (groupOf 0) = some ⟨0, { Header.blank with handler := 0x110100 }, 0, 0, false⟩ ∧
    (0x110100 : Nat) ≠ 0 ∧ demo.blocks.look someThread.bid = some someBlock ∧ ((demo.headerOf 0).map Header.handler).getD 0 = 0 ∧
    (0xFF : Nat) < 2 ^ 8 := by
  decide

/-- States and operands that meet the hypotheses of `CountersSaturateAndFlush`. -/
theorem witness_CountersSaturateAndFlush :
    Map.wf 0 ([(0, 0xFFFFFFFF), (191, 5)] : Map Nat) ∧ (63 : Nat) < 64 ∧ Runs (.cntflush ext) ext demo 0 someThread ∧
    demo.launchOf 0 = (demo.releaseStash 1).launchOf 0 ∧ (demo.releaseStash 1).thread? 0 = some someThread ∧
    ({ demo with cores := [(0, { Core.reset with counters := [⟨0, 1, [(0, 7)]⟩] })] } : State).counterSet 0 1 = some ⟨0, 1, [(0, 7)]⟩ ∧
    demo.launches.look 1 = some Launch.blank ∧ Launch.blank.hdr.dump = 0 :=
  ⟨by decide, by decide, ⟨⟨rfl, rfl⟩, rfl, rfl, fun _ => rfl, rfl⟩, rfl, rfl, rfl, rfl, rfl⟩

/-- A state in which a package has not yet answered the write-back of a stash line of the block. -/
def awaiting : State :=
  { demo with
    peers := [⟨4, 3, 0, 1, 0, 128, ⟨0, 65536, 3, 0⟩, .writeBack 0, none, 0⟩]
    contexts := [(0, { Context.blank with graphs := [(0, ⟨[0], none⟩)] })] }

/-- The clauses on a block whose stash lines are written back, and on one with a write-back still to come. -/
theorem witness_StashHeld :
    (∀ i ∈ [Instr.csrw ext 0x000, .cntflush ext], Runs i ext (lone { someThread with priv := true } someBlock) 0 { someThread with priv := true }) ∧
    (∀ i ∈ [Instr.cntflush (typed .b32), .harr (typed .b32) 5, .hsig (typed .b32) true, .publish (typed .b32) 0, .collRun (typed .b32) 0,
      .collLoad (typed .b32) 0, .repart (typed .b32), .copy (typed .b32) 0 0, .enq (typed .b32) 0 0, .steptag (typed .b32)],
      ∃ h, i.head = some h ∧ Runs i h awaiting 0 someThread) ∧
    (demo.releaseStash 1).stashHeld 1 = false ∧ (awaiting.releaseStash 1).stashHeld 1 = true ∧ awaiting.stashHeld 1 = true :=
  ⟨runs_of_runsNow ⟨rfl, rfl⟩ (by decide), runs_of_runsOwn ⟨rfl, rfl⟩ (by decide), by decide +kernel⟩

/-- Two threads of a group that issue together; the second has bit 0 of v18 clear. -/
def pairOfThreads : State :=
  { demo with threads := [(0, someThread), (1, { someThread with regs := [(18, 4#32)] })], issuing := some ⟨0, [0, 1], 8, [0x3C]⟩ }

/-- States and operands that meet the hypotheses of `ThreadsOfGroupAreIndependent`. -/
theorem witness_ThreadsOfGroupAreIndependent :
    exec (.add (under ⟨false, .reg 18⟩) plainA) pairOfThreads =
      alu (.add (under ⟨false, .reg 18⟩) plainA) 0 (addRes plainA) pairOfThreads ∧
    pairingMatters (.add (under ⟨false, .reg 18⟩) plainA) = false ∧ pairOfThreads.issuing = some ⟨0, [0, 1], 8, [0x3C]⟩ ∧
    ([0, 1] : List Nat).Nodup ∧
    (∀ k ∈ [0, 1], ∃ t, pairOfThreads.thread? k = some t ∧ t.passed = false ∧
      (pairOfThreads.gate (.add (under ⟨false, .reg 18⟩) plainA) k t (under ⟨false, .reg 18⟩) = .on ∨
        pairOfThreads.gate (.add (under ⟨false, .reg 18⟩) plainA) k t (under ⟨false, .reg 18⟩) = .off)) := by
  refine ⟨rfl, by decide, rfl, by decide, ?_⟩
  intro k hk
  simp only [List.mem_cons, List.not_mem_nil, or_false] at hk
  rcases hk with rfl | rfl
  · exact ⟨_, rfl, rfl, .inl rfl⟩
  · exact ⟨_, rfl, rfl, .inr rfl⟩

/-! #### Control -/

/-- A thread in privileged mode, with its saved pc, saved REPEAT state and no kept log. -/
def handling (tepc : BitVec 64) : Thread :=
  { someThread with priv := true, tepc := tepc, savedRep := some ⟨0x110000, 20, 0, 4, [0x3C], 0, true⟩ }

/-- States and operands that meet the hypotheses of `BranchesTrapsAndReturns`. -/
theorem witness_BranchesTrapsAndReturns :
    (∀ i ∈ [Instr.bra (typed .dflt) 5, .brz (typed .dflt) (-1), .brnz (typed .dflt) 5, .call (typed .dflt) (2 ^ 23 - 1), .jmp (typed .dflt),
      .ret (typed .dflt), .trap (typed .dflt) 1000], Runs i (typed .dflt) demo 0 someThread) ∧
    (∀ t ∈ [handling 0x110014, handling 0x110012, handling (2 ^ 52)], Runs (.eret (typed .dflt)) (typed .dflt) (lone t someBlock) 0 t) ∧
    ((handling 0x110014).tepc.toNat % 4 = 0 ∧ (handling 0x110014).tepc.toNat < 2 ^ 52 ∧ (handling 0x110014).keptLog = none) ∧
    (handling 0x110012).tepc.toNat % 4 ≠ 0 ∧ ((handling (2 ^ 52)).tepc.toNat % 4 = 0 ∧ 2 ^ 52 ≤ (handling (2 ^ 52)).tepc.toNat) := by
  refine ⟨runs_of_runsNow ⟨rfl, rfl⟩ (by decide), ?_, by decide, by decide, by decide⟩
  intro t ht
  simp only [List.mem_cons, List.not_mem_nil, or_false] at ht
  rcases ht with rfl | rfl | rfl <;> exact ⟨⟨rfl, rfl⟩, rfl, rfl, fun _ => rfl, rfl⟩

/-- A head whose pairs hold addresses of templates: v16:v17 is 64, v2:v3 is none. -/
def naming (a : Nat) : Head := { ext with d := 0, a := .reg a }

/-- States and operands that meet the hypotheses of `NopYieldExit`. -/
theorem witness_NopYieldExit :
    (∀ i ∈ [Instr.nop ext, .yield ext, .exit ext], Runs i ext demo 0 someThread) ∧
    (turning 0x3C).pickGroup 0 = some (0, ⟨0, Header.blank, 0, 0, false⟩) ∧
    (0, (⟨0, Header.blank, 0, 0, false⟩ : Group)) ∈ (turning 0x3C).groups ∧ (0 : Nat) / 16 = 0 ∧ (turning 0x3C).readyThreads 0 ≠ [] ∧
    ¬ ((⟨0, Header.blank, 0, 0, false⟩ : Group).yielded = true ∧ 0 = ((turning 0x3C).unit 0).turn) ∧
    demo.threads.Pairwise (fun a b => a.1 < b.1) ∧ demo.blocks.look someThread.bid = some someBlock :=
  ⟨runs_of_runsNow ⟨rfl, rfl⟩ (by decide), rfl, by decide, by decide, by decide, by decide, by decide, rfl⟩

/-- States and operands that meet the hypotheses of `ExitWithSuccessors`. -/
theorem witness_ExitWithSuccessors :
    (∀ i ∈ [Instr.exitWithSuccessors (naming 16) 1], Runs i (naming 16) demo 0 someThread) ∧
    (∀ i ∈ [Instr.exitWithSuccessors (naming 2) 1], Runs i (naming 2) demo 0 someThread) ∧ demo.blockOf 0 = some someBlock ∧
    (∀ a ∈ successorsOf someThread (naming 16) 1, a % 64 = 0 ∧ a < 2 ^ 52) ∧
    (∃ a, successorsOf someThread (naming 2) 1 = [] ++ a :: [] ∧ (a % 64 ≠ 0 ∨ 2 ^ 52 ≤ a)) ∧
    4 < ((successorsOf someThread (naming 16) 1).foldl (fun acc a => if a ∈ acc then acc else acc ++ [a])
      [0x1000, 0x2000, 0x3000, 0x4000]).length :=
  ⟨runs_of_runsNow ⟨rfl, rfl⟩ (by decide), runs_of_runsNow ⟨rfl, rfl⟩ (by decide), rfl, by decide, ⟨_, rfl, by decide⟩, by decide⟩

/-- A repeat whose body is the one word behind it. -/
def loops (body : Nat) : Instr := .repeatLoop { Head.plain with form := .ext } false 4 body

/-- A state in which words are stored behind a repeat of three words. -/
def looping : State := (({ State.reset with issuing := none }).withFetchWord 160 (0x5050A080 * 2 ^ 96))

/-- States and operands that meet the hypotheses of `RepeatRunsItsBody`. -/
theorem witness_RepeatRunsItsBody :
    (∀ b ∈ [1, 33], (loops b).head = some { Head.plain with form := .ext } ∧
      Runs (loops b) { Head.plain with form := .ext } { looping with issuing := some ⟨0, [0], 8, []⟩ } 0 bootThread) ∧
    looping.fetchWords 0 0 0 (bootThread.pc + BitVec.ofNat 64 (lenOf (loops 1))).toNat 1 = .words [0x5050A080] ∧
    looping.fetchWords 0 0 0 (bootThread.pc + BitVec.ofNat 64 (lenOf (loops 1))).toNat 0 = .words [] ∧
    repeatBad 1 [0x5050A080] 0 = false ∧ repeatBad 33 [] 0 = true := by
  refine ⟨?_, rfl, rfl, rfl, rfl⟩
  intro b hb
  simp only [List.mem_cons, List.not_mem_nil, or_false] at hb
  rcases hb with rfl | rfl <;> exact ⟨rfl, ⟨rfl, rfl⟩, rfl, rfl, fun _ => rfl, rfl⟩

/-- REPEAT state of a body of one word in its first, and in its last, of two passes. -/
def pass (n : Nat) : Repeat := ⟨0x110000, 12, n, 2, [0x3C], 0, true⟩

/-- States and operands that meet the hypotheses of `RepeatPasses`. -/
theorem witness_RepeatPasses :
    (let t : Thread := { someThread with pc := 0x11000C, rep := some (pass 0) }
     t.rep = some (pass 0) ∧ (t.pc + BitVec.ofNat 64 4).toNat = (pass 0).addr + (pass 0).len + 4 * (pass 0).body.length ∧
     (pass 0).pass + 1 < (pass 0).count ∧ (pass 1).count ≤ (pass 1).pass + 1 ∧
     (t.pc + BitVec.ofNat 64 8).toNat ≠ (pass 0).addr + (pass 0).len + 4 * (pass 0).body.length) ∧
    (-128 : Int) ≤ -128 ∧ (127 : Int) < 128 ∧ (31 : Nat) < 32 ∧ (30 : Nat) ≠ 31 ∧ (7 : Nat) < 8 := by
  decide

/-- The numbers of control registers at the edges of what is assigned. -/
theorem witness_ControlRegisterTraps :
    (∀ n ∈ [0x005, 0x013, 0x209, 0x312, 0x402, 0x41B, 0xFFF, 0x201, 0x000, 0x003, 0x311],
      ∀ i ∈ [Instr.csrr ext n, .csrw ext n], Runs i ext demo 0 someThread) ∧ FreshCycle demo ∧
    (∀ n ∈ [0x005, 0x013, 0x209, 0x312, 0x402, 0x500, 0xFFF], demo.readTrap 0 someThread n = some 1) ∧
    demo.readTrap 0 someThread 0x000 = some 3 ∧ demo.writeTrap 0 someThread 0x003 = some 2 ∧
    demo.writeTrap 0 someThread 0x000 = some 3 := by
  refine ⟨?_, demo_fresh _ _, by decide, rfl, rfl, rfl⟩
  intro n hn
  simp only [List.mem_cons, List.not_mem_nil, or_false] at hn
  rcases hn with rfl | rfl | rfl | rfl | rfl | rfl | rfl | rfl | rfl | rfl | rfl <;>
    exact runs_of_runsNow ⟨rfl, rfl⟩ (by decide)

/-- States and operands that meet the hypotheses of `ControlRegisterReads`. -/
theorem witness_ControlRegisterReads :
    (∀ n ∈ [0x000, 0x010, 0x012, 0x100, 0x208, 0x310, 0x401, 0x410, 0x411, 0x415, 0x41A],
      (lone (handling 0) someBlock).readTrap 0 (handling 0) n = none) ∧
    (∀ i ∈ [Instr.csrr ext 0x010, .csrr ext 0x410, .csrr ext 0x411, .csrr ext 0x415, .csrw ext 0x000, .csrw ext 0x413],
      Runs i ext (lone (handling 0) someBlock) 0 (handling 0)) ∧
    (∀ n ∈ [0x000, 0x413], (lone (handling 0) someBlock).writeTrap 0 (handling 0) n = none) ∧ 2 ^ 64 - 1 < 2 ^ 64 :=
  ⟨by decide, runs_of_runsNow ⟨rfl, rfl⟩ (by decide), by decide, by decide⟩

/-- States and operands that meet the hypotheses of `Selftest`. -/
theorem witness_Selftest :
    (∀ i ∈ [Instr.selftestLane ext, .selftestRf ext, .selftestLar ext, .selftestDrw ext, .selftestArr ext, .selftestBank ext,
      .selftestHbm ext, .selftestScm ext, .selftestLink ext],
      Runs i ext (lone (handling 0) someBlock) 0 (handling 0)) ∧
    (let s : State := { demo with tests := [⟨5, 6, 2 ^ 28, 4⟩, ⟨7, 2, 191, 6⟩] }
     s.tests.find? (fun t => t.serial = 5) = some ⟨5, 6, 2 ^ 28, 4⟩ ∧
     s.tests.find? (sameTarget ⟨5, 6, 2 ^ 28, 4⟩) = some ⟨5, 6, 2 ^ 28, 4⟩ ∧ selectorOk 6 (2 ^ 28) = false ∧
     s.tests.find? (fun t => t.serial = 7) = some ⟨7, 2, 191, 6⟩ ∧
     s.tests.find? (sameTarget ⟨7, 2, 191, 6⟩) = some ⟨7, 2, 191, 6⟩ ∧ selectorOk 2 191 = true) := by
  exact ⟨runs_of_runsNow ⟨rfl, rfl⟩ (by decide), by decide⟩

/-! #### Lanes, parking and spawning -/

/-- States and operands that meet the hypotheses of `LaneOperations`. -/
theorem witness_LaneOperations :
    ∀ i ∈ [Instr.shfl (typed .b32) .xor, .vote (typed .b32) .ballot, .elect (typed .b32) true, .matchLanes (typed .b32) true,
      .lred (typed .b32) .add 63 false .rne], Together i (typed .b32) pairOfThreads ⟨0, [0, 1], 8, [0x3C]⟩ ∧
      participants i (typed .b32) pairOfThreads = [0, 1] := by
  intro i hi
  have h : ∀ k ∈ [0, 1], ∃ t, pairOfThreads.thread? k = some t ∧ (pairingMatters i = true → pairOfThreads.pairingOf k = none) ∧
      t.passed = false ∧ (pairOfThreads.gate i k t (typed .b32) = .on ∨ pairOfThreads.gate i k t (typed .b32) = .off) := by
    simp only [List.mem_cons, List.not_mem_nil, or_false] at hi
    intro k hk
    simp only [List.mem_cons, List.not_mem_nil, or_false] at hk
    rcases hi with rfl | rfl | rfl | rfl | rfl <;> rcases hk with rfl | rfl <;> exact ⟨_, rfl, fun _ => rfl, rfl, .inl rfl⟩
  simp only [List.mem_cons, List.not_mem_nil, or_false] at hi
  rcases hi with rfl | rfl | rfl | rfl | rfl <;> exact ⟨⟨rfl, rfl, by decide, by decide, by decide, h⟩, by decide⟩

/-- States and operands that meet the hypotheses of `LaneReductionOfIntegers`. -/
theorem witness_LaneReductionOfIntegers :
    [(0, someThread), (31, loading)] ≠ [] ∧ ∀ ty ∈ [Ty.s32, .n32, .s64, .n64], (typed ty).ty ∈ [Ty.s32, .n32, .s64, .n64] := by
  decide

/-- A state with a page mapped at 0x110000 that core 0's TLB holds, and a thread that runs there. -/
def mapped (t : Thread) : State :=
  { lone t someBlock with
    memory := State.reset.bringUp.memory, contexts := State.reset.bringUp.contexts
    cores := [(0, { Core.reset with tlb := [⟨0, 3, 0x110000, 0x10000, 2 ^ 62 + 0x30033⟩] })] }

/-- The page's leaf. -/
def page : Leaf := ⟨0x110000, 0x10000, 3, 2 ^ 62 + 0x30033⟩

/-- The piece of a 4-byte access to 0x110040, and the same of a page that package 3 holds. -/
def piece : Piece := ⟨0x110040, 0, 4, page, 0x30040⟩
def distant : Piece := { piece with leaf := { page with entry := page.entry + 2 * 2 ^ 59 + 3 * 2 ^ 6 } }

/-- A head whose address is v6:v7, 0x110040, and whose B is v3. -/
def paged (ty : Ty) (c : Nat) : Head := { ext with ty := ty, a := .reg 6, b := .src (.reg 3), c := .reg c }

/-- States and operands that meet the hypotheses of `ParkAndSpawn`. -/
theorem witness_ParkAndSpawn :
    demo.thread? 0 = some someThread ∧ demo.blockOf 0 = some someBlock ∧ demo.headerOf 0 = some Header.blank ∧
    demo.threads.Pairwise (fun a b => a.1 < b.1) ∧
    demo.placeFor (coreOf 0) someBlock.asid (recordSize 247 someThread.rep.isSome 1) = some (.drawer (span 0 17)) ∧
    (∀ o n, Place.drawer (span 0 17) ≠ .overflow o n) ∧ demo.issuing = some ⟨0, [0], 8, [0x3C, 0, 0]⟩ ∧ FreshCycle demo ∧
    (∀ i ∈ [Instr.parkNow (paged .b32 0) 0, .parkUntil (paged .b32 0) 247, .parkUntil (paged .b32 0) 5], Runs i (paged .b32 0) demo 0 someThread) ∧
    Runs (.parkNow ext 0) ext (lone (handling 0) someBlock) 0 (handling 0) ∧
    someThread.priv = false ∧ (handling 0).priv = true ∧
    ¬(someThread.rd (.reg 6) 64 ≤ demo.timebase.toNat ∧ someThread.rd (.reg 6) 64 < 2 ^ 60) ∧
    (someThread.rd (.reg 0) 64 ≤ demo.timebase.toNat ∧ someThread.rd (.reg 0) 64 < 2 ^ 60) := by
  refine ⟨rfl, rfl, rfl, by decide, by decide, fun _ _ h => (by cases h), rfl, demo_fresh _ _, runs_of_runsNow ⟨rfl, rfl⟩ (by decide),
    ⟨⟨rfl, rfl⟩, rfl, rfl, fun _ => rfl, rfl⟩, rfl, rfl, by decide, by decide⟩

/-- Hypotheses of the statements on park ne are met. -/
theorem witness_ParkNe :
    (∀ i ∈ [Instr.parkNe (paged .b32 8) 24], Runs i (paged .b32 8) (mapped someThread) 0 someThread) ∧
    (∀ i ∈ [Instr.parkNe (paged .b32 0) 24], Runs i (paged .b32 0) (mapped someThread) 0 someThread) ∧
    (mapped someThread).translate 0 0 .load [(0x110040, 0, 4)] = .all [piece] ∧
    (let s := mapped someThread
     let read : Nat := ofBytes (s.overlaid [] (s.spaceOf page) piece.pa 4)
     someThread.rd (.reg 6) 64 / 4 * 4 = 0x110040 ∧ s.watchAway (.thread 1 0) piece = false ∧ s.watchAway (.thread 1 0) distant = true ∧
     read ≠ someThread.rdB (.src (.reg 3)) 32 ∧ read = someThread.rdB (.src (.reg 0)) 32 ∧ (.reg 8 : Opnd) ≠ .reg 0 ∧
     ¬(someThread.rd (.reg 8) 64 ≤ s.timebase.toNat)) :=
  ⟨runs_of_runsNow ⟨rfl, rfl⟩ (by decide), runs_of_runsNow ⟨rfl, rfl⟩ (by decide), rfl, by decide +kernel⟩

/-- Hypotheses of the statements on spawn are met. -/
theorem witness_Spawn :
    (∀ i ∈ [Instr.spawn (typed .b32) false 2, .spawn (typed .b32) true 7], Runs i (typed .b32) demo 0 someThread) ∧
    someThread.rd (.reg 16) 64 % 4 = 0 ∧ someThread.rd (.reg 16) 64 < 2 ^ 52 ∧ someThread.rd (.reg 3) 64 % 4 ≠ 0 ∧
    demo.placeFor (coreOf 0) someBlock.asid (32 + 4 * 7) = some (.drawer [0]) ∧
    2 ^ 52 ≤ ({ someThread with regs := [(17, 0x100000#32)] } : Thread).rd (.reg 16) 64 :=
  ⟨runs_of_runsNow ⟨rfl, rfl⟩ (by decide), by decide, by decide, by decide, by decide, by decide⟩

/-! #### The larder -/

/-- The allocation that `someBlock` has, and the same as a stash of the page. -/
def alloc : Alloc := ⟨0, 0, false, none, [0]⟩
def stashed : Alloc := { alloc with stash := some 0x110000 }

/-- Line 0 of core 0 is full, and line 1 stale. -/
def filled (b : Block) : State :=
  { lone someThread b with lines := [(0, { Line.reset with full := true }), (1, { Line.reset with full := true, stale := true })] }

/-- A head whose address is v`a` and whose B is v`b`. -/
def at_ (a b : Nat) : Head := { ext with ty := .b32, a := .reg a, b := .src (.reg b) }

/-- States and operands that meet the hypotheses of `LarderAddressTraps`. -/
theorem witness_LarderAddressTraps :
    demo.blockOf 0 = some someBlock ∧ FreshCycle demo ∧
    (∀ a ∈ [2, 3, 4], ∀ i ∈ [Instr.ldl (at_ a 3) plainM .plain, .stl (at_ a 3) plainM .plain, .lfree (at_ a 3) plainM,
      .luseby (at_ a 3) plainM true, .smap (at_ a 3) plainM, .sunmap (at_ a 3) plainM], Runs i (at_ a 3) demo 0 someThread) ∧
    someBlock.allocAt (larEa (at_ 2 3) 0 someThread) = none ∧ someBlock.allocAt (larEa (at_ 3 3) 4090 someThread + 4 - 1) = none ∧
    ¬(someBlock.allocAt (larEa (at_ 3 3) 0 someThread) = none ∨ someBlock.allocAt (larEa (at_ 3 3) 0 someThread + 4 - 1) = none) ∧
    larEa (at_ 3 3) 0 someThread % 4 ≠ 0 ∧ someBlock.allocAt (someThread.rd (.reg 2) 32) = none ∧
    someBlock.allocAt (someThread.rd (.reg 4) 32) = some alloc ∧ alloc.base ≠ someThread.rd (.reg 4) 32 := by
  refine ⟨rfl, demo_fresh _ _, ?_, by decide, by decide, by decide, by decide, by decide, by decide, by decide⟩
  intro a ha
  simp only [List.mem_cons, List.not_mem_nil, or_false] at ha
  rcases ha with rfl | rfl | rfl <;> exact runs_of_runsNow ⟨rfl, rfl⟩ (by decide)

/-- States and operands that meet the hypotheses of `LarderWaits`. -/
theorem witness_LarderWaits :
    (∀ i ∈ [Instr.ldl (at_ 4 3) plainM .take, .stl (at_ 4 3) plainM .plain], Runs i (at_ 4 3) demo 0 someThread) ∧
    demo.issuing = some ⟨0, [0], 8, [0x3C, 0, 0]⟩ ∧ demo.blockOf 0 = some someBlock ∧ someBlock.addrTrap 128 4 = none ∧
    larEa (at_ 4 3) 0 someThread = 128 ∧ someBlock.allocAt 128 = some alloc ∧ alloc.stash = none ∧
    (demo.line (alloc.lineAt 0 128)).full = false ∧ someThread.priv = false ∧ LdlMode.take ≠ .any :=
  ⟨runs_of_runsNow ⟨rfl, rfl⟩ (by decide), rfl, rfl, rfl, rfl, rfl, rfl, rfl, rfl, by decide⟩

/-- States and operands that meet the hypotheses of `LarderLoadsAndStores`. -/
theorem witness_LarderLoadsAndStores :
    (∀ a ∈ [0, 4], ∀ i ∈ [Instr.ldl (at_ a 3) plainM .plain, .ldl (at_ a 3) plainM .take, .ldl (at_ a 3) plainM .any,
      .stl (at_ a 3) plainM .plain, .stl (at_ a 3) plainM .any, .stl (at_ a 3) plainM .fill], Runs i (at_ a 3) (filled someBlock) 0 someThread) ∧
    (∀ r ∈ (filled someBlock).records, some r.2.cycle ≠ (filled someBlock).issuing.map Issue.cycle) ∧
    (filled someBlock).blockOf 0 = some someBlock ∧
    someBlock.addrTrap (larEa (at_ 0 3) 4092 someThread) 4 = none ∧ someBlock.allocAt (larEa (at_ 0 3) 4092 someThread) = some alloc ∧
    ((filled someBlock).line (alloc.lineAt 0 0)).full = true ∧ (filled someBlock).isStale 0 (alloc.lineAt 0 0) alloc = false ∧
    (filled someBlock).larBad (alloc.lineAt 0 0 * 128) 4 = false ∧
    ((filled someBlock).line (alloc.lineAt 0 128)).full = true ∧ (filled someBlock).isStale 0 (alloc.lineAt 0 128) alloc = true := by
  refine ⟨?_, by decide, rfl, by decide +kernel⟩
  intro a ha
  simp only [List.mem_cons, List.not_mem_nil, or_false] at ha
  rcases ha with rfl | rfl <;> exact runs_of_runsNow ⟨rfl, rfl⟩ (by decide)

/-- States and operands that meet the hypotheses of `LarderAllocations`. -/
theorem witness_LarderAllocations :
    (∀ i ∈ [Instr.lalloc (at_ 4 18) plainM false, .lalloc (at_ 4 0) plainM true, .lalloc (at_ 4 2) plainM true],
      ∃ h, i.head = some h ∧ Runs i h demo 0 someThread) ∧ demo.blockOf 0 = some someBlock ∧
    someThread.rdB (.src (.reg 0)) 32 = 0 ∧ 512 < someThread.rdB (.src (.reg 2)) 32 ∧ 1 ≤ someThread.rdB (.src (.reg 18)) 32 ∧
    someThread.rdB (.src (.reg 18)) 32 ≤ 512 ∧ someThread.rdB (.src (.reg 18)) 32 ≤ (demo.freePhys 0).length ∧
    someBlock.freeWindow (someThread.rdB (.src (.reg 18)) 32) = some 1 := by
  exact ⟨runs_of_runsOwn ⟨rfl, rfl⟩ (by decide), rfl, by decide +kernel⟩

/-- States and operands that meet the hypotheses of `LarderFreesTagsStates`. -/
theorem witness_LarderFreesTagsStates :
    (∀ i ∈ [Instr.lfree (at_ 0 3) plainM, .luseby (at_ 0 18) plainM false, .luseby (at_ 0 2) plainM false, .lstateLine (at_ 0 3) plainM,
      .lstateAlloc (at_ 0 3) plainM, .lstateRet (at_ 0 3) plainM, .lstateFree (at_ 0 3) plainM],
      ∃ h, i.head = some h ∧ Runs i h demo 0 someThread) ∧
    demo.blockOf 0 = some someBlock ∧ someBlock.allocAt (someThread.rd (.reg 0) 32) = some alloc ∧ alloc.base = someThread.rd (.reg 0) 32 ∧
    liveTag demo.now alloc.tag = true ∧ liveTag demo.now (someThread.rdB (.src (.reg 18)) 64 % 2 ^ 40) = true ∧
    liveTag demo.now (2 ^ 39) = false ∧ liveTag demo.now (2 ^ 39 - 1) = true ∧ demo.blocks.look 1 = some someBlock ∧
    demo.inFlight 1 alloc.base alloc.size = [] ∧ (∀ p ∈ alloc.lines 0, (demo.line p.2).dirty = false) :=
  ⟨runs_of_runsOwn ⟨rfl, rfl⟩ (by decide), rfl, rfl, by decide +kernel⟩

/-- States and operands that meet the hypotheses of `LarderRanges`. -/
theorem witness_LarderRanges :
    (∀ b ∈ [0, 2, 4, 8], ∀ i ∈ [Instr.lrenew (at_ 4 b) plainM, .setempty (at_ 4 b) plainM, .setfull (at_ 4 b) plainM,
      .sflush (at_ 4 b) plainM false], Runs i (at_ 4 b) demo 0 someThread) ∧
    (∀ i ∈ [Instr.lrenew (at_ 3 0) plainM, .lrenew (at_ 3 3) plainM], ∃ h, i.head = some h ∧ Runs i h demo 0 someThread) ∧
    someThread.rdB (.src (.reg 0)) 32 = 0 ∧ larEa (at_ 3 0) 0 someThread % 128 ≠ 0 ∧
    someBlock.allocAt (larEa (at_ 2 3) 0 someThread) = none ∧ someBlock.allocAt (larEa (at_ 4 3) 0 someThread) = some alloc ∧
    alloc.base + alloc.size < larEa (at_ 4 3) 0 someThread + someThread.rdB (.src (.reg 2)) 32 ∧
    larEa (at_ 4 3) 0 someThread + someThread.rdB (.src (.reg 8)) 32 ≤ alloc.base + alloc.size ∧
    someThread.rdB (.src (.reg 8)) 32 % 128 ≠ 0 ∧ larEa (at_ 4 3) 0 someThread % 128 = 0 ∧
    larEa (at_ 4 3) 3840 someThread + someThread.rdB (.src (.reg 4)) 32 = alloc.base + alloc.size ∧
    someThread.rdB (.src (.reg 4)) 32 % 128 = 0 ∧ alloc.stash = none := by
  refine ⟨?_, runs_of_runsOwn ⟨rfl, rfl⟩ (by decide), by decide⟩
  intro b hb
  simp only [List.mem_cons, List.not_mem_nil, or_false] at hb
  rcases hb with rfl | rfl | rfl | rfl <;> exact runs_of_runsNow ⟨rfl, rfl⟩ (by decide)

/-- The block's allocation as a stash of the page, and that with a dirty first line whose page no translation gives. -/
def stashing (dirty : Bool) : State :=
  { lone someThread { someBlock with allocs := [stashed] } with lines := [(0, { Line.reset with full := true, present := true, dirty := dirty })] }

/-- States and operands that meet the hypotheses of `StashMaps`. -/
theorem witness_StashMaps :
    (∀ i ∈ [Instr.smap (at_ 0 4) plainM], Runs i (at_ 0 4) demo 0 someThread) ∧ demo.blockOf 0 = some someBlock ∧
    (∀ d ∈ [false, true], ∀ i ∈ [Instr.sunmap (at_ 0 4) plainM, .sflush (at_ 0 4) plainM d], Runs i (at_ 0 4) (stashing d) 0 someThread) ∧
    (someBlock.allocAt 0 = some alloc ∧ alloc.base = someThread.rd (.reg 0) 32 ∧ someThread.rdB (.src (.reg 4)) 64 = 128 ∧
     128 / 2 ^ 30 = (128 + alloc.size - 1) / 2 ^ 30 ∧ ({ someBlock with allocs := [stashed] } : Block).allocAt 0 = some stashed ∧
     larEa (at_ 0 4) 0 someThread + 128 ≤ stashed.base + stashed.size ∧
     (let u (d : Bool) : State := (stashing d).flushSome ((stashing d).dirtyAmong ((stashed.lines 0).map fun p => (p.2, 1, 0, stashed.global p.1)))
      (∃ p ∈ stashed.lines 0, ((u true).line p.2).dirty = true) ∧ ∀ p ∈ stashed.lines 0, ((u false).line p.2).dirty = false)) := by
  refine ⟨runs_of_runsNow ⟨rfl, rfl⟩ (by decide), rfl, ?_, by decide +kernel⟩
  intro d hd
  simp only [List.mem_cons, List.not_mem_nil, or_false] at hd
  rcases hd with rfl | rfl <;> exact runs_of_runsNow ⟨rfl, rfl⟩ (by decide)

/-! #### Barriers, the Harness and signals -/

/-- A state with a barrier object at window address 64 of the block. -/
def withObj (o : Obj) (t : Thread) : State := { lone t someBlock with larder := putBytes [] 64 (toBytes 16 o.bits) }

/-- A head whose address is v16, 64, and whose B is v`b`. -/
def onBarrier (b : Nat) : Head := { ext with a := .reg 16, b := .src (.reg b) }

/-- The states of the objects: none yet, one that counts arrivals with three still due, one that counts bytes, one of a reserved kind. -/
def arrivals : Obj := ⟨0, 0, 5, 3, 0⟩
def byteCount : Obj := ⟨0, 1, 5, 2 ^ 32 - 4, 0⟩

/-- States and operands that meet the hypotheses of `BarrierObjects`. -/
theorem witness_BarrierObjects :
    (∀ o ∈ [Obj.of 0, arrivals, byteCount, ⟨1, 2, 0, 1, 0⟩], (withObj o someThread).objTrap someBlock 64 = none ∧
      (withObj o someThread).objAt someBlock 64 = o ∧ larEa (onBarrier 3) 0 someThread = 64 ∧ (withObj o someThread).blockOf 0 = some someBlock ∧
      (withObj o someThread).issuing = some ⟨0, [0], 8, [0x3C, 0, 0]⟩ ∧
      (∀ i ∈ [Instr.binit (onBarrier 3) 0 true, .barr (onBarrier 3) 0, .bwait (onBarrier 3) 0 24, .barrw (onBarrier 3) 0 24,
        .bbytes (onBarrier 3) 0 false, .bbytes (onBarrier 3) 0 true], Runs i (onBarrier 3) (withObj o someThread) 0 someThread)) := by
  intro o ho
  simp only [List.mem_cons, List.not_mem_nil, or_false] at ho
  rcases ho with rfl | rfl | rfl | rfl <;>
    exact ⟨by decide, by decide, by decide, rfl, rfl, runs_of_runsNow ⟨rfl, rfl⟩ (by decide)⟩

/-- The conditions of each clause, for those objects and for B 3, 5, 1 and 0. -/
theorem witness_BarrierObjects_clauses :
    (∀ r ∈ (withObj arrivals someThread).records, some r.2.cycle ≠ (withObj arrivals someThread).issuing.map Issue.cycle) ∧
    someThread.rdB (.src (.reg 3)) 32 ≠ 0 ∧ (Obj.of 0).waiters = 0 ∧ someThread.rdB (.src (.reg 0)) 32 = 0 ∧ (⟨1, 2, 0, 1, 0⟩ : Obj).waiters ≠ 0 ∧
    arrivals.expect ≠ 0 ∧ arrivals.kind = 0 ∧
    arrivals.gen = someThread.rdB (.src (.reg 18)) 32 % 2 ^ 30 ∧ arrivals.gen ≠ someThread.rdB (.src (.reg 3)) 32 % 2 ^ 30 ∧
    arrivals.gen ≠ (arrivals.gen + (arrivals.arrived + 3) / arrivals.expect) % 2 ^ 30 ∧ arrivals.arrived + 1 < arrivals.expect ∧
    byteCount.kind = 1 ∧ byteCount.expect + 3 < 2 ^ 32 ∧ 2 ^ 32 ≤ byteCount.expect + 5 ∧ (Obj.of 0).expect = 0 ∧ 1 < (⟨1, 2, 0, 1, 0⟩ : Obj).kind := by
  decide

/-- States and operands that meet the hypotheses of `BarrierAddressTraps`. -/
theorem witness_BarrierAddressTraps :
    (∀ a ∈ [2, 3, 16], ∀ i ∈ [Instr.binit (at_ a 3) 0 false, .barr (at_ a 3) 0, .bwait (at_ a 3) 0 0, .barrw (at_ a 3) 0 0,
      .bbytes (at_ a 3) 0 false], Runs i (at_ a 3) demo 0 someThread) ∧
    someBlock.allocAt (larEa (at_ 2 3) 0 someThread) = none ∧ someBlock.allocAt (larEa (at_ 16 3) 4020 someThread + 15) = none ∧
    someBlock.allocAt (larEa (at_ 3 3) 0 someThread) = some alloc ∧ someBlock.allocAt (larEa (at_ 3 3) 0 someThread + 15) = some alloc ∧
    larEa (at_ 3 3) 0 someThread % 16 ≠ 0 ∧ larEa (at_ 16 3) 0 someThread % 16 = 0 ∧ stashed.stash ≠ none ∧ alloc.stash = none ∧
    (filled someBlock).isStale 0 (alloc.lineAt 0 128) alloc = true := by
  refine ⟨?_, by decide⟩
  intro a ha
  simp only [List.mem_cons, List.not_mem_nil, or_false] at ha
  rcases ha with rfl | rfl | rfl <;> exact runs_of_runsNow ⟨rfl, rfl⟩ (by decide)

/-- A group of one member, of quota 2, with three arrivals. -/
def harness : HGroup := ⟨4, [⟨0, 1, 2, 4, 3, none⟩]⟩

/-- States and operands that meet the hypotheses of `HarnessGenerations`. -/
theorem witness_HarnessGenerations :
    harness.member 0 7 = none ∧ harness.members.length < 65536 ∧ (1048576 : Nat) ≤ 1048576 ∧ harness.member 0 1 ≠ none ∧
    harness.member 0 1 = some ⟨0, 1, 2, 4, 3, none⟩ ∧ (4 : Nat) ≤ harness.completed ∧ (∀ m ∈ harness.members, 1 ≤ m.quota) ∧
    (⟨5, [⟨0, 1, 2, 4, 3, none⟩]⟩ : HGroup).canComplete = false ∧ genLe 4 harness.completed = true ∧
    (∀ m ∈ harness.members, m.last = none ∧ genDist m.first harness.completed + m.lead harness.completed < 2 ^ 31) := by
  decide

/-- A message of one flit from a package. -/
def messageFlit (cls pkg : Nat) (bs : List Byte) : Flit :=
  { seq := 1, ack := 0, kind := 0, nreason := 0, cls := cls, plen := bs.length, dpkg := 0, spkg := pkg, first := true, last := true
    mtag := 0, payload := bs }

/-- A state in which the block is a member of group 5 of its context. -/
def member : State := { demo with contexts := [(0, { Context.blank with harness := [(5, harness)] })] }

/-- States and operands that meet the hypotheses of `HarnessMembership`. -/
theorem witness_HarnessMembership :
    (∀ i ∈ [Instr.hjoin (at_ 0 3) 5, .hleave (at_ 0 3) 5, .harr (at_ 0 3) 5, .harr (at_ 0 3) 255, .hwait (at_ 0 3) 5 0,
      .hwait (at_ 0 18) 5 247], ∃ h, i.head = some h ∧ Runs i h member 0 someThread) ∧ member.blockOf 0 = some someBlock ∧
    FreshCycle demo ∧ (someThread.rd (.reg 0) 32 + 5) % 256 = 5 ∧ (member.hgroup 0 255).member member.pkg someBlock.handle = none ∧
    (member.hgroup 0 5).member member.pkg someBlock.handle = some ⟨0, 1, 2, 4, 3, none⟩ ∧ member.isHome 0 = true ∧
    tokenDone (member.hgroup 0 5).completed (someThread.rdB (.src (.reg 3)) 32) = true ∧
    tokenDone (member.hgroup 0 5).completed (someThread.rdB (.src (.reg 18)) 32) = false ∧
    ((member.hgroup 0 5).join 3 9 2).1 = some 5 ∧
    (let away : State := { member with contexts := [(0, { Context.blank with harness := [(5, harness)], home := 3 })] }
     away.isHome 0 = false) ∧
    (let s : State := { member with received := [messageFlit 5 3 [1#8]] }
     ((s.takeMessage 5 3).map fun u => u.isHome 0 && ((u.hgroup 0 5).member 0 1).isSome) = some true ∧ (s.takeMessage 5 4).isNone = true) := by
  exact ⟨runs_of_runsOwn ⟨rfl, rfl⟩ (by decide), rfl, demo_fresh _ _, by decide +kernel⟩

/-- The name of the object at 64 of the block with handle 1 of package 0, and of package 3. -/
def signalName (pkg : Nat) : Nat := pkg * 2 ^ 54 + 1 * 2 ^ 22 + 64
def signalling (pkg : Nat) : Thread :=
  { someThread with regs := [(30, BitVec.ofNat 32 (signalName pkg)), (31, BitVec.ofNat 32 (signalName pkg / 2 ^ 32))] }

/-- States and operands that meet the hypotheses of `Signals`. -/
theorem witness_Signals :
    (∀ p ∈ [0, 3], Runs (.hsig (at_ 30 3) false) (at_ 30 3) { lone (signalling p) someBlock with domain := [0, 3] } 0 (signalling p)) ∧
    (∀ i ∈ [Instr.hsig (at_ 2 3) false], Runs i (at_ 2 3) demo 0 someThread) ∧
    (demo.badName (someThread.rd (.reg 2) 64) = true ∧ ({ demo with domain := [0, 3] } : State).badName ((signalling 3).rd (.reg 30) 64) = false ∧
     demo.badName ((signalling 0).rd (.reg 30) 64) = false ∧ (signalling 0).rd (.reg 30) 64 / 2 ^ 54 % 2 ^ 10 = demo.pkg ∧
     (signalling 3).rd (.reg 30) 64 / 2 ^ 54 % 2 ^ 10 ≠ demo.pkg) ∧
    (demo.takeAny 5).isNone = true ∧
    (let s : State := { withObj arrivals someThread with received := [messageFlit 5 3 [1#8]] }
     let mine (n : Nat) (b : Nat × Block) : Bool := b.2.asid = 0 && b.2.handle = n && n ≠ 0
     let there (v : State) : Bool := (v.ctx? 5).isNone && (v.ctx? 0).isSome && v.blocks.filter (mine 1) = [(1, someBlock)] &&
       v.blocks.filter (mine 7) = [] && !(v.notResident someBlock) && v.blocks.look 1 = some someBlock && v.objTrap someBlock 64 = none &&
       (v.objAt someBlock 64).arrivalTrap 0 = none && signalName 0 / 2 ^ 22 % 2 ^ 32 = 1 && signalName 0 / 2 ^ 4 % 2 ^ 17 * 16 = 64
     (s.takeAny 5).map there = some true) ∧
    demo.notResident { someBlock with state := .saved 0 } = true ∧
    (({ demo with cores := [(3, { Core.reset with gated := true })] } : State).core 3).gated = true ∧ (demo.core 3).gated = false := by
  refine ⟨?_, runs_of_runsNow ⟨rfl, rfl⟩ (by decide), by decide +kernel⟩
  intro p hp
  simp only [List.mem_cons, List.not_mem_nil, or_false] at hp
  rcases hp with rfl | rfl <;> exact ⟨⟨rfl, rfl⟩, rfl, rfl, fun _ => rfl, rfl⟩

/-! #### Global memory and engines -/

/-- An access of the thread to those four bytes, with B 3. -/
def accessing (op : GOp) : GAccess := ⟨op, 0x110040, 4, 3, 0, false, false, 0⟩
def issued (op : GOp) (p : Piece) : Pending := ⟨9, .thread 1 0, 0, 0, 1, 0, accessing op, [p], none, 8⟩

/-- What every access of `paged .n32` needs, for the kinds of access, and that a miss-status table almost full still has room. -/
theorem witness_GlobalAccesses :
    (∀ i ∈ [Instr.ldg (paged .n32 0) plainM, .ldc (paged .n32 0) plainM, .stg (paged .n32 0) plainM, .stg (paged .n32 0) { plainM with ord := .release },
      .atom (paged .n32 0) plainM (.red .add), .red (paged .n32 0) plainM .add, .fence (paged .n32 0), .pref (paged .n32 0) plainM false],
      Runs i (paged .n32 0) (mapped someThread) 0 someThread) ∧
    ((someThread.rd (.reg 6) 64 + plainM.ofs) % 2 ^ 64).toNat = 0x110040 ∧ 0x110040 + 4 ≤ 2 ^ 52 ∧ 0x110040 % 4 = 0 ∧ 0x110040 % 32 + 4 ≤ 32 ∧
    piecesOf 0x110040 4 = [(0x110040, 0, 4)] ∧ (mapped someThread).tlbHas 0 0 [(0x110040, 0, 4)] = true ∧
    (∀ a ∈ [Access.load, .store, .atomic], (mapped someThread).translate 0 0 a [(0x110040, 0, 4)] = .all [piece]) ∧
    straddles [piece] = false ∧ ((mapped someThread).misses.filter fun e => e.core = 0) = [] ∧
    (let full : State := { mapped someThread with misses := List.replicate 255 ⟨0, 7, true, 3, []⟩ }
     (full.misses.filter fun e => e.core = 0).length + (full.missNeed 0 [(0, accessing (.load .n32))]).length = 256) ∧
    (let s := mapped someThread
     (∀ op ∈ [GOp.load .n32, .store, .atom .exch .n32, .red .add .n32], s.blocked (issued op piece) = false ∧ s.spaceOf piece.leaf < 2 ∧
       (issued op piece).reply = none) ∧ s.stashHeld 1 = false ∧ (s.tryTouch [piece]).isSome = true ∧
     (s.tryPieces (issued .store piece) 3).isSome = true ∧ (atomCombine .exch .n32 5 3 0).1 = some 3 ∧ (atomCombine .cas .n32 5 3 0).1 = none ∧
     piece.leaf.scope = 2 ∧ piece.leaf.tier ≤ 1 ∧ piece.leaf.pdom = 0 ∧ (s.tryRedPartial (issued (.red .add .n32) piece) .add .n32 0x30040).isSome = true ∧
     (let p : Piece := { piece with leaf := { page with entry := 2 ^ 61 + 0x30033 } }
      p.leaf.scope ≠ 2 ∧ ((s.tryTouch [p]).bind fun w => w.tryPieces (issued (.red .add .n32) p) 8).isSome = true)) := by
  refine ⟨runs_of_runsNow ⟨rfl, rfl⟩ (by decide), by decide, by decide, by decide, by decide, by decide, by decide, ?_, by decide +kernel⟩
  intro a ha
  simp only [List.mem_cons, List.not_mem_nil, or_false] at ha
  rcases ha with rfl | rfl | rfl <;> rfl

/-- States and operands that meet the hypotheses of `StoresReachMemory`. -/
theorem witness_StoresReachMemory :
    page.tier ≤ 1 ∧ page.pdom = 0 ∧ (mapped someThread).captures = [] ∧ (mapped someThread).partials = [] ∧
    (∀ b ∈ (mapped someThread).blocks, ∀ a ∈ b.2.allocs, a.stash = none) ∧ Memory.wf (mapped someThread).memory ∧
    (mapped someThread).freed = [] ∧ (mapped someThread).ops = [] ∧ (mapped someThread).peers = [] ∧ (mapped someThread).walks = [] ∧
    (mapped someThread).selfRefresh = [] ∧ (mapped someThread).regs.hbmcfgNext = none := by
  decide

/-- The page and the next one, whose translations core 0 holds: the next one in the storage-class tier, or without leave to write. -/
def nextTo (entry : Nat) : State :=
  { mapped someThread with
    cores := [(0, { Core.reset with tlb := [⟨0, 3, 0x110000, 0x10000, 2 ^ 62 + 0x30033⟩, ⟨0, 3, 0x120000, 0x10000, entry⟩] })] }

/-- An access of the last four bytes, of an address that is not aligned, of a page that is not mapped, across two tiers, and of a page
that may not be written. -/
theorem witness_GlobalTrapsAndWalks :
    (∀ i ∈ [Instr.ldg (at_ 2 3) plainM, .stg (at_ 2 3) plainM, .atom (at_ 8 3) plainM (.red .add), .red (at_ 8 3) plainM .add],
      ∃ h, i.head = some h ∧ Runs i h (mapped someThread) 0 someThread) ∧
    (gAccessOf (.ldg (at_ 2 3) plainM) (2 ^ 52 - 3) 0 0).map gTrap = some (some 0x01) ∧
    (gAccessOf (.atom (at_ 8 3) plainM (.red .add)) 1 0 0).map gTrap = some (some 0x02) ∧
    (gAccessOf (.ldg (at_ 8 3) plainM) 1 0 0).map gTrap = some none ∧ (mapped someThread).misses = [] ∧
    2 ^ 52 < 2 ^ 52 - 3 + 4 ∧ (mapped someThread).tlbHas 0 0 (piecesOf 1 4) = false ∧ 1 / 2 ^ 30 = (1 + 4 - 1) / 2 ^ 30 ∧
    (let s := nextTo (2 ^ 62 + 2 ^ 59 + 0x30033)
     s.tlbHas 0 0 (piecesOf 0x11FFFE 4) = true ∧ (match s.translate 0 0 .load (piecesOf 0x11FFFE 4) with
      | .all ps => straddles ps
      | .fault .. => false) = true) ∧
    (let s := nextTo (2 ^ 62 + 0x30013)
     s.tlbHas 0 0 (piecesOf 0x120000 4) = true ∧ s.translate 0 0 .store (piecesOf 0x120000 4) =
       .fault 0x120000 0x02 3 (2 ^ 62 + 0x30013) 0x120000 0x10000) ∧
    (mapped someThread).canReport 0 = true ∧ ({ demo with heldReports := List.replicate 1024 ⟨0, 0⟩ } : State).canReport 0 = false :=
  ⟨runs_of_runsOwn ⟨rfl, rfl⟩ (by decide), by decide +kernel⟩

/-- A walk for the access of a load to 0x110040, and to 0x120000, which no page maps. -/
def walking (va : Nat) : Walk :=
  ⟨0, { issued (.load .b32) piece with no := 5, wid := 7, acc := { accessing (.load .b32) with va := va }, pieces := [] },
    ⟨[0x00002A42, 2, 0], va, 0, 0, 12, 0, [], false⟩, 0⟩

/-- The state in which that walk is under way. -/
def walks (va : Nat) : State :=
  { mapped { someThread with walk := some 5 } with walks := [walking va] }

/-- States and operands that meet the hypotheses of `WalksEnd`. -/
theorem witness_WalksEnd :
    (demo.walks.find? fun x => x.x.no = 5) = none ∧
    (∀ va ∈ [0x110040, 0x120000], ((walks va).walks.find? fun x => x.x.no = 5) = some (walking va) ∧
      (walks va).walks.filter (fun x => (walks va).sharesWalk x (walking va)) = [walking va] ∧ (walking va).ticket = 0 ∧
      (walks va).walkRuns (walking va) = true ∧ (walks va).canReport 0 = true ∧
      ({ walks va with serial := (walks va).serial + 1 } : State).walksFor (walking va) = true) ∧
    ({ walks 0x110040 with heldReports := List.replicate 1024 ⟨0, 0⟩ } : State).canReport 0 = false ∧
    (match ({ walks 0x110040 with serial := 10 } : State).walkPieces (walking 0x110040) with
      | .all ps => !(straddles ps)
      | .fault .. => false) = true ∧
    (match ({ walks 0x120000 with serial := 10 } : State).walkPieces (walking 0x120000) with
      | .all _ => false
      | .fault .. => true) = true := by
  decide +kernel

set_option exponentiation.threshold 600

/-- A copy request of one byte from 0x110000 to 0x110040, at window address 64. -/
def copyRequest : Nat := 3 * 2 ^ 472 + 2 ^ 320 + 2 ^ 336 + 2 ^ 352 + 0x110040 * 2 ^ 64 + 0x110000

/-- A state whose larder holds `v` at window address 64, and whose context has a queue, a publish set that is open, and regions at
the page: queue 0 of 4 entries at 0x110400, set 0, and region 0 with SNAP. -/
def served (v : Nat) : State :=
  { mapped someThread with
    larder := putBytes [] 64 (toBytes 64 v)
    contexts := [(0, { Context.blank with root := 0x10000, qbase := 0x110000, psbase := 0x110800, trbase := 0x111000
                                          graphs := [(1, ⟨[3 * 2 ^ 8], none⟩)] })]
    memory := putBytes (putBytes (putBytes (putBytes (putBytes State.reset.bringUp.memory 0x30108 (toBytes 8 0x110400)) 0x30118 (toBytes 8 2))
      0x30800 [4#8]) 0x31000 [3#8]) 0x31030 (toBytes 8 (2 ^ 64 - 1)) }

/-- Hypotheses of the statements on copies are met. -/
theorem witness_Copies :
    (∀ i ∈ [Instr.copy (onBarrier 0) 0 24], Runs i (onBarrier 0) (served copyRequest) 0 someThread) ∧
    (served copyRequest).blockOf 0 = some someBlock ∧
    (let s := served copyRequest
     s.issuing = some ⟨0, [0], 8, [0x3C, 0, 0]⟩ ∧ larEa (onBarrier 0) 0 someThread = 64 ∧ s.blockTrap someBlock 64 64 = none ∧
     s.engineLoad 0 < 64 ∧ (∀ a ∈ someBlock.allocs, a.stash = none) ∧ s.reqTrap 0 (s.blockBits someBlock 64 64) = none ∧
     (s.releaseStash 1).stashHeld 1 = false ∧ (served 0).reqTrap 0 ((served 0).blockBits someBlock 64 64) = some 0x01) ∧ FreshCycle demo ∧
    64 ≤ ({ demo with copies := List.replicate 64 ⟨1, 0, 0, 1, 1, 64, copyRequest, 0, none, 0, [], [], []⟩ } : State).engineLoad 0 :=
  ⟨runs_of_runsNow ⟨rfl, rfl⟩ (by decide), rfl, by decide +kernel, demo_fresh _ _, by decide +kernel⟩

/-- The thread names queue 0 of package 3 by v8. -/
def afar : Thread := { someThread with regs := [(8, BitVec.ofNat 32 (3 * 2 ^ 12)), (16, 64#32)] }

/-- The state in which its packet has been sent to package 3, and answered with index 5, or not. -/
def enqueuing (got : Option (List Byte)) : State :=
  { served copyRequest with
    threads := [(0, afar)], domain := [0, 3]
    peers := [⟨4, 3, 0, 1, 0, 64, ⟨0, 65536, 3, 0⟩, .packet (.thread 1 0), got, 0⟩] }

/-- Hypotheses of the statements on enq are met. -/
theorem witness_Enq :
    (∀ i ∈ [Instr.enq (onBarrier 0) 0 24], Runs i (onBarrier 0) (served copyRequest) 0 someThread) ∧
    (∀ i ∈ [Instr.enq (onBarrier 8) 0 24], Runs i (onBarrier 8) (enqueuing none) 0 afar) ∧
    (let s := served copyRequest
     let d : QDesc := ⟨0x110000, 0, 0, 0x110400, 0, 0, 0, 4⟩
     packetTrap (s.blockBits someBlock 64 64) = none ∧ selPkg (someThread.rdB (.src (.reg 0)) 32) = s.pkg ∧ s.qdesc 0 0 = some d ∧
     ((s.releaseStash 1).claimIndex 0 d).map (fun v => (v.signRequest 0 (toBytes 64 copyRequest)).slotFor 0 d d.widx) = some (some 0x110400)) ∧
    (let sel := afar.rdB (.src (.reg 8)) 32
     let q := (enqueuing (some (toBytes 8 5 ++ [1#8]))).packetOf (.thread 1 0)
     sel < 2 ^ 22 ∧ selPkg sel ≠ (enqueuing none).pkg ∧ (enqueuing none).domain.contains (selPkg sel) = true ∧
     ((enqueuing none).releaseStash 1).stashHeld 1 = false ∧ ((served copyRequest).packetOf (.thread 1 0)).isNone = true ∧
     (q.bind fun q => q.got.map fun bs => (bs.drop 8).map BitVec.toNat) = some [1]) :=
  ⟨runs_of_runsNow ⟨rfl, rfl⟩ (by decide), runs_of_runsNow ⟨rfl, rfl⟩ (by decide), by decide +kernel⟩

/-- A head of coll: identifier in B (v8 is 1), base table at 64. -/
def collecting (a b : Nat) : Head := { ext with a := .reg a, b := .src (.reg b) }

/-- Hypotheses of the statements on publish and collectives are met. -/
theorem witness_PublishAndCollectives :
    (∀ s ∈ [served 0], (∀ i ∈ [Instr.publish (collecting 0 0) 0, .publish (collecting 0 0) 63, .collDrop (collecting 0 0) 0,
      .collLoad (collecting 0 0) 0], Runs i (collecting 0 0) s 0 someThread) ∧
      (∀ i ∈ [Instr.collRun (collecting 16 8) 5, .collDrop (collecting 16 8) 5, .collLoad (collecting 16 8) 0], Runs i (collecting 16 8) s 0 someThread) ∧
      (∀ i ∈ [Instr.collDrop (collecting 16 4) 5], Runs i (collecting 16 4) s 0 someThread) ∧
      s.setOpen 0 ((someThread.rd (.reg 0) 32 + 0) % 64) = true ∧ s.setOpen 0 ((someThread.rd (.reg 0) 32 + 63) % 64) = false ∧
      s.blockTrap someBlock (someThread.rd (.reg 16) 32) 64 = none ∧ someThread.rdB (.src (.reg 8)) 32 = 1 ∧ (collecting 16 8).c = .reg 0 ∧
      s.graph? 0 0 = none ∧ s.graph? 0 1 = some ⟨[3 * 2 ^ 8], none⟩ ∧
      (s.runs.filter fun r => r.asid = 0).length < 64 ∧ 16 ≤ someThread.rdB (.src (.reg 4)) 32 ∧ s.runsOf 0 1 = []) ∧
    (let ctl := someThread.rdB (.src (.reg 8)) 32
     ctl / 2 ^ 13 % 2 ^ 3 = 0 ∧ ctl / 2 ^ 20 = 0 ∧ 1 ≤ ctl % 2 ^ 13 ∧ ctl % 2 ^ 13 ≤ 4096 ∧ someThread.rd (.reg 16) 64 + 32 * 1 ≤ 2 ^ 52 ∧
     someThread.rd (.reg 16) 64 % 32 = 0) ∧
    (let g : Graph := ⟨[3 * 2 ^ 8], some 7⟩
     ({ demo with contexts := [(0, { Context.blank with graphs := [(1, g)] })] } : State).graph? 0 1 = some g ∧ g.dropped ≠ none) ∧
    ({ demo with runs := [Run.fresh 9 0 1 0 1 0 1 5 7 none 0 0 [3 * 2 ^ 8]] } : State).runsOf 0 1 ≠ [] := by
  refine ⟨?_, by decide +kernel⟩
  intro s hs
  cases List.mem_singleton.mp hs
  exact ⟨runs_of_runsNow ⟨rfl, rfl⟩ (by decide), runs_of_runsNow ⟨rfl, rfl⟩ (by decide), runs_of_runsNow ⟨rfl, rfl⟩ (by decide), by decide +kernel⟩

/-- A repartition descriptor for a group of one rank. -/
def descriptor : Nat := 2 ^ 496

/-- Hypotheses of the statements on repart are met. -/
theorem witness_Repart :
    (∀ i ∈ [Instr.repart (onBarrier 0)], Runs i (onBarrier 0) (served 1) 0 someThread) ∧ (served 1).blockTrap someBlock 64 64 = none ∧
    repartTrap ((served 1).blockBits someBlock 64 64) = some 0x02 := by
  exact ⟨runs_of_runsNow ⟨rfl, rfl⟩ (by decide), by decide +kernel⟩

/-! #### Persistence -/

/-- States and operands that meet the hypotheses of `PersistInstructions`. -/
theorem witness_PersistInstructions :
    (∀ b ∈ [0, 8, 2], ∀ i ∈ [Instr.pfenceDie (at_ 6 b), .pfencePkg (at_ 6 b), .steptag (at_ 6 b), .snapStat (at_ 6 b), .snapGo (at_ 6 b),
      .snapAbort (at_ 6 b), .digest (at_ 6 b)], Runs i (at_ 6 b) (served 0) 0 someThread) ∧
    2 ^ 16 ≤ someThread.rdB (.src (.reg 2)) 32 ∧ someThread.rdB (.src (.reg 8)) 32 < 2 ^ 16 ∧
    (∀ r ∈ (List.range 16).filter (fun r => (someThread.rdB (.src (.reg 8)) 32).testBit r), regV ((served 0).regionEntry 0 r) = true) ∧
    regV ((served 0).regionEntry 0 1) = false ∧ regSnap ((served 0).regionEntry 0 0) = true ∧ regCapt ((served 0).regionEntry 0 0) = 2 ^ 64 - 1 ∧
    (served 0).captureOf 0 0 = none ∧
    (({ served 0 with captures := [⟨0, 0, 5, 0, [], [], [], false, 0, 0⟩] } : State).captureOf 0 0).isSome = true ∧
    someThread.rdB (.src (.reg 0)) 32 < 16 ∧ 16 ≤ someThread.rdB (.src (.reg 2)) 32 ∧
    (2 ^ 52 : Nat) < someThread.rd (.reg 2) 64 + someThread.rdB (.src (.reg 2)) 32 + 2 ^ 52 ∧
    someThread.rd (.reg 6) 64 + someThread.rdB (.src (.reg 8)) 32 ≤ 2 ^ 52 ∧ someThread.rd (.reg 6) 64 < 2 ^ 52 ∧
    someThread.rd (at_ 6 8).c 64 < 2 ^ 52 ∧ someThread.rd (at_ 6 8).c 64 % 32 = 0 ∧ (served 0).digests.length < 256 := by
  refine ⟨?_, by decide +kernel⟩
  intro b hb
  simp only [List.mem_cons, List.not_mem_nil, or_false] at hb
  rcases hb with rfl | rfl | rfl <;> exact runs_of_runsNow ⟨rfl, rfl⟩ (by decide)

/-- Hypotheses of the statements on repart accepted are met. -/
theorem witness_RepartAccepted :
    repartTrap (2 ^ 48) = none ∧ (∀ i ∈ [Instr.repart (onBarrier 0)], Runs i (onBarrier 0) (served (2 ^ 48)) 0 someThread) ∧
    (served (2 ^ 48)).blockTrap someBlock 64 64 = none ∧ (served (2 ^ 48)).blockBits someBlock 64 64 = 2 ^ 48 :=
  ⟨by decide, runs_of_runsNow ⟨rfl, rfl⟩ (by decide), by decide +kernel⟩

/-! #### Matrix arrays -/

/-- A parameter block of one dense step of s8 with s8, into tile 0 from offset 0 of the bank, with its rows at 4096 and its object at 128. -/
def params : Nat := Ty.s8.code + Ty.s8.code * 2 ^ 8 + 2 ^ 144 + 128 * 2 ^ 160 + 4096 * 2 ^ 192

/-- A scale block of tile 0 that scales nothing, with its object at 128. -/
def scales : Nat := 128 * 2 ^ 160

/-- A block with seven units of the larder. -/
def wideBlock : Block := { Block.blank with allocs := [⟨0, 0, false, none, [0, 1, 2, 3, 4, 5, 6]⟩] }

/-- A thread with the words of matrix instructions: v30 64, v31 128, v32 claims tile 0 and unit 0, v33 claims tile 1, v34 reads past the
tiles, v35 reads tile 1, v36 names three units at the end of the bank, v37 is mmst.bank's control word of one step. -/
def feeding : Thread :=
  { someThread with regs := [(30, 64#32), (31, 128#32), (32, 0x10001#32), (33, 2#32), (34, 0x8000#32), (35, 0x4000#32), (36, 0x30E00#32), (37, 0x10000#32)] }

/-- The state in which the block holds tile 0 and unit 0 of core 0's bank, with `v` at window address 64 and an object at 128. -/
def armed (v : Nat) (ops : List MatOp) : State :=
  { lone feeding wideBlock with
    larder := putBytes (putBytes [] 64 (toBytes 64 v)) 128 (toBytes 16 (⟨0, 0, 5, 1, 0⟩ : Obj).bits)
    cores := [(0, { Core.reset with claims := [(0, 1), (2, 1)] })], queuesMat := if ops = [] then [] else [(0, ops)] }

/-- An accepted operation. -/
def operation (op blk : Nat) : MatOp := ⟨5, 0, 1, 1, op, 0, blk, 64, 128, 5, 0, false, false, 0, 0⟩

/-- A head of a matrix instruction with A v`a`, B v`b` and C v`c`. -/
def matrix (a b c : Nat) : Head := { ext with a := .reg a, b := .src (.reg b), c := .reg c }

/-- States and operands that meet the hypotheses of `MatrixInstructions`. -/
theorem witness_MatrixInstructions :
    (∀ i ∈ [Instr.mma (matrix 30 0 0) 0], Runs i (matrix 30 0 0) (armed params []) 0 feeding) ∧
    (∀ i ∈ [Instr.mmscl (matrix 30 0 0) 0], Runs i (matrix 30 0 0) (armed scales []) 0 feeding) ∧
    (∀ i ∈ [Instr.mmstBank (matrix 0 37 31)], Runs i (matrix 0 37 31) (armed params []) 0 feeding) ∧
    (∀ i ∈ [Instr.mmstAcc (matrix 0 0 31)], Runs i (matrix 0 0 31) (armed params []) 0 feeding) ∧
    (let s := armed params []
     s.blockTrap wideBlock 64 64 = none ∧ s.pbTrap wideBlock 1 params = none ∧ s.blockBits wideBlock 64 64 = params ∧
     (armed (params + 2 ^ 32) []).pbTrap wideBlock 1 (params + 2 ^ 32) = some 0x05 ∧
     (armed scales []).sbTrap wideBlock 1 scales = none ∧ (armed (scales + 1) []).sbTrap wideBlock 1 (scales + 1) = some 0x01 ∧
     s.arrayQueue 0 = [] ∧ (∀ a ∈ wideBlock.allocs, a.stash = none) ∧ (s.releaseStash 1).stashHeld 1 = false ∧
     8 ≤ ((armed params (List.replicate 8 (operation 0xB0 params))).arrayQueue 0).length ∧
     s.mmstTrap wideBlock 1 0 0x10000 0 128 = none ∧ s.mmstTrap wideBlock 1 0 0 0 128 = some 0x03 ∧
     s.mmstTrap wideBlock 1 1 0 0 128 = none ∧ s.mmstTrap wideBlock 1 1 1 0 128 = some 0x05) :=
  ⟨runs_of_runsNow ⟨rfl, rfl⟩ (by decide), runs_of_runsNow ⟨rfl, rfl⟩ (by decide), runs_of_runsNow ⟨rfl, rfl⟩ (by decide),
    runs_of_runsNow ⟨rfl, rfl⟩ (by decide), by decide +kernel⟩

/-- Hypotheses of the statements on matrix claims are met. -/
theorem witness_MatrixClaims :
    (∀ a ∈ [0, 8, 32, 33, 34, 35, 36], ∀ i ∈ [Instr.mmclrAcc (matrix a 0 0), .mmclrClaim (matrix a 0 0), .mmclrFree (matrix a 0 0),
      .mmrd (matrix a 0 0)], Runs i (matrix a 0 0) (armed params []) 0 feeding) ∧
    (∀ i ∈ [Instr.mmwait (matrix 31 3 0) 0 24, .mmwait (matrix 31 0 0) 0 0], ∃ h, i.head = some h ∧ Runs i h (armed params []) 0 feeding) ∧
    2 ≤ feeding.rd (.reg 33) 32 ∧ ((armed params []).core 0).claims.look 0 = some 1 ∧ ((armed params []).core 0).claims.look 1 ≠ some 1 ∧
    claimTrap 0x30E00 = some 0x07 ∧ claimTrap 0x10001 = none ∧ (∃ key ∈ claimKeys 0x10001, ((armed params []).core 0).claims.look key ≠ none) ∧
    claimTrap 2 = none ∧ (∀ key ∈ claimKeys 2, ((armed params []).core 0).claims.look key = none) ∧
    2 ^ 15 ≤ feeding.rd (.reg 34) 32 ∧ feeding.rd (.reg 35) 32 / 2 ^ 14 = 1 ∧ feeding.rd (.reg 0) 32 < 2 ^ 15 ∧
    (armed params []).objTrap wideBlock 128 = none ∧ ((armed params []).objAt wideBlock 128).expect ≠ 0 ∧
    ((armed params []).objAt wideBlock 128).gen ≠ feeding.rdB (.src (.reg 3)) 32 % 2 ^ 30 ∧
    ((armed params []).objAt wideBlock 128).gen = 5 % 2 ^ 30 := by
  refine ⟨?_, runs_of_runsOwn ⟨rfl, rfl⟩ (by decide), by decide +kernel⟩
  intro a ha
  simp only [List.mem_cons, List.not_mem_nil, or_false] at ha
  rcases ha with rfl | rfl | rfl | rfl | rfl | rfl | rfl <;> exact runs_of_runsNow ⟨rfl, rfl⟩ (by decide)

/-- States and operands that meet the hypotheses of `GrantsAreZero`. -/
theorem witness_GrantsAreZero :
    (191 : Nat) < 192 ∧ (17 : Nat) < 18 ∧ Map.wf 0 ([(0, 7), (383, 1)] : Map Nat) ∧ (1 : Nat) < 2 ∧ (127 : Nat) < 128 ∧ (4095 : Nat) < 4096 ∧
    (5, 1) ≠ ((191, 17) : Nat × Nat) ∧ (5, 65535 / 4096 + 2) ≠ ((191, 17) : Nat × Nat) := by
  decide

/-- The operation in the state the clauses of its life ask for. -/
def opAt (op : Nat) (started finished : Bool) : MatOp := { operation op params with started := started, finished := finished }

/-- States and operands that meet the hypotheses of `MatrixSteps`. -/
theorem witness_MatrixSteps :
    (∀ o ∈ [opAt 0xB0 false false, opAt 0xB4 false false, opAt 0xB0 true false, opAt 0xB0 true true],
      (armed params [o]).current 0 = some o ∧ (armed params [o]).blocks.look o.bid = some wideBlock ∧ (armed params [o]).arrayBad 0 = false ∧ o.steps = 0 ∧ o.fault = 0 ∧ (armed params [o]).canReport o.asid = true ∧
      (((armed params [o]).setArrayQueue 0 []).objArrive o.bid o.cpl 1 0).isSome = true) ∧
    wideBlock.core = 0 ∧ Map.wf 0 (armed params []).tileWords ∧ pbOvw (params + 2 ^ 33) = true ∧ pbSpar params = 0 ∧
    (∃ d, (armed params []).stepData wideBlock params 0 = .ok d) ∧
    (∃ e, (armed params []).stepData wideBlock (params + 2 ^ 212) 0 = .error e) := by
  have ok : (match (armed params []).stepData wideBlock params 0 with
    | .ok _ => true
    | .error _ => false) = true := by decide +kernel
  have bad : (match (armed params []).stepData wideBlock (params + 2 ^ 212) 0 with
    | .ok _ => true
    | .error _ => false) = false := by decide +kernel
  refine ⟨by decide +kernel, rfl, by decide, by decide +kernel, by decide +kernel, ?_, ?_⟩
  · split at ok
    · rename_i d h
      exact ⟨d, h⟩
    · cases ok
  · split at bad
    · cases bad
    · rename_i e h
      exact ⟨e, h⟩

/-! #### The platform -/

/-- A unit that was never used, one whose group is resident, and the bounds of what a test or a transfer names. -/
theorem witness_ErrorsAndLogs :
    (191 : Nat) < 192 ∧ (3 : Nat) < 4 ∧ (32 : Nat) < 33 ∧ ((turning 0xF5E0A880).unit 0).fenced = false ∧ 32 ∉ (turning 0xF5E0A880).failedLanes 0 ∧
    ((turning 0xF5E0A880).unit 0).emptying = false ∧ ((turning 0xF5E0A880).emptyUnit 0).unitEmpty 0 = false ∧ (State.reset.unit 767).fenced = false ∧ 32 ∉ State.reset.failedLanes 767 ∧
    (State.reset.unit 767).emptying = false ∧ (State.reset.emptyUnit 767).unitEmpty 767 = true ∧
    (6 : Nat) < 7 ∧ (255 : Nat) < 256 ∧ 2 ^ 50 - 1 < 2 ^ 50 ∧ (1 : Nat) < 2 ∧ (2 : Nat) ≤ 2 ∧
    ([] : List (BitVec 64)).length < 64 ∧ (List.replicate 64 (0 : BitVec 64)).length = 64 ∧
    (7 : Nat) < 8 ∧ (31 : Nat) < 32 ∧ (65 : Nat) < 66 ∧ (State.reset.swapped 7 31 1).length < 2 ∧
    2 ≤ (((State.reset.addDefect 9 7 (31 * 2 ^ 45 + 2 ^ 44 + 64)).addDefect 9 7 (31 * 2 ^ 45 + 2 ^ 44 + 65)).swapped 7 31 1).length := by
  decide +kernel

/-- States and operands that meet the hypotheses of `MemoryStacks`. -/
theorem witness_MemoryStacks :
    (7 : Nat) < 8 ∧ (31 : Nat) < 32 ∧ (255 : Nat) < 256 ∧
    ({ Regs.reset with hbmcfgNext := some 0x1234 } : Regs).hbmcfgNext = some 0x1234 ∧ (95 : Nat) ≤ 95 ∧ (94 : Nat) < 95 ∧
    7 ∈ ({ State.reset with selfRefresh := [7] } : State).selfRefresh ∧ 7 ∉ State.reset.selfRefresh ∧
    (∀ c < 32, ({ State.reset with temps := Map.put 0 [] (7 * 32 + 31) 84 } : State).tempOf 7 c < 85) ∧
    (∃ c < 32, 85 ≤ ({ State.reset with temps := Map.put 0 [] (7 * 32 + 31) 85 } : State).tempOf 7 c) := by
  refine ⟨by decide, by decide, by decide, rfl, by decide, by decide, by decide, by decide, by decide, 31, by decide, by decide⟩

/-- States and operands that meet the hypotheses of `StitchAndVoltage`. -/
theorem witness_StitchAndVoltage :
    (2 ^ 63 : Nat).testBit 63 = true ∧ Regs.reset.stitch.toNat.testBit 62 = false ∧
    ({ Regs.reset with stitch := 2#64 ^ 62, rebuilt := some 3 } : Regs).stitch.toNat.testBit 62 = true ∧ Regs.reset.rebuilt = none ∧
    demo.opsOf .hub = [] ∧ Regs.reset.vmctl.toNat.testBit 62 = false ∧
    demo.railRefused 0 = true ∧ demo.railRefused 10 = false ∧ demo.railRefused 11 = true ∧
    ({ Regs.reset with vmctl := 2#64 ^ 62 } : Regs).vmctl.toNat.testBit 62 = true ∧ 2 ^ 32 - 1 < 2 ^ 32 := by
  decide +kernel

/-- States and operands that meet the hypotheses of `StartUpClockAttestation`. -/
theorem witness_StartUpClockAttestation :
    State.reset.stage < 2 ∧ ({ State.reset with regs := { Regs.reset with bootstage := 2 } } : State).stage = 2 ∧ (1 : Nat) ≤ 4 ∧ (4 : Nat) ≤ 4 ∧
    ({ Regs.reset with clkstep := 0x00170011 } : Regs).clkstep.toNat.testBit 10 = false ∧ (List.replicate 32 0#8).length = 32 ∧ demo.stage ≠ 0 ∧
    demo.stage ≠ 15 := by
  decide

/-! #### Incoming writes, timers and reports -/

/-- A log of a watched word at 0x110040 that awaits a value. -/
def watchLog (b aux : Nat) : OpLog := ⟨[0x3C, 0, 0], 0x110040, b, 0, 12, aux, [], false⟩

/-- A record of a thread that awaits v20 and v21, and then nothing. -/
def record (event aux : Nat) : Record :=
  { core := 0, group := 0, asid := 0, bid := 1, handle := 1, hdr := Header.blank, lane := 0, lin := 0, keep := 40, mode := 1, rep := none
    resume := 0x110000, event := event, regs := [], incoming := [⟨7, 20, 64, [20, 21], some 5⟩], landed := []
    log := some (watchLog 5 aux), unit := 3, cycle := 1, satisfied := false, entered := false, place := .drawer [0] }

/-- States and operands that meet the hypotheses of `IncomingWrites`. -/
theorem witness_IncomingWrites :
    (∃ p ∈ ({ demo with threads := [(0, loading)] } : State).threads, ∃ x ∈ p.2.incoming, x.wid = 7 ∧ x.data = none) ∧
    (∀ p ∈ ({ demo with threads := [(0, loading)] } : State).threads, ∀ x ∈ p.2.incoming, ¬(x.wid = 8 ∧ x.data = none)) ∧
    (∀ p ∈ ({ demo with records := [(3, record 0 0)] } : State).records, ∀ x ∈ p.2.incoming, ¬(x.wid = 7 ∧ x.data = none)) ∧
    Map.wf 0 loading.regs ∧ Map.wf 0 (record 0 0).regs ∧
    (let t : Thread := { loading with incoming := [⟨7, 20, 64, [20, 21], some 5⟩] }
     t.incoming.filter (fun x => x.wid = 7) = [⟨7, 20, 64, [20, 21], some 5⟩]) ∧
    (record 0 0).incoming.filter (fun x => x.wid = 7) = [⟨7, 20, 64, [20, 21], some 5⟩] ∧
    (record 0 0).awaits ⟨7, 20, 64, [20, 21], some 5⟩ = true := by
  decide

/-- A thread whose next instruction, nop under v20, waits for a load to v20; and one whose access is to issue again. -/
def stuck : State :=
  let s := State.reset.withFetchWord 96 0xA0003E
  { s with threads := [(0, { bootThread with incoming := [⟨7, 20, 32, [20], none⟩] })] }

/-- The same thread with its access still awaiting translation. -/
def stuckWalk : State :=
  { stuck with threads := [(0, { bootThread with incoming := [⟨7, 20, 32, [20], none⟩], walk := some 5 })], walks := [walking 0x120000] }

/-- States and operands that meet the hypotheses of `PendingParksAndReplays`. -/
theorem witness_PendingParksAndReplays :
    stuck.thread? (threadNo 0 0) = some { bootThread with incoming := [⟨7, 20, 32, [20], none⟩] } ∧
    bootThread.hold = .none ∧ bootThread.priv = false ∧ bootThread.walk = none ∧
    ((({ stuck with serial := stuck.serial + 1 } : State).instrAt 0 { bootThread with incoming := [⟨7, 20, 32, [20], none⟩] }).map
      fun i => i.sources.any fun r => (r ∈ [20] : Bool)) = some true ∧
    (stuckWalk.walks.find? fun x => x.x.no = 5) = some (walking 0x120000) ∧
    (stuckWalk.thread? 0).map Thread.walk = some (some 5) ∧ heldByWalk (.exit ext) = true ∧
    ({ bootThread with hold := .replay } : Thread).hold = .replay ∧ bootThread.hold ≠ .replay := by
  refine ⟨rfl, rfl, rfl, rfl, by decide +kernel⟩

/-- A bin that started at device time 0. -/
def bin : Bin := ⟨0, Header.blank, 0x110000, 0, [[3]], 0⟩

/-- The page as package 3 holds it, named by a TLB entry of core 0. -/
def peering : State :=
  { mapped someThread with
    cores := [(0, { Core.reset with tlb := [⟨0, 3, 0x110000, 0x10000, 2 ^ 62 + 2 * 2 ^ 59 + 3 * 2 ^ 6 + 0x30033⟩] })], domain := [0, 3] }

/-- States and operands that meet the hypotheses of `TimersAndWatches`. -/
theorem witness_TimersAndWatches :
    (∀ e ∈ [0x8 * 2 ^ 60, 0x9 * 2 ^ 60 + 0x110040 / 4], ({ demo with records := [(3, record e 0)] } : State).records.look 3 = some (record e 0) ∧
      (record e 0).satisfied = false ∧ (e / 2 ^ 60 = 0x8 ∨ e / 2 ^ 60 = 0x9)) ∧
    (record 0 0).log = some (watchLog 5 0) ∧ 0 ≤ demo.timebase.toNat ∧ demo.timebase.toNat < 1 ∧
    (let s := mapped someThread
     s.watchPiece 0 0 0x110040 = some piece ∧ s.watchAway (.thread 1 0) piece = false ∧
     s.watchReason (.thread 1 0) 0 0 (watchLog 5 0) = some 0 ∧ s.watchReason (.thread 1 0) 0 0 (watchLog 0 0) = none ∧
     (demo.watchPiece 0 0 0x110040).isNone = true) ∧
    ((peering.watchPiece 0 0 0x110040).map fun p => peering.watchAway (.thread 1 0) p) = some true ∧ (watchLog 5 0).aux ≠ 1 ∧
    ({ demo with cores := [(0, { Core.reset with bins := [(0, bin)] })], timebase := 10000000 } : State).bin? 0 0 = some bin ∧
    ({ demo with cores := [(0, { Core.reset with bins := [(0, bin)] })], timebase := 10000000000 } : State).binExpired bin = true ∧
    demo.binExpired bin = false := by
  decide +kernel

/-- States and operands that meet the hypotheses of `FaultQueueDrains`. -/
theorem witness_FaultQueueDrains :
    (∀ h ∈ demo.heldReports, h.asid ≠ 0) ∧ (∀ p ∈ demo.threads, ∀ e q, p.2.hold ≠ .report e q) ∧
    ({ demo with heldReports := [⟨0, 7⟩] } : State).heldReports = [⟨0, 7⟩] ∧ demo.ctx? 0 = some Context.blank ∧ demo.fqRoom 0 Context.blank = true ∧
    (∀ a ∈ [AfterReport.ends, .holds 5 none], ({ someThread with hold := .report 7 a } : Thread).hold = .report 7 a) ∧
    Context.blank.ovFault = false ∧ demo.asidOf 0 = 0 ∧ demo.canReport 0 = true := by
  refine ⟨by decide, ?_, rfl, rfl, by decide +kernel⟩
  intro p hp
  cases List.mem_singleton.mp hp
  intro e q h
  cases h

/-- States and operands that meet the hypotheses of `InvalidationsAndTickets`. -/
theorem witness_InvalidationsAndTickets :
    2 ^ 64 - 1 < 2 ^ 64 ∧ Regs.reset.tlbinv.toNat.testBit 63 = false ∧ ({ Regs.reset with tlbinv := 1#64 <<< 63 } : Regs).tlbinv.toNat.testBit 63 = true ∧
    demo.usesDropped = false ∧
    ({ demo with ops := [issued .store distant], regs := { Regs.reset with tlbSince := 20, tlbinv := 3#64 <<< 62 } } : State).usesDropped = true ∧
    (∀ x ∈ ([⟨9, 0, 1, 0, 65536, 0, false, true⟩] : List Ticket), x.number = 9 % 2 ^ 32 → x.self = true) ∧
    (∃ x ∈ ([⟨9, 0, 1, 0, 65536, 0, false, false⟩] : List Ticket), x.number = 9 % 2 ^ 32 ∧ x.self = false) := by
  decide +kernel

/-- States and operands that meet the hypotheses of `HostAndPeerAccesses`. -/
theorem witness_HostAndPeerAccesses :
    (demo.partials = [] ∧ (∀ b ∈ demo.blocks, ∀ a ∈ b.2.allocs, a.stash = none) ∧ demo.freed = [] ∧ demo.poison = [] ∧ demo.captures = [] ∧
     demo.ops = [] ∧ demo.walks = [] ∧ demo.misses = [] ∧ demo.peers = [] ∧ demo.selfRefresh = [] ∧ demo.regs.hbmcfgNext = none) ∧
    (∀ x ∈ List.range' 0x30040 16, populated x = true) ∧ populated 0x140000000000 = false ∧ isHbm 0x3003F = true ∧
    (∀ pkg ∈ [0, 1], ({ demo with received := [messageFlit pkg 3 [1#8]] } : State).takeMessage pkg 3 ≠ none) ∧
    (demo.takeMessage 0 3).isNone = true ∧
    (let x : Pending := { issued (.load .b32) piece with wid := 7 }
     let p : PeerAccess := ⟨4, 3, 0, 1, 0x30040, 4, page, .piece x 0, none, 0⟩
     p.pkg ≠ demo.pkg ∧ x.reply = none ∧ ([1, 2, 3, 4] : List Byte).length = p.n ∧ ∀ q ∈ [p], q.tag ≠ 5) := by
  decide +kernel

/-! #### The larder, stashes, engines and persistence by themselves -/

/-- States and operands that meet the hypotheses of `LarderSteps`. -/
theorem witness_LarderSteps :
    demo.blocks = [(1, someBlock)] ∧ someBlock.core = 0 ∧ someBlock.allocs = [alloc] ∧ (∀ p ∈ demo.blocks, p.2.core ≠ 5) ∧
    (500 : Nat) ≤ 500 ∧ (4000 : Nat) ≤ 4000 ∧ (499 : Nat) < 500 ∧ (4000 : Nat) < 4001 ∧ demo.blocks.look 1 = some someBlock ∧
    someBlock.allocFrom alloc.base = some alloc ∧
    alloc.expired = false ∧ (let b : Block := { someBlock with allocs := [{ alloc with tag := 2 ^ 39 }] }
      b.allocFrom 0 = some { alloc with tag := 2 ^ 39 } ∧ liveTag demo.now (2 ^ 39) = false) ∧ liveTag demo.now alloc.tag = true ∧
    (let r : PendingResult := ⟨5, 1, 7, 9, 0, [(3, 0x110000)], [3]⟩
     [r].find? (fun p => p.serial = 5) = some r ∧ (demo.line 3).dirty = false ∧ demo.peers = []) ∧
    (let f : FreedUnits := ⟨5, 0, 0, [3], 1, 1, 4096, none, [8]⟩
     [f].find? (fun f => f.serial = 5) = some f ∧ f.stash = none) := by
  decide

/-- A state whose block maps the page with its allocation; the first line is being fetched, the second is there. -/
def stash : State :=
  { mapped someThread with
    blocks := [(1, { someBlock with allocs := [stashed] })]
    lines := [(0, { Line.reset with fetching := true }), (1, { Line.reset with full := true, present := true })] }

/-- States and operands that meet the hypotheses of `StashSteps`. -/
theorem witness_StashSteps :
    stash.ownerOf 0 0 = some (1, { someBlock with allocs := [stashed] }, stashed, 0) ∧
    stash.ownerOf 0 1 = some (1, { someBlock with allocs := [stashed] }, stashed, 128) ∧ stash.ownerOf 0 40 = none ∧
    (stash.line (lineNo 0 0)).fetching = true ∧ stashed.stash.isSome = true ∧ (stash.line (lineNo 0 1)).present = true ∧
    (stash.line (lineNo 0 1)).dirty = false ∧ stash.ageOf (stash.line (lineNo 0 1)) < stash.guar 0 ∧
    ({ stash with timebase := 500000 } : State).guar 0 ≤ ({ stash with timebase := 500000 } : State).ageOf (stash.line (lineNo 0 1)) ∧
    (stash.line (lineNo 0 0)).present = false ∧ (120 : Nat) + ([1, 2, 3, 4, 5, 6, 7, 8] : List Byte).length ≤ 128 ∧
    (match stash.translate 0 0 .stash [(stashed.global 0, 0, 128)] with
      | .all ps => ps.all (fun p => stash.spaceOf p.leaf < 2) && (stash.tryTouch ps).isSome
      | .fault .. => false) = true ∧
    ((stash.stashLine 1 1 0 (stashed.global 128)).bind fun x => (stash.tryWriteBack x).bind fun t =>
      (t.dropLine 1).tryStore .hub 0 0 0 0 (x.pa + 120) x.leaf [1, 2, 3, 4, 5, 6, 7, 8] (.written 0 x.va)).isSome = true := by
  decide +kernel

/-- A request that moves one byte, accepted by core 0's engine; a swap that waits for it and one that does not; a digest of 32 bytes. -/
def request : CopyReq := ⟨5, 0, 0, 1, 1, 64, copyRequest, 0, none, 0, [], [], []⟩
def swap (w : List Nat) (entry : Option Piece) : Swap := ⟨6, 0, 1, 0, w, entry, 7, 1⟩
def digesting : DigestReq := ⟨8, 0, 1, 0, 0x110000, 32, 0x110040, 7, 0, none, [], []⟩

/-- The state in which they are outstanding. -/
def working (w : Swap) : State := { served 0 with copies := [request], swaps := [w], digests := [digesting] }

/-- States and operands that meet the hypotheses of `EngineSteps`. -/
theorem witness_EngineSteps :
    (let s := working (swap [] none)
     s.copies.find? (fun c => c.serial = 5) = some request ∧ request.ticket = none ∧ s.copySaved request = false ∧
     s.engineRuns 0 = true ∧ reqCplen request.req = false ∧ s.swaps.find? (fun w => w.serial = 6) = some (swap [] none) ∧
     s.swapReady (swap [] none) = true ∧ s.digests.find? (fun d => d.serial = 8) = some digesting ∧ digesting.ticket = none) ∧
    ((({ working (swap [] none) with copies := [] } : State).psetPiece 0 0).map fun p =>
      (({ working (swap [] none) with copies := [] } : State).tryEntry 0 p (2 ^ 64 + 7) 16).isSome &&
        !(({ working (swap [] none) with copies := [] } : State).oldInUse (swap [] (some p)) 0)) = some true ∧
    (working (swap [5] none)).swapReady (swap [5] none) = false ∧ ({ working (swap [] none) with copies := [{ request with halves := 1 }] } : State).oldInUse (swap [] (some piece)) 0 = true ∧
    ({ request with ticket := some 9 } : CopyReq).ticket ≠ none ∧ piece.leaf.pdom = 0 ∧ demo.spaceOf piece.leaf = 0 := by
  decide +kernel

/-- Hypotheses of the statements on engine steps data are met. -/
theorem witness_EngineSteps_data :
    Quiet demo ∧
    (match State.moveElems request 1 request.done (working (swap [] none)) with
      | (m, none, u) => m = 1 && u.copies = (working (swap [] none)).copies
      | _ => false) = true ∧
    (match (working (swap [] none)).engineRead 192 0 digesting.halves digesting.got
        (wordPieces (digesting.len / 32 + 2) digesting.addr digesting.len) with
      | .ok (bs, u) => bs.length = 32 && (u.digestWrite digesting (sm3 bs)).toOption.isSome
      | .error _ => false) = true := by
  refine ⟨by unfold Quiet; decide, ?_, ?_⟩ <;> decide +kernel

/-- PSTAT with ARMED and a capacity of one unit of 32 entries, RSTCTL with BUSY. -/
def armedRegs : Regs := { Regs.reset with pstat := 0x8000000100000000, rstctl := 0x8000000000000000, bootstage := 3 }

/-- A store of one byte to a page of persist domain 1, of a party that is no core. -/
def durable : Pending :=
  { issued .store { piece with n := 1, leaf := { page with entry := page.entry + 2 ^ 57 } } with who := .hub, core := 192, acc := { accessing .store with n := 1 } }

/-- States and operands that meet the hypotheses of `PersistSteps`. -/
theorem witness_PersistSteps :
    (let e : WbEntry := ⟨9, 64, [1#8], 0⟩
     let s : State := { demo with wbqs := [[e], [], [], []] }
     s.wbq 0 = e :: [] ∧ s.mayDrain e = true ∧ demo.wbq 0 = [] ∧ demo.wbqs.length = 4 ∧
     ({ demo with wbqs := [[{ e with epoch := 1 }], [e], [], []] } : State).mayDrain { e with epoch := 1 } = false) ∧
    (let s : State := { demo with ops := [durable], regs := armedRegs }
     durable.acc.release = false ∧ durable.wid = 0 ∧ durable.reply = none ∧ (∀ q ∈ durable.pieces, s.spaceOf q.leaf = 0 ∧ q.leaf.pdom ≠ 0 ∧
       queueDie durable.core q.pa = 0 ∧ (s.wbq 0).length + (granulesOf q.pa q.n).length ≤ s.queueCap ∧ q.pa % 32 + q.n ≤ 32) ∧ s.armed = true) ∧
    ({ demo with regs := { armedRegs with pstat := 0x8000000000000000 } } : State).queueCap < 0 + 1 ∧
    (let p : Pfence := ⟨4, 0, true, 7, .thread 1 0⟩
     [p].find? (fun p => p.serial = 4) = some p) ∧
    Regs.reset.rstctl.toNat.testBit 63 = false ∧ armedRegs.rstctl.toNat.testBit 63 = true ∧ Regs.reset.restored = none ∧
    ({ armedRegs with restored := some (2, 5) } : Regs).restored = some (2, 5) ∧ demo.opsOf .hub = [] := by
  decide +kernel

/-- Hypotheses of the statements on persist steps quiet are met. -/
theorem witness_PersistSteps_quiet : Quiet { demo with ops := [durable], regs := armedRegs } := by
  unfold Quiet; decide

/-- A capture of region 0 that is to read the chunks `onWrite` at once, and has captured `n` of them. -/
def capture (onWrite : List Nat) (n : Nat) : Capture := ⟨0, 0, 5, 0, (span 0 n).map fun k => (k, []), onWrite, [], false, 1, 0⟩

/-- Region 0 is 1 MiB at 0x110000, of which the first 64 KiB are mapped; a write to it waits. -/
def capturing (c : Capture) : State :=
  { served 0 with memory := putBytes (putBytes (served 0).memory 0x31020 (toBytes 8 (2 ^ 20))) 0x31028 (toBytes 8 0x110000), captures := [c]
                  ops := [issued .store piece] }

/-- States and operands that meet the hypotheses of `CaptureSteps`. -/
theorem witness_CaptureSteps :
    (let s := capturing (capture [] 0)
     s.captureOf 0 0 = some (capture [] 0) ∧ (s.waitingWrites.find? fun pa => s.chunkOf (capture [] 0) pa = some 0) = some 0x30040 ∧
     (∀ pa ∈ s.waitingWrites, s.chunkOf (capture [] 0) pa ≠ some 1) ∧ 0 < regChunks (s.regionEntry 0 0) ∧
     regChunks (s.regionEntry 0 0) ≤ 8 * ((capture [] 8).stripes.length + 1)) ∧
    (0 ∉ (capture [] 0).onWrite ∧ 0 ∈ (capture [0] 0).onWrite ∧ (∀ p ∈ (capture [] 0).captured, p.1 ≠ 0) ∧ (capture [] 0).lagOver = false ∧
     (capture [] 8).stripeDone 0 = true ∧ 0 ∉ (capture [] 8).stripes) ∧
    (({ demo with received := [messageFlit 5 3 [1#8]] } : State).takeAny 5).isSome = true ∧ (demo.takeAny 5).isNone = true := by
  decide +kernel

/-! #### Queues, launches, blocks and contexts -/

/-- A task record, a grid of one block and a mask launch on core 0, each of one thread, of the kernel whose header is at 0x112000. -/
def taskPacket : Nat := 2 * 2 ^ 472 + 2 ^ 458 + 2 ^ 447 + 2 ^ 436 + 0x112000 * 2 ^ 128
def gridPacket : Nat := 2 ^ 472 + 2 ^ 464 + 2 ^ 373 + 2 ^ 362 + 2 ^ 351 + 2 ^ 416 + 2 ^ 400 + 2 ^ 384 + 0x112000
def maskPacket : Nat := 2 ^ 472 + 2 ^ 471 + 2 ^ 421 + 2 ^ 410 + 2 ^ 399 + 2 ^ 192 + 0x112000

/-- The state in which queue 0 holds a packet as its first. -/
def queued (p : Nat) : State :=
  { served 0 with
    contexts := [(0, { Context.blank with root := 0x10000, qbase := 0x110000, psbase := 0x110800, trbase := 0x111000, queues := [0] })]
    regs := { Regs.reset with bootstage := 3 }
    memory := putBytes (putBytes (putBytes (served 0).memory 0x30000 (toBytes 8 1)) 0x30400 (toBytes 64 (p + 2 ^ 511))) 0x32000
      (toBytes 64 (16 * 2 ^ 256 + 0x110000)) }

/-- Its descriptor, and the packet once it has been taken. -/
def queue (widx : Nat) : QDesc := ⟨0x110000, widx, 0, 0x110400, 0, 0, 0, 4⟩
def taken (p : Nat) : Packet := ⟨5, 0, 0, 0, 0, 0x110400, p, 0⟩

/-- States and operands that meet the hypotheses of `QueueSteps`. -/
theorem witness_QueueSteps :
    (served 0).headPacket 0 0 = none ∧ (queued 0).headPacket 0 0 = some (queue 1, 2 ^ 511) ∧ (queued 0).mayTake 0 0 0 = true ∧ (queued 0).mayTake 0 0 1 = false ∧
    (let s : State := { queued 0 with packets := [taken copyRequest] }
     (s.packets.find? fun p => packetType p.data = 3) = some (taken copyRequest) ∧ s.canReport 0 = true ∧ s.engineLoad 192 < 64 ∧
     ({ s with packets := [] } : State).queueCopyBad 0 copyRequest = none ∧
     ({ s with packets := [] } : State).queueCopyBad 0 (copyRequest + 2 ^ 468) ≠ none) ∧
    64 ≤ ({ demo with copies := List.replicate 64 { request with core := 192 } } : State).engineLoad 192 := by
  decide +kernel

/-- The queue is full, its head is a launch that no core can start, since every core holds eight sets of counters, and a thread is parked on it. -/
def deadlocked : State :=
  { queued gridPacket with
    memory := putBytes (queued gridPacket).memory 0x30000 (toBytes 8 4)
    threads := [], regs := { Regs.reset with bootstage := 1 }
    records := [(3, record (eventKey 0x6 0) 0)] }

/-- That state 100 µs later, the conditions noted as they began. -/
def stalled : State := { deadlocked.noteStalls with timebase := deadlocked.timebase + 100000 }

/-- Hypotheses of the statements on queue deadlock are met. -/
theorem witness_QueueDeadlock :
    ((stalled.ctx? 0).bind fun c => c.stalled.look 0) = some 0 ∧ 0 + 100000 ≤ stalled.ns ∧ stalled.stuckQueue 0 0 = true ∧
    deadlocked.ns < 0 + 100000 ∧ deadlocked.qdesc 0 0 = some (queue 4) ∧ deadlocked.slotFor 0 (queue 4) 4 = none ∧ deadlocked.parkedOn 0 0 ≠ 0 ∧
    (deadlocked.headPacket 0 0).isSome = true ∧ deadlocked.couldStart 0 gridPacket = false ∧ deadlocked.allParked 0 (deadlocked.coresFor gridPacket) = true ∧
    deadlocked.canReport 0 = true ∧ ((deadlocked.ctx? 0).map Context.deadlocked) = some [] := by
  decide +kernel

/-- States and operands that meet the hypotheses of `PacketsBecomeLaunches`. -/
theorem witness_PacketsBecomeLaunches :
    (∀ p ∈ [taskPacket, gridPacket, maskPacket],
      (({ queued p with packets := [taken p] } : State).packets.find? fun y => y.serial = 5) = some (taken p) ∧
      (queued p).canReport 0 = true ∧ (queued p).packetBad p = none ∧ pkHdr p = 0x112000 ∧
      headerBad ((queued p).ctxVal 0 (pkHdr p) 64) = none ∧ pkEline p + pkEcnt p ≤ (headerOfBits (pkHdr p) ((queued p).ctxVal 0 (pkHdr p) 64)).larder / 128 ∧
      (queued p).packetBad (p + 2 ^ 6) = none ∧ headerBad ((queued p).ctxVal 0 (pkHdr p + 64) 64) = some 2 ∧ (queued p).packetBad (p - 2 ^ 472) ≠ none) ∧
    packetType taskPacket = 2 ∧ pkMask maskPacket = true ∧ packetType gridPacket = 1 ∧ pkMask gridPacket = false := by
  decide +kernel

/-- A launch of one task whose block is to do, on an idle package. -/
def launching : Launch := { Launch.blank with kind := .task, packet := taskPacket, todo := [(0, 0)], hdr := { Header.blank with regs := 16 } }
def placing : State := { queued 0 with threads := [], groups := [], blocks := [], launches := [(1, launching)] }

/-- States and operands that meet the hypotheses of `BlocksStart`. -/
theorem witness_BlocksStart :
    placing.launches.look 1 = some launching ∧ placing.serves 0 = true ∧
    ({ placing with contexts := [(0, { Context.blank with frozen := true })] } : State).serves 0 = false ∧
    placing.placement 1 launching [5] = some [((0, 0), 5)] ∧ placing.placement 1 launching [200] = none ∧ launching.kind ≠ .mask ∧
    launching.hdr.larder = 0 ∧ pkEcnt launching.packet = 0 ∧ launching.hdr.dump = 0 := by
  decide +kernel

/-- A block with its group still to be admitted, and a launched group that waits on a core. -/
def fresh : Block := { Block.blank with core := 5, waiting := [0] }
def waitingGroup : Launching := ⟨0, { Header.blank with regs := 16 }, [3]⟩

/-- States and operands that meet the hypotheses of `GroupsAdmitted`. -/
theorem witness_GroupsAdmitted :
    (let s : State := { placing with blocks := [(1, fresh)] }
     (s.core 5).launching = [] ∧ s.waitingBlock 5 = some (1, fresh) ∧ s.waitingBlock 6 = none ∧ s.launches.look fresh.launch = some launching ∧
     fresh.waiting = 0 :: [] ∧ s.freeSlot 20 launching.hdr.regs = some 320 ∧
     ({ s with units := [(20, { SimdUnit.reset with fenced := true })] } : State).freeSlot 20 launching.hdr.regs = none) ∧
    (({ placing with cores := [(5, { Core.reset with launching := [waitingGroup] })] } : State).core 5).launching = waitingGroup :: [] ∧
    placing.freeSlot 20 waitingGroup.hdr.regs = some 320 := by
  decide +kernel

/-- The successor whose template is a task record at 0x110400 with a counter at 0x110700, read or not, with the counter's old value. -/
def countedTask : Nat := taskPacket + 0x110700 * 2 ^ 256
def successor (data old : Option Nat) (ready : Bool) : Successor := ⟨2, 0, 0x110400, 1, data, [], 9, old, ready, none⟩
def succeeding (x : Successor) : State := { queued countedTask with successors := [x] }
def done : Launch := { launching with todo := [], total := 1, ended := 1, failed := 1, packet := taskPacket + 0x110600 }

/-- States and operands that meet the hypotheses of `BlocksAndLaunchesEnd`. -/
theorem witness_BlocksAndLaunchesEnd :
    demo.blocks.look 1 = some someBlock ∧ demo.successors.find? demo.successorMoves = none ∧
    (∀ x ∈ [successor none none false, successor (some countedTask) (some 0) false, successor (some countedTask) (some 1) false,
        successor (some countedTask) (some 3) false, successor (some countedTask) none true],
      (succeeding x).successors.find? (succeeding x).successorMoves = some x ∧ (succeeding x).canReport 0 = true) ∧
    (let s := succeeding (successor none none false)
     (match s.engineRead 192 0 (s.currentHalves 0) [] (wordPieces 4 0x110400 64) with
      | .ok (bs, u) => u = s && packetType (ofBytes bs) = 2 && s.packetBad (ofBytes bs) = none && pkCntr (ofBytes bs) = 0x110700
      | .error _ => false) = true) ∧
    placing.launchDone 1 launching = false ∧ placing.launchDone 1 done = true ∧ (placing.tryMergeLaunch 1).isSome = true ∧
    Quiet (served 0) ∧ (served 0).ops = [] ∧ (served 0).poison = [] ∧
    (∃ l, (served 0).hubLeaf 0 0x110000 = some l ∧ (served 0).spaceOf l = 0 ∧ l.pdom = 0) := by
  refine ⟨by decide, by decide, ?_⟩
  unfold Quiet
  refine ⟨by decide +kernel, by decide +kernel, by decide, by decide, by decide, by decide, by decide, by decide, ?_⟩
  exact ⟨_, rfl, by decide, by decide⟩

/-- States and operands that meet the hypotheses of `ContextControl`. -/
theorem witness_ContextControl :
    Regs.reset.ctxctl.toNat.testBit 62 = false ∧ ({ Regs.reset with ctxctl := 2#64 ^ 62 } : Regs).ctxctl.toNat.testBit 62 = true ∧
    (2 ^ 63 + 2 ^ 56 : Nat).testBit 63 = true ∧ (2 ^ 63 + 2 ^ 56 : Nat) / 2 ^ 56 % 8 = 1 ∧ demo.stage = 3 ∧ State.reset.stage ≠ 2 ∧ State.reset.stage ≠ 3 ∧
    demo.ctx? 511 = none ∧ demo.ctx? 0 ≠ none := by
  decide +kernel

/-- An idle package whose context descriptors start at 0x30200, with a descriptor of ASID 0 that is accepted, and none for ASID 1. -/
def describing : State :=
  { State.reset with
    memory := putBytes (putBytes [] 0x30200 (toBytes 8 0x10000)) 0x30268 [8#8], regs := { Regs.reset with ctxbase := 0x30200 } }

/-- States and operands that meet the hypotheses of `ContextsCreatedAndKilled`. -/
theorem witness_ContextsCreatedAndKilled :
    describing.ctx? 0 = none ∧ descriptorBad (describing.descriptor 0) = false ∧ describing.ctx? 1 = none ∧ descriptorBad (describing.descriptor 1) = true ∧
    (let s : State := { State.reset with contexts := [(0, Context.blank)] }
     s.ctx? 0 = some Context.blank ∧ (s.contexts.Pairwise fun a b => a.1 < b.1) ∧ s.blocks = [] ∧ s.launches = [] ∧ s.threads = [] ∧ s.records = [] ∧
     s.captures = [] ∧ s.partials = [] ∧ s.freed = []) := by
  decide +kernel

/-- A launch that may be pre-empted. -/
def yielding (idem : Bool) (expect prio : Nat) : Launch :=
  { launching with hdr := { launching.hdr with mayPre := true, idem := idem, expect := expect }, prio := prio, todo := [] }

/-- States and operands that meet the hypotheses of `PreemptionControl`. -/
theorem witness_PreemptionControl :
    Regs.reset.prectl.toNat.testBit 62 = false ∧ ({ Regs.reset with prectl := 2#64 ^ 62 } : Regs).prectl.toNat.testBit 62 = true ∧
    (2 ^ 63 : Nat).testBit 63 = true ∧ ({ Block.blank with alive := 0 } : Block).waiting = [] ∧ Block.blank.alive ≠ 0 ∧
    Header.blank.mayPre = false ∧ (yielding true 9 0).hdr.mayPre = true ∧ (yielding true 9 0).hdr.expect ≠ 0 ∧
    (yielding true 9 0).hdr.expect ≤ ({ Context.blank with draint := 9 } : Context).draint + 0 / max 1 1 ∧
    Context.blank.draint + 0 / max 1 1 < (yielding true 9 0).hdr.expect ∧ (yielding true 9 0).hdr.idem = true ∧ 0 / max 1 1 ≤ Context.blank.flusht ∧
    (yielding false 0 0).hdr.idem = false ∧ (yielding false 0 0).todo = [] ∧ launching.todo ≠ [] := by
  decide +kernel

/-- Every core is fenced, so that no block can be placed; a block of a launch of lower priority is resident. -/
def crowded : State :=
  { placing with
    cores := (span 0 192).map fun c => (c, { Core.reset with fenced := true })
    launches := [(1, { launching with prio := 3 }), (2, yielding false 0 1)], blocks := [(7, { Block.blank with launch := 2 })] }

/-- Hypotheses of the statements on dispatcher preempt are met. -/
theorem witness_DispatcherPreempt :
    crowded.launches.look 1 = some { launching with prio := 3 } ∧ crowded.serves 0 = true ∧
    crowded.unplaced 1 { launching with prio := 3 } = true ∧ placing.unplaced 1 launching = false ∧ crowded.victims 3 = [(1, 7)] := by
  decide +kernel

/-- A block in a state of its pre-emption, in a context with a save area of 16 pages at the page. -/
def leaving (state : BlockState) (alive : Nat) (launch : Launch) : State :=
  { queued 0 with
    contexts := [(0, { Context.blank with root := 0x10000, svbase := 0x110000, svsize := 65536, drainlim := 5 })]
    threads := [], groups := [], launches := [(1, launch)], blocks := [(1, { Block.blank with state := state, alive := alive })], timebase := 100000 }

/-- States and operands that meet the hypotheses of `BlocksSavedAndRestored`. -/
theorem witness_BlocksSavedAndRestored :
    (∀ st ∈ [BlockState.draining 0, .draining 95, .late, .saving, .saved 0, .flushed],
      (leaving st 1 (yielding false 0 0)).blocks.look 1 = some { Block.blank with state := st } ∧
      ((leaving st 1 (yielding false 0 0)).ctx? 0).isSome = true ∧ (leaving st 1 (yielding false 0 0)).launches.look Block.blank.launch = some (yielding false 0 0)) ∧
    (leaving (.draining 0) 1 (yielding false 0 0)).now = 100 ∧ (0 : Nat) + 5 ≤ 100 ∧ ¬(96 + 5 ≤ 100) ∧
    (leaving .saving 1 (yielding false 0 0)).saveReady 1 { Block.blank with state := .saving } = true ∧
    (leaving .late 1 (yielding false 0 0)).saveReady 1 { Block.blank with state := .late } = false ∧
    (let u := (leaving .saving 1 (yielding false 0 0)).releaseStash 1
     u.stashHeld 1 = false ∧ (u.ctx? 0).isSome = true ∧ u.launches.look 1 = some (yielding false 0 0) ∧ (u.tryMergeLaunch 1).isSome = true) ∧
    ({ Context.blank with svsize := 65536 } : Context).freePages 5 = some 0 ∧
    (leaving .flushed 1 (yielding false 0 0)).restartOk { Block.blank with state := .flushed } (yielding false 0 0) 5 = true ∧
    (yielding false 0 0).kind ≠ .grid ∧ Block.blank.pairing = none ∧ (leaving .flushed 1 (yielding false 0 0)).serves 0 = true := by
  decide +kernel

/-- What an image of two pages holds of a block with nothing of its own. -/
def image (pages : Nat) : SavedBlock := ⟨0, pages, 1, [], [], [], [], [], [], []⟩

/-- Hypotheses of the statements on block restore are met. -/
theorem witness_BlockRestore :
    (let s : State := { leaving (.saved 0) 1 (yielding false 0 0) with saved := [(1, image 2)], poison := [(0x30000 / 32, 0)] }
     s.saved.look 1 = some (image 2) ∧ s.canRestore 1 { Block.blank with state := .saved 0 } (yielding false 0 0) (image 2) 5 = true ∧ s.serves 0 = true ∧
     s.canRestore 1 { Block.blank with state := .saved 0 } (yielding false 0 0) (image 2) 192 = false ∧
     s.canReport 0 = true ∧ s.badPage 0 0x110000 (image 2) = some (0x02, 0) ∧ s.badPage 0 0x110000 (image 0) = none ∧
     (s.resumeBlock 1 5 { Block.blank with state := .saved 0 } (yielding false 0 0) (image 0)).isSome = true) := by
  decide +kernel

/-- The two copies of a paired block on two cores, each with its thread in a state. -/
def copyOf (core other : Nat) (first : Bool) (sig : Nat) : Block := { Block.blank with core := core, pairing := some ⟨other, first, sig, [], 0⟩ }
def pairedState (sig : Nat) (hold : Hold) : State :=
  { demo with
    blocks := [(1, copyOf 0 2 true 5), (2, copyOf 20 1 false sig)]
    threads := [(0, { someThread with hold := hold }), (40960, { someThread with bid := 2, hold := .checkPoint })] }

/-- States and operands that meet the hypotheses of `PairedCheckPoints`. -/
theorem witness_PairedCheckPoints :
    (∀ sg ∈ [5, 6], (pairedState sg .checkPoint).blocks.look 1 = some (copyOf 0 2 true 5) ∧ (pairedState sg .checkPoint).blocks.look 2 = some (copyOf 20 1 false sg) ∧
      (pairedState sg .checkPoint).threadIn 1 0 = some (0, { someThread with hold := .checkPoint }) ∧
      (pairedState sg .checkPoint).threadIn 2 0 = some (40960, { someThread with bid := 2, hold := .checkPoint })) ∧
    (copyOf 0 2 true 5).pairing = some ⟨2, true, 5, [], 0⟩ ∧ (pairedState 5 .none).threadIn 1 0 = some (0, { someThread with hold := .none }) := by
  decide +kernel

/-- A thread of a paired block that issues alone, with the page in its core's TLB. -/
def pairedThread : State := { mapped someThread with blocks := [(1, { copyOf 0 2 true 5 with allocs := [alloc] }), (2, copyOf 20 1 false 5)] }

/-- States and operands that meet the hypotheses of `PairedThreadsHold`. -/
theorem witness_PairedThreadsHold :
    Alone pairedThread 0 someThread ∧ pairedThread.pairingOf 0 = some ⟨2, true, 5, [], 0⟩ ∧ someThread.passed = false ∧
    (∀ r ∈ pairedThread.records, some r.2.cycle ≠ pairedThread.issuing.map Issue.cycle) ∧
    (∀ i ∈ [Instr.exit (paged .n32 0), .fence (paged .n32 0), .pfenceDie (paged .n32 0), .pfencePkg (paged .n32 0), .steptag (paged .n32 0),
      .copy (paged .n32 0) 0 0, .enq (paged .n32 0) 0 0, .collRun (paged .n32 0) 5, .publish (paged .n32 0) 0],
      i.head = some (paged .n32 0) ∧ pairedThread.gate i 0 someThread (paged .n32 0) = .on ∧ isCheckPoint i = true) ∧
    (∀ i ∈ [Instr.stg (paged .n32 0) plainM, .red (paged .n32 0) plainM .add], pairedThread.gate i 0 someThread (paged .n32 0) = .on) ∧
    pairedThread.tlbHas 0 0 [(0x110040, 0, 4)] = true ∧ pairedThread.translate 0 0 .store [(0x110040, 0, 4)] = .all [piece] ∧
    pairedThread.translate 0 0 .atomic [(0x110040, 0, 4)] = .all [piece] ∧ (pairedThread.misses.filter fun e => e.core = 0) = [] :=
  ⟨⟨rfl, rfl⟩, rfl, rfl, by decide, by decide, by decide, by decide, by decide +kernel, by decide +kernel, rfl⟩

/-! #### Ports, collectives and repartitions -/

/-- A flit of a kind and class. -/
def flit (kind reason cls seq ack : Nat) : Flit := ⟨seq, ack, kind, reason, cls, 0, 0, 3, true, false, 0, []⟩

/-- A state whose port 15 has lanes and, in class 5, one flit that is not acknowledged. -/
def linked (good width : Nat) : State :=
  { demo with ports := List.replicate 15 Port.reset ++ [{ Port.reset with
      good := good, width := width, retraining := true
      classes := List.replicate 5 PortClass.reset ++ [{ PortClass.reset with replay := [flit 0 0 5 0 0] }] }] }

/-- States and operands that meet the hypotheses of `PortFlits`. -/
theorem witness_PortFlits :
    openFlit [1#8] = none ∧
    (∀ f ∈ [flit 0 0 5 0 0, flit 0 0 5 (2 ^ 20 - 1) 0, flit 0 0 5 (2 ^ 19 - 2) 0, flit 0 0 5 (2 ^ 19 - 1) 0, flit 0 0 9 0 0, flit 1 0 5 0 0, flit 1 0 5 0 1,
        flit 1 0 5 0 (2 ^ 20 - 1), flit 2 0 5 0 0, flit 2 1 5 0 0, flit 3 0 5 0 0, messageFlit 5 3 [2#8]], openFlit (flitImage f) = some f) ∧
    (let k := ((linked 0xFFFF 16).port 15).cls 5
     [0, 2 ^ 20 - 1, 2 ^ 19 - 2, 2 ^ 19 - 1].map (fun n => (n + 2 ^ 20 - k.accepted) % 2 ^ 20) = [1, 0, 2 ^ 19 - 1, 2 ^ 19] ∧
     [0, 1, 2 ^ 20 - 1].map (fun n => (n + 2 ^ 20 - k.acked) % 2 ^ 20) = [1, 2, 0] ∧ k.replay.length = 1) ∧
    ((linked 0xFFFF 16).deliver (flit 0 0 5 0 0)).isSome = true ∧ ((linked 0xFFFF 16).deliver (flit 0 0 3 0 0)).isSome = true ∧
    (let held := ({ demo with received := List.replicate 70000 (flit 0 0 2 0 0) } : State)
     held.received.length = 70000) ∧
    (let s : State := { linked 0xFFFF 16 with timebase := 1000 }
     s.ns = 1000 ∧ ((s.port 15).cls 5).since + 1000 ≤ s.ns ∧ ((linked 0xFFFF 16).port 15).cls 5 = ((s.port 15).cls 5) ∧
     (∃ a, ({ PortClass.reset with ackDue := some 900 } : PortClass).ackDue = some a ∧ a + 100 ≤ s.ns) ∧
     ¬(∃ a, ({ PortClass.reset with busy := some 901 } : PortClass).busy = some a ∧ a + 100 ≤ s.ns) ∧ ((s.port 15).cls 0).replay = []) := by
  refine ⟨by decide, ?_, by decide +kernel, by decide +kernel, by decide +kernel, List.length_replicate, rfl, by decide,
    by decide +kernel, ⟨900, rfl, by decide⟩, ?_, by decide +kernel⟩
  · intro f hf
    apply openFlit_flitImage
    revert f
    decide
  rintro ⟨a, h, h'⟩
  cases h
  revert h'
  decide

/-- States and operands that meet the hypotheses of `PortLanesAndMargins`. -/
theorem witness_PortLanesAndMargins :
    (let good (g : Nat) := ((linked g 16).port 15).good
     (good 0xFFFF).testBit 15 = true ∧ (good 0x7FFF).testBit 15 = false ∧ (good 0xFFFF - 2 ^ 15) / 2 ^ (8 * 0) % 2 ^ 8 = 0xFF ∧
     ¬((good 0xFF7F - 2 ^ 15) / 2 ^ (8 * 0) % 2 ^ 8 = 0xFF) ∧ ¬((good 0xFF7F - 2 ^ 15) / 2 ^ (8 * 1) % 2 ^ 8 = 0xFF) ∧ good 0xFFFF ≠ 0) ∧
    (let p := (linked 0xFFFF 16).port 15
     p.failed = false ∧ p.retraining = true ∧ p.width ≠ 0 ∧ p.good.testBit 3 = true) ∧ (demo.port 0).width = 0 ∧
    ({ Port.reset with failed := true } : Port).failed = true ∧ (2 ^ 63 : Nat).testBit 63 = true ∧ (2 ^ 62 : Nat).testBit 63 = false ∧
    Regs.reset.tlmctl.toNat.testBit 62 = false ∧ ({ Regs.reset with tlmctl := 2#64 ^ 62 } : Regs).tlmctl.toNat.testBit 62 = true := by
  decide +kernel

/-- A graph of a SEND, a RECV of 4 bytes and an SRED of a bitwise or of 4 bytes, and a run of it that has started them. -/
def graph : Graph := ⟨[2 * 2 ^ 196 + 4 * 2 ^ 96, 3 * 2 ^ 196 + 4 * 2 ^ 96, 4 * 2 ^ 196 + 4 * 2 ^ 193 + 4 * 2 ^ 96], none⟩
def running : Run :=
  { serial := 5, asid := 0, graph := 1, number := 0, bid := 1, core := 0, launch := 1, tid := 0, wid := 7, cpl := none, table := [0x110000], halves := 0
    counters := [0, 0, 0], doneNodes := [], phase := [(0, 0), (2, 1)], progress := [], tickets := [], tags := [], recvLeft := [], senders := [(1, 3)]
    pend := [], contrib := [], passOne := [], got := [], acked := [], active := true, ending := none }

/-- The state in which it runs, and one in which a graph's image is being read. -/
def collective : State :=
  { mapped someThread with contexts := [(0, { Context.blank with root := 0x10000, graphs := [(1, graph)] })], runs := [running]
                           collLoads := [⟨5, 0, 7, 0x110000, 1, 2, 1, 0, none, []⟩] }

/-- States and operands that meet the hypotheses of `CollectiveSteps`. -/
theorem witness_CollectiveSteps :
    collective.ctx? 5 = none ∧ collective.ctx? 0 ≠ none ∧ collective.notices.length < 65536 ∧ collective.activeRun 0 1 9 = none ∧
    collective.activeRun 0 1 0 = some running ∧ nodeOp (collective.nodeOf running 0) = 2 ∧ running.phase.look 0 = some 0 ∧
    nodeOp (collective.nodeOf running 1) = 3 ∧ (1, 3) ∈ running.senders ∧ (1, 4) ∉ running.senders ∧
    ([1, 2, 3, 4] : List Byte).length = nodeLen (collective.nodeOf running 1) ∧ ([1] : List Byte).length ≠ nodeLen (collective.nodeOf running 1) ∧
    collective.run? 5 = some running ∧ collective.run? 6 = none ∧ nodeOp (collective.nodeOf running 2) = 4 ∧ running.ending = none ∧
    running.phase.lookD 2 0 = 1 ∧ isWindowed (collective.nodeOf running 2) = false ∧ nodeLen (collective.nodeOf running 2) = 4 ∧
    collective.collLoads.find? (fun c => c.serial = 5) = some ⟨5, 0, 7, 0x110000, 1, 2, 1, 0, none, []⟩ ∧ collective.engineRuns 0 = true := by
  decide +kernel

/-- A message of class 2 has come from package 3. -/
def told : State := { collective with received := [messageFlit 2 3 [1#8]] }

/-- Hypotheses of the statements on collective messages are met. -/
theorem witness_CollectiveMessages :
    (∀ s ∈ [collective], s.takeAny 2 = none ∧ s.takeMessage 2 3 = none) ∧
    (match told.takeAny 2, told.takeMessage 2 3 with
      | some u, some v => u = v && u.runs = [running] && u.activeRun 0 1 0 = some running && u.activeRun 0 1 9 = none && u.run? 5 = some running &&
          (u.ctx? 0).isSome && (u.ctx? 5).isNone && u.run? 6 = none
      | _, _ => false) = true ∧
    (match collective.engineRead 192 0 0 [] (wordPieces (1 + 1) 0x110000 (32 * 1)) with
      | .ok (bs, _) => bs.length = 32
      | .error _ => false) = true := by
  decide +kernel

/-- A context at home here, whose repartition group 0 has a descriptor of rank 0 of 2, and an operation that runs in group 1. -/
def rankZero : Nat := 2 * 2 ^ 48
def rankOne : Nat := 2 * 2 ^ 48 + 2 ^ 32
def reparting (pkg : Nat) : State :=
  { demo with
    pkg := pkg, domain := [0, 3]
    contexts := [(0, { Context.blank with reparts := [(0, ⟨1, [⟨pkg, 1, 5, rankZero⟩], []⟩), (1, ⟨2, [], [⟨pkg, 1, 5, rankZero⟩]⟩)] })]
    repartIssues := [⟨5, 0, 1, 0, 7, rankZero, false, 0, none, [], [], [], [], 0, none⟩] }

/-- States and operands that meet the hypotheses of `RepartitionSteps`. -/
theorem witness_RepartitionSteps :
    ((reparting 0).ctx? 0).isSome = true ∧ 3 ≠ (reparting 0).pkg ∧ (reparting 0).isHome 0 = true ∧ repartTrap rankOne = none ∧
    State.repartRefused ((reparting 0).repartGroup 0 (rdGrp rankZero)) rankZero = true ∧
    State.repartRefused ((reparting 0).repartGroup 0 (rdGrp rankOne)) rankOne = false ∧
    ((reparting 3).repartIssues.find? fun r => r.serial = 5 && r.asid = 0 && !r.accepted).isSome = true ∧ (reparting 3).isHome 0 = false ∧
    ((reparting 0).repartGroup 0 1).running ≠ [] ∧ ((reparting 0).repartGroup 0 0).running = [] ∧
    ((reparting 0).repartGroup 0 0).held = ⟨0, 1, 5, rankZero⟩ :: [] ∧ ((reparting 0).repartGroup 0 0).held.length < rdG rankZero ∧
    rdG (2 ^ 48) ≤ ((reparting 0).repartGroup 0 0).held.length ∧ (∀ x ∈ ((reparting 0).repartGroup 0 0).held, x.pkg = (reparting 0).pkg) ∧
    ((reparting 0).takeControl (some 3)).isNone = true ∧ ((reparting 0).takeControl none).isNone = true ∧
    (∀ d ∈ [rankZero, rankOne], repartTrap d = none) ∧
    (∀ pkg ∈ [0, 3], (({ reparting pkg with received := [messageFlit 3 3 [1#8]] } : State).takeControl (some 3)).map
      (fun u => u.pkg = pkg && (u.ctx? 0).isSome && u.isHome 0 = (pkg = 0)) = some true ∧ (reparting 3).homeOf 0 = 0 ∧
      (({ reparting pkg with received := [messageFlit 3 3 [1#8]] } : State).takeControl none).isSome = true) ∧
    (({ reparting 3 with received := [messageFlit 3 0 [1#8]] } : State).takeControl (some 0)).map
      (fun u => (u.repartIssues.find? fun r => r.serial = 5 && r.asid = 0 && !r.accepted).isSome) = some true := by
  decide +kernel

/-- Every port has carried nothing since the start; a request to package 3 waits. -/
def quietDomain (failed : Bool) : State :=
  { reparting 0 with
    ports := List.replicate 16 { Port.reset with heard := some 0, failed := failed }, timebase := 2000000
    peers := [⟨0, 3, 0, 1, 0, 4, page, .read 5 0, none, 0⟩] }

/-- States and operands that meet the hypotheses of `MembersFail`. -/
theorem witness_MembersFail :
    (3 ≠ (reparting 0).pkg ∧ (reparting 0).domain.contains 3 = true ∧ (reparting 0).failed.contains 3 = false) ∧
    ¬(7 ≠ (reparting 0).pkg ∧ (reparting 0).domain.contains 7 = true ∧ (reparting 0).failed.contains 7 = false) ∧
    ((quietDomain false).port (Config.portOf 3 % 16)).heard = some 0 ∧ 0 + 200000 ≤ (quietDomain false).ns ∧
    ((reparting 0).port (Config.portOf 3 % 16)).heard = none ∧
    (let s := quietDomain false
     s.answered.lookD 3 0 + 2000000 ≤ s.ns ∧ (∃ p ∈ s.peers, p.pkg = 3 ∧ p.got = none ∧ p.sent + 2000000 ≤ s.ns) ∧
     (s.port 15).failed = false ∧ s.silent 15 = true ∧ (reparting 0).silent 15 = false ∧ ((quietDomain true).port 15).failed = true) ∧
    (demo.takeAny 5).isNone = true ∧
    (({ reparting 0 with received := [messageFlit 5 3 [1#8]] } : State).takeAny 5).map
      (fun u => u.now = (reparting 0).now && u.domain.contains 3 && !(u.failed.contains 3)) = some true := by
  have at_ : ∀ n < 16, ((quietDomain false).port n).heard = some 0 ∧ ((reparting 0).port n).heard = none := by decide +kernel
  have m : Config.portOf 3 % 16 < 16 := Nat.mod_lt _ (by decide)
  exact ⟨by decide, by decide, (at_ _ m).1, by decide, (at_ _ m).2, by decide +kernel, by decide +kernel, by decide +kernel⟩

end Sys2Proof.Tests
end

section
namespace Sys2Proof.Machine

/-- Putting bytes leaves what every address outside their range reads as. -/
theorem byteAt_putBytes_ne (m : List Host.Cell) (a : Nat) (bs : List Byte) (x : Nat) (h : x < a ∨ a + bs.length ≤ x) :
    byteAt (putBytes m a bs) x = byteAt m x := by
  induction bs generalizing m a with
  | nil => rfl
  | cons b bs ih =>
    rw [List.length_cons] at h
    rw [putBytes, ih _ _ (by omega), byteAt_putByte_ne m a x b (by omega)]

/-- Bytes that were put are read back. -/
theorem bytesAt_putBytes_self {m : List Host.Cell} (hm : Memory.wf m) (a : Nat) (bs : List Byte) :
    bytesAt (putBytes m a bs) a bs.length = bs := by
  induction bs generalizing m a with
  | nil => rfl
  | cons b bs ih =>
    rw [putBytes, List.length_cons, bytesAt, ih (Memory.wf_putByte hm a b),
      byteAt_putBytes_ne _ _ _ _ (.inl (Nat.lt_succ_self a)), byteAt_putByte_self hm]

/-- Settles O7: a write changes exactly the bytes it names. -/
theorem bytesWrittenAreRead : Obligations.BytesWrittenAreRead := by
  unfold Obligations.BytesWrittenAreRead
  exact fun m a bs hm => ⟨Memory.wf_putBytes hm a bs, bytesAt_putBytes_self hm a bs, byteAt_putBytes_ne m a bs⟩

end Sys2Proof.Machine
end

section
/-! Stores of bytes in canonical form, 0: what the lemmas of each function of the model are made of (O6). A function keeps the
five stores canonical because the functions it calls do, so there is one lemma for each, named after it, whose proof reads as
the function does: `.f` for a call of `f`, `.ite` for a test, `.foldl` for a loop, and `.update` for a record update that names
none of the five stores. The first part of its name says in what shape the function answers: a `State`, an `Option State`, an
outcome and so on. -/

namespace Sys2Proof.Machine

/-! ### Shapes of an answer -/

/-- The state that an attempt leaves, if it leaves one, has its stores of bytes in canonical form. -/
inductive CanonicalSome : Option State → Prop
  | none : CanonicalSome none
  | some {t : State} : Canonical t → CanonicalSome (some t)

/-- The state that an instruction or a step of the device answers, if it answers one, has its stores of bytes in canonical form. -/
inductive CanonicalNext : Host.Outcome State Fault Refusal → Prop
  | next {t : State} : Canonical t → CanonicalNext (.next t)
  | fault {r : Fault} : CanonicalNext (.fault r)
  | refused {r : Refusal} : CanonicalNext (.refused r)

/-- What an attempt that may stop answers, if it answers something, has a property. -/
inductive WhenOk {ε α : Type} (P : α → Prop) : Except ε α → Prop
  | ok {a : α} : P a → WhenOk P (.ok a)
  | error {e : ε} : WhenOk P (.error e)

/-- The state that a restore leaves, complete or at its first failure, has its stores of bytes in canonical form. -/
inductive CanonicalEither : Except (Nat × Nat × State) State → Prop
  | ok {t : State} : Canonical t → CanonicalEither (.ok t)
  | error {x : Nat × Nat × State} : Canonical x.2.2 → CanonicalEither (.error x)

/-- The state in which a unit's turn ends, or in which an instruction is to run, has its stores of bytes in canonical form. -/
inductive CanonicalTurn : Turn → Prop
  | done {t : State} : Canonical t → CanonicalTurn (.done t)
  | run {i : Instr} {t : State} : Canonical t → CanonicalTurn (.run i t)

/-! ### What an answer holds -/

theorem Canonical.of_snd {α : Type} {p : α × State} {a : α} {t : State} (h : p = (a, t)) (hp : Canonical p.2) : Canonical t := by
  subst h; exact hp

theorem Canonical.of_fst {α : Type} {p : State × α} {a : α} {t : State} (h : p = (t, a)) (hp : Canonical p.1) : Canonical t := by
  subst h; exact hp

theorem Canonical.of_some {o : Option State} {t : State} (h : o = some t) (ho : CanonicalSome o) : Canonical t := by
  subst h
  cases ho
  assumption

theorem Canonical.of_ok {ε : Type} {x : Except ε State} {t : State} (h : x = .ok t) (hx : WhenOk Canonical x) : Canonical t := by
  subst h
  cases hx
  assumption

theorem Canonical.of_ok_snd {ε α : Type} {x : Except ε (α × State)} {a : α} {t : State} (h : x = .ok (a, t))
    (hx : WhenOk (fun r => Canonical r.2) x) : Canonical t := by
  subst h
  cases hx
  assumption

theorem Canonical.of_either_ok {x : Except (Nat × Nat × State) State} {t : State} (h : x = .ok t) (hx : CanonicalEither x) :
    Canonical t := by
  subst h
  cases hx
  assumption

theorem Canonical.of_either_error {x : Except (Nat × Nat × State) State} {e : Nat × Nat × State} (h : x = .error e)
    (hx : CanonicalEither x) : Canonical e.2.2 := by
  subst h
  cases hx
  assumption

theorem Canonical.of_done {x : Turn} {t : State} (h : x = .done t) (hx : CanonicalTurn x) : Canonical t := by
  subst h
  cases hx
  assumption

theorem Canonical.of_run {x : Turn} {i : Instr} {t : State} (h : x = .run i t) (hx : CanonicalTurn x) : Canonical t := by
  subst h
  cases hx
  assumption

theorem Canonical.of_next {x : Host.Outcome State Fault Refusal} {t : State} (h : x = .next t) (hx : CanonicalNext x) :
    Canonical t := by
  subst h
  cases hx
  assumption

/-! ### Tests, loops and record updates -/

theorem Canonical.ite {c : Prop} {_ : Decidable c} {s t : State} (hs : Canonical s) (ht : Canonical t) :
    Canonical (if c then s else t) := by
  split <;> assumption

/-- A state, or what is made of it under a test. -/
theorem Canonical.ite_of_else {c : Prop} {_ : Decidable c} {s t : State} (hs : Canonical s) (ht : Canonical s → Canonical t) :
    Canonical (if c then t else s) :=
  .ite (ht hs) hs

theorem Canonical.ite_of_then {c : Prop} {_ : Decidable c} {s t : State} (hs : Canonical s) (ht : Canonical s → Canonical t) :
    Canonical (if c then s else t) :=
  .ite hs (ht hs)

/-- A record update that names no store of bytes: whatever the other fields become, no proof looks into them. -/
theorem Canonical.update {s : State}
    {agenda tick serial issuing timebase pkg domain failed threads groups units cores records lines freed lrenews sflushes
      poison misses walkCaches walks tickets nextTicket tiles tileWords copies queuesMat partials swaps contexts launches
      blocks saved packets successors placed remoteClaims lastServed signals harnessWaits heldReports wbqs ops epoch pfences
      captures stableSlots fragments digests ports received outbox peers answered code notices runs collLoads repartIssues
      dumps tests preempting arrlog xfrlog faillog fusedMap serviceMap temps selfRefresh fencedPcs freezeOrder regs}
    (hs : Canonical s) :
    Canonical { s with
      agenda := agenda, tick := tick, serial := serial, issuing := issuing, timebase := timebase, pkg := pkg
      domain := domain, failed := failed, threads := threads, groups := groups, units := units, cores := cores
      records := records, lines := lines, freed := freed, lrenews := lrenews, sflushes := sflushes, poison := poison
      misses := misses, walkCaches := walkCaches, walks := walks, tickets := tickets, nextTicket := nextTicket
      tiles := tiles, tileWords := tileWords, copies := copies, queuesMat := queuesMat, partials := partials, swaps := swaps
      contexts := contexts, launches := launches, blocks := blocks, saved := saved, packets := packets
      successors := successors, placed := placed, remoteClaims := remoteClaims, lastServed := lastServed, signals := signals
      harnessWaits := harnessWaits, heldReports := heldReports, wbqs := wbqs, ops := ops, epoch := epoch, pfences := pfences
      captures := captures, stableSlots := stableSlots, fragments := fragments, digests := digests, ports := ports
      received := received, outbox := outbox, peers := peers, answered := answered, code := code, notices := notices
      runs := runs, collLoads := collLoads, repartIssues := repartIssues, dumps := dumps, tests := tests
      preempting := preempting, arrlog := arrlog, xfrlog := xfrlog, faillog := faillog, fusedMap := fusedMap
      serviceMap := serviceMap, temps := temps, selfRefresh := selfRefresh, fencedPcs := fencedPcs
      freezeOrder := freezeOrder, regs := regs } := hs

theorem Canonical.foldl {α : Type} {f : State → α → State} {l : List α} {s : State} (hs : Canonical s)
    (hf : ∀ s a, Canonical s → Canonical (f s a)) : Canonical (l.foldl f s) :=
  List.foldlRecOn l f hs fun s hs a _ => hf s a hs

theorem Canonical.ite_snd {α : Type} {c : Prop} {_ : Decidable c} {p q : α × State} (hp : Canonical p.2) (hq : Canonical q.2) :
    Canonical (if c then p else q).2 := by
  split <;> assumption

theorem CanonicalSome.ite {c : Prop} {_ : Decidable c} {o p : Option State} (ho : CanonicalSome o) (hp : CanonicalSome p) :
    CanonicalSome (if c then o else p) := by
  split <;> assumption

theorem Canonical.getD {o : Option State} {s : State} (ho : CanonicalSome o) (hs : Canonical s) : Canonical (o.getD s) := by
  cases ho with
  | none => exact hs
  | some ht => exact ht

theorem CanonicalSome.map {o : Option State} {f : State → State} (ho : CanonicalSome o)
    (hf : ∀ s, Canonical s → Canonical (f s)) : CanonicalSome (o.map f) := by
  cases ho with
  | none => exact .none
  | some ht => exact .some (hf _ ht)

theorem CanonicalSome.bind {o : Option State} {f : State → Option State} (ho : CanonicalSome o)
    (hf : ∀ s, Canonical s → CanonicalSome (f s)) : CanonicalSome (o.bind f) := by
  cases ho with
  | none => exact .none
  | some ht => exact hf _ ht

theorem CanonicalSome.findSome? {α : Type} {l : List α} {f : α → Option State} (hf : ∀ a, CanonicalSome (f a)) :
    CanonicalSome (l.findSome? f) := by
  induction l with
  | nil => exact .none
  | cons a l ih =>
    rw [List.findSome?_cons]
    split
    next h => exact .some (.of_some h (hf a))
    · exact ih

theorem WhenOk.ite {ε α : Type} {P : α → Prop} {c : Prop} {_ : Decidable c} {x y : Except ε α} (hx : WhenOk P x) (hy : WhenOk P y) :
    WhenOk P (if c then x else y) := by
  split <;> assumption

/-- An attempt to write that is held leaves no state. -/
theorem WhenOk.orHeld {pa : Nat} {o : Option State} (ho : CanonicalSome o) : WhenOk Canonical (orHeld pa o) := by
  cases ho with
  | none => exact .error
  | some ht => exact .ok ht

/-! ### The five stores -/

theorem Memory.wf_nil : Memory.wf [] := ⟨.nil, nofun⟩

theorem Canonical.memory {s : State} (hs : Canonical s) : Memory.wf s.memory := hs.1
theorem Canonical.hostMemory {s : State} (hs : Canonical s) : Memory.wf s.hostMemory := hs.2.1
theorem Canonical.scm {s : State} (hs : Canonical s) : Memory.wf s.scm := hs.2.2.1
theorem Canonical.larder {s : State} (hs : Canonical s) : Memory.wf s.larder := hs.2.2.2.1
theorem Canonical.bank {s : State} (hs : Canonical s) : Memory.wf s.bank := hs.2.2.2.2

theorem Canonical.setMemory {s : State} {m : List Host.Cell} (hs : Canonical s) (hm : Memory.wf m) :
    Canonical { s with memory := m } :=
  ⟨hm, hs.2⟩

theorem Canonical.setHostMemory {s : State} {m : List Host.Cell} (hs : Canonical s) (hm : Memory.wf m) :
    Canonical { s with hostMemory := m } :=
  ⟨hs.1, hm, hs.2.2⟩

theorem Canonical.setScm {s : State} {m : List Host.Cell} (hs : Canonical s) (hm : Memory.wf m) :
    Canonical { s with scm := m } :=
  ⟨hs.1, hs.2.1, hm, hs.2.2.2⟩

theorem Canonical.setLarder {s : State} {m : List Host.Cell} (hs : Canonical s) (hm : Memory.wf m) :
    Canonical { s with larder := m } :=
  ⟨hs.1, hs.2.1, hs.2.2.1, hm, hs.2.2.2.2⟩

theorem Canonical.setBank {s : State} {m : List Host.Cell} (hs : Canonical s) (hm : Memory.wf m) :
    Canonical { s with bank := m } :=
  ⟨hs.1, hs.2.1, hs.2.2.1, hs.2.2.2.1, hm⟩

/-- The numbers of a span are those from its first one on, as many as it has. -/
theorem bounds_of_mem_zip_span {lo n : Nat} {bs : List Byte} {p : Nat × Byte} (h : p ∈ (span lo n).zip bs) :
    lo ≤ p.1 ∧ p.1 < lo + n := by
  induction n generalizing lo bs with
  | zero => simp [span] at h
  | succ n ih =>
    cases bs with
    | nil => simp at h
    | cons b bs =>
      rcases List.mem_cons.mp h with rfl | h
      · exact ⟨Nat.le_refl _, Nat.lt_add_of_pos_right (Nat.succ_pos n)⟩
      · have := ih h; omega

/-- Bytes numbered by a span have rising keys. -/
theorem pairwise_zip_span (lo n : Nat) (bs : List Byte) : ((span lo n).zip bs).Pairwise fun a b => a.1 < b.1 := by
  induction n generalizing lo bs with
  | zero => exact .nil
  | succ n ih =>
    cases bs with
    | nil => exact .nil
    | cons b bs => exact .cons (fun _ hp => (bounds_of_mem_zip_span hp).1) (ih (lo + 1) bs)

/-- Replacing a range of keys by bytes numbered from its start keeps the canonical form. -/
theorem wf_spliceMap_span {m : List Host.Cell} (hm : Memory.wf m) (lo n : Nat) (bs : List Byte) :
    Memory.wf (spliceMap 0 m lo n ((span lo n).zip bs)) := by
  unfold spliceMap
  refine ⟨?_, fun p hp => ?_⟩
  · simp only [List.pairwise_append, List.mem_append, List.mem_filter, decide_eq_true_eq]
    refine ⟨⟨hm.1.filter _, (pairwise_zip_span lo n bs).filter _, ?_⟩, hm.1.filter _, ?_⟩
    · rintro a ⟨-, ha⟩ b ⟨hb, -⟩
      exact Nat.lt_of_lt_of_le ha (bounds_of_mem_zip_span hb).1
    · rintro a (⟨-, ha⟩ | ⟨ha, -⟩) b ⟨-, hb⟩
      · omega
      · exact Nat.lt_of_lt_of_le (bounds_of_mem_zip_span ha).2 hb
  · simp only [List.mem_append, List.mem_filter, decide_eq_true_eq] at hp
    obtain (⟨hp, -⟩ | ⟨-, hp⟩) | ⟨hp, -⟩ := hp
    · exact hm.2 p hp
    · exact hp
    · exact hm.2 p hp

end Sys2Proof.Machine
end

section
/-! Stores of bytes in canonical form, 1: the ports' sending side, single parts of the state, memory and its write-back queues,
and the fault queue. Bytes change in `performed`, `tryWrite` and `tryLeafWrite`. -/

namespace Sys2Proof.Machine

variable {s : State}

/-! ### Sending through a port -/

theorem Canonical.updPort {n f} (hs : Canonical s) : Canonical (s.updPort n f) :=
  .update hs

theorem Canonical.emit {n f} (hs : Canonical s) : Canonical (s.emit n f) :=
  .update (.updPort hs)

theorem Canonical.pumpOne {n c} (hs : Canonical s) : Canonical (s.pumpOne n c) := by
  unfold State.pumpOne
  dsimp only
  split
  · exact hs
  · exact .ite (.ite_of_else (.updPort hs) .emit) hs

theorem Canonical.pump {n c} (hs : Canonical s) : Canonical (s.pump n c) :=
  .foldl hs fun _ _ ht => .pumpOne ht

theorem Canonical.pumpAll {n} (hs : Canonical s) : Canonical (s.pumpAll n) :=
  .foldl hs fun _ _ ht => .pump ht

theorem Canonical.transmit {c dest m} (hs : Canonical s) : Canonical (s.transmit c dest m) :=
  .pump (.updPort (.update hs))

theorem CanonicalSome.takeMessage {cls pkg} (hs : Canonical s) : CanonicalSome (s.takeMessage cls pkg) := by
  unfold State.takeMessage
  cases State.messageOf s.received cls pkg with
  | none => exact .none
  | some m => exact .some (.update hs)

theorem CanonicalSome.takeAny {cls} (hs : Canonical s) : CanonicalSome (s.takeAny cls) :=
  .findSome? fun _ => .takeMessage hs

theorem Canonical.send {m} (hs : Canonical s) : Canonical (s.send m) := by
  unfold State.send
  dsimp only
  split
  · exact .foldl (.update hs) fun _ _ ht => .transmit ht
  · exact .update hs

/-! ### Single parts of the state -/

theorem Canonical.setThread {k t} (hs : Canonical s) : Canonical (s.setThread k t) :=
  .update hs

theorem Canonical.updThread {k f} (hs : Canonical s) : Canonical (s.updThread k f) :=
  .update hs

theorem Canonical.setUnit {u v} (hs : Canonical s) : Canonical (s.setUnit u v) :=
  .update hs

theorem Canonical.setCore {c v} (hs : Canonical s) : Canonical (s.setCore c v) :=
  .update hs

theorem Canonical.updCore {c f} (hs : Canonical s) : Canonical (s.updCore c f) :=
  .setCore hs

theorem Canonical.updBlock {b f} (hs : Canonical s) : Canonical (s.updBlock b f) :=
  .update hs

theorem Canonical.updCtx {a f} (hs : Canonical s) : Canonical (s.updCtx a f) :=
  .update hs

theorem Canonical.updLaunch {l f} (hs : Canonical s) : Canonical (s.updLaunch l f) :=
  .update hs

theorem Canonical.updGroup {g f} (hs : Canonical s) : Canonical (s.updGroup g f) :=
  .update hs

theorem Canonical.updRecord {r f} (hs : Canonical s) : Canonical (s.updRecord r f) :=
  .update hs

theorem Canonical.fresh (hs : Canonical s) : Canonical s.fresh.2 :=
  .update hs

theorem Canonical.logArray {src cls rest} (hs : Canonical s) : Canonical (s.logArray src cls rest) :=
  .update hs

theorem Canonical.countFor {core launch tid e} (hs : Canonical s) : Canonical (s.countFor core launch tid e) :=
  .ite hs (.updCore hs)

theorem Canonical.count {k tid e} (hs : Canonical s) : Canonical (s.count k tid e) :=
  .countFor hs

/-! ### Memory -/

theorem Canonical.walkFill {die asid va} (hs : Canonical s) : Canonical (s.walkFill die asid va) := by
  unfold State.walkFill
  split
  · exact hs
  · exact .update hs

theorem Canonical.tlbFill {core asid l} (hs : Canonical s) : Canonical (s.tlbFill core asid l) :=
  .updCore hs

theorem Canonical.performed {pa bs} (hs : Canonical s) : Canonical (s.performed pa bs) :=
  .setMemory (s := { s with poison := _ }) (.update hs) (Memory.wf_putBytes hs.memory pa bs)

theorem Canonical.logWords {l} (hs : Canonical s) : Canonical (s.logWords l) := by
  unfold State.logWords
  refine .foldl hs fun _ _ ht => ?_
  split
  · exact .logArray ht
  · exact ht

theorem Canonical.logBad {pa n} (hs : Canonical s) : Canonical (s.logBad pa n) :=
  .logWords hs

theorem Canonical.enqueueWb {die pa bs} (hs : Canonical s) : Canonical (s.enqueueWb die pa bs) :=
  .update (.performed hs)

theorem Canonical.noteWrite {pa} (hs : Canonical s) : Canonical (s.noteWrite pa) :=
  .update hs

theorem CanonicalSome.tryWrite {who no die pa bs pdom} (hs : Canonical s) : CanonicalSome (s.tryWrite who no die pa bs pdom) :=
  .ite .none (.ite (.some (.performed hs)) (.ite .none (.ite (.ite (.some (.enqueueWb hs)) .none)
    (.ite (.some (.setScm (.performed hs) (Memory.wf_putBytes hs.scm pa bs))) .none))))

theorem Canonical.setLine {n l} (hs : Canonical s) : Canonical (s.setLine n l) :=
  .update hs

theorem Canonical.askPeer {asid bid n l use pa req} (hs : Canonical s) : Canonical (s.askPeer asid bid n l use pa req) :=
  .send (.update (.fresh hs))

theorem CanonicalSome.tryLeafWrite {who no die asid bid pa l bs use} (hs : Canonical s) :
    CanonicalSome (s.tryLeafWrite who no die asid bid pa l bs use) := by
  unfold State.tryLeafWrite
  split
  · exact .tryWrite hs
  · exact .some (.setHostMemory hs (Memory.wf_putBytes hs.hostMemory pa bs))
  · exact .some (.askPeer hs)

theorem CanonicalSome.tryWriteBack {l} (hs : Canonical s) : CanonicalSome (s.tryWriteBack l) :=
  .ite (.map (.tryLeafWrite hs) fun _ ht => .setLine ht) (.some hs)

theorem Canonical.dropLine {n} (hs : Canonical s) : Canonical (s.dropLine n) :=
  .setLine hs

theorem Canonical.partialToDie {p} (hs : Canonical s) : Canonical (s.partialToDie p) := by
  unfold State.partialToDie
  dsimp only
  split
  · exact .update hs
  · exact .countFor (.update hs)

theorem Canonical.partialToLine {p} (hs : Canonical s) : Canonical (s.partialToLine p) :=
  .foldl (.update hs) fun _ _ ht => .countFor (.performed ht)

theorem CanonicalSome.tryMerge {pa} (hs : Canonical s) : CanonicalSome (s.tryMerge pa) := by
  unfold State.tryMerge
  refine .ite (.ite .none (.some (.foldl (.foldl hs fun _ _ ht => ?_) fun _ _ ht => ?_))) (.some hs)
  · split
    · exact .partialToDie ht
    · exact ht
  · split
    · exact .partialToLine ht
    · exact ht

theorem CanonicalSome.tryAll {α : Type} {f : α → State → Option State} {l : List α} (hs : Canonical s)
    (hf : ∀ a s, Canonical s → CanonicalSome (f a s)) :
    CanonicalSome (tryAll f l s) := by
  induction l generalizing s with
  | nil => exact .some hs
  | cons a l ih => exact .bind (hf a s hs) fun _ => ih

theorem CanonicalSome.tryRecallRead {space pa} (hs : Canonical s) : CanonicalSome (s.tryRecallRead space pa) :=
  .ite .none
    (.bind (.bind (.ite (.tryMerge hs) (.some hs)) fun _ ht => .tryAll ht fun _ _ hu => .tryWriteBack hu) fun _ ht =>
      .ite .none (.some ht))

theorem CanonicalSome.tryRecallWrite {space pa but} (hs : Canonical s) : CanonicalSome (s.tryRecallWrite space pa but) :=
  .bind
    (.bind (.ite (.tryMerge hs) (.some hs)) fun _ ht =>
      .tryAll ht fun _ _ hu => .map (.tryWriteBack hu) fun _ hv => .dropLine hv)
    fun _ ht => .ite .none (.some ht)

theorem CanonicalSome.tryStore {who no die asid bid pa l bs use} (hs : Canonical s) :
    CanonicalSome (s.tryStore who no die asid bid pa l bs use) :=
  .bind (.tryAll hs fun _ _ ht => .tryRecallWrite ht) fun _ ht => .tryLeafWrite ht

/-! ### The fault queue -/

theorem Canonical.hubStore {asid va pa l bs} (hs : Canonical s) : Canonical (s.hubStore asid va pa l bs) := by
  unfold State.hubStore
  refine .foldl hs fun _ _ ht => ?_
  dsimp only
  split
  next h => exact .of_some h (.ite (.tryStore (.fresh ht)) .none)
  · exact .update (.fresh ht)

theorem Canonical.hubPut {asid pa n v} (hs : Canonical s) : Canonical (s.hubPut asid pa n v) :=
  .hubStore hs

theorem Canonical.ctxStore {asid va bs} (hs : Canonical s) : Canonical (s.ctxStore asid va bs) := by
  unfold State.ctxStore
  split
  · exact hs
  · exact .hubStore hs

theorem Canonical.ctxPut {asid va n v} (hs : Canonical s) : Canonical (s.ctxPut asid va n v) :=
  .ctxStore hs

theorem Canonical.ctxStoreUnits {asid va units} (hs : Canonical s) : Canonical (s.ctxStoreUnits asid va units) :=
  .foldl hs fun _ _ ht => .ctxStore ht

theorem Canonical.putReport {asid c entry} (hs : Canonical s) : Canonical (s.putReport asid c entry) :=
  .ite_of_else (.updCtx (.hubPut (.ctxStore hs))) .send

theorem Canonical.fileReport {asid entry} (hs : Canonical s) : Canonical (s.fileReport asid entry) := by
  unfold State.fileReport
  split
  · exact hs
  · exact .ite (.putReport hs) (.update hs)

theorem Canonical.report {asid cause detail record} (hs : Canonical s) : Canonical (s.report asid cause detail record) :=
  .fileReport hs

/-! ### Fetch -/

theorem Canonical.askCode {asid launch pa l} (hs : Canonical s) : Canonical (s.askCode asid launch pa l) :=
  .ite hs (.askPeer hs)

end Sys2Proof.Machine
end

section
/-! Stores of bytes in canonical form, 2: records and the crock, traps and parks, an instruction in every thread that issues
it, tickets, stash write-backs and global memory. No bytes change but through the functions of part 1. -/

namespace Sys2Proof.Machine

variable {s : State}

/-! ### Records, drawer and crock -/

theorem Canonical.syncRecord {rid} (hs : Canonical s) : Canonical (s.syncRecord rid) := by
  unfold State.syncRecord
  split
  · exact hs
  · split
    · exact .ctxStoreUnits hs
    · exact hs

theorem Canonical.launchBin {core i} (hs : Canonical s) : Canonical (s.launchBin core i) := by
  unfold State.launchBin
  split
  · exact hs
  · exact .updCore hs

theorem Canonical.runBin {core i n} (hs : Canonical s) : Canonical (State.runBin core i n s) := by
  induction n generalizing s with
  | zero => exact hs
  | succ n ih =>
    unfold State.runBin
    split
    · exact hs
    · exact .ite (ih (.launchBin hs)) hs

theorem CanonicalSome.joinBin {core u} (hs : Canonical s) : CanonicalSome (s.joinBin core u) := by
  unfold State.joinBin
  split
  · exact .some hs
  · split
    · exact .some (.runBin (.updCore hs))
    · split
      · exact .none
      · exact .some (.runBin (.updCore hs))

theorem Canonical.feedPass {core us} (hs : Canonical s) : Canonical (State.feedPass core us s) := by
  induction us generalizing s with
  | nil => exact hs
  | cons u us ih =>
    unfold State.feedPass
    split
    next h => exact ih (.updCore (.of_some h (.joinBin hs)))
    · exact ih hs

theorem Canonical.pressBins {core n} (hs : Canonical s) : Canonical (State.pressBins core n s) := by
  induction n generalizing s with
  | zero => exact hs
  | succ n ih =>
    unfold State.pressBins
    refine .ite hs (.ite (ih (.feedPass hs)) ?_)
    split
    · exact hs
    · exact ih (.launchBin hs)

theorem Canonical.enterUnit {core u} (hs : Canonical s) : Canonical (s.enterUnit core u) := by
  unfold State.enterUnit
  refine .pressBins ?_
  split
  next h => exact .of_some h (.joinBin hs)
  · exact .updCore hs

theorem Canonical.settleUnit {u} (hs : Canonical s) : Canonical (s.settleUnit u) := by
  unfold State.settleUnit
  dsimp only
  split
  · exact hs
  · exact .ite (.enterUnit (.foldl hs fun _ _ ht => .updRecord ht)) hs

theorem Canonical.satisfyRecords {f} (hs : Canonical s) : Canonical (s.satisfyRecords f) :=
  .foldl (.foldl hs fun _ _ ht => .updRecord ht) fun _ _ ht => .settleUnit ht

theorem Canonical.wake {f} (hs : Canonical s) : Canonical (s.wake f) :=
  .update (.satisfyRecords hs)

theorem Canonical.reaim {f event} (hs : Canonical s) : Canonical (s.reaim f event) :=
  .foldl (.update hs) fun _ _ ht => .syncRecord (.updRecord ht)

/-! ### Operations that many instructions share -/

theorem Canonical.leaveSlot {k} (hs : Canonical s) : Canonical (s.leaveSlot k) :=
  .ite (.update hs) (.update hs)

theorem Canonical.freeMiss {key} (hs : Canonical s) : Canonical (s.freeMiss key) :=
  .update hs

theorem Canonical.endThread {k} (hs : Canonical s) : Canonical (s.endThread k) := by
  unfold State.endThread
  split
  · exact hs
  · exact .updBlock (.leaveSlot (.foldl hs fun _ _ ht => .freeMiss ht))

theorem Canonical.unhandled {k tcause tinfo word} (hs : Canonical s) : Canonical (s.unhandled k tcause tinfo word) := by
  unfold State.unhandled
  split
  · exact hs
  · exact .ite (.endThread (.fileReport (.updBlock hs))) (.setThread (.updBlock hs))

theorem Canonical.trapWith {k cause detail info words log} (hs : Canonical s) :
    Canonical (s.trapWith k cause detail info words log) := by
  unfold State.trapWith
  split
  · exact hs
  · exact .ite (.unhandled hs) (.setThread hs)

theorem Canonical.trap {k cause detail info} (hs : Canonical s) : Canonical (s.trap k cause detail info) :=
  .trapWith hs

theorem Canonical.holdOverflow {k size cycle p} (hs : Canonical s) : Canonical (s.holdOverflow k size cycle p) := by
  unfold State.holdOverflow
  dsimp only
  split
  · exact .updThread hs
  · exact .ite_of_then (.updThread hs) fun hu => .ite_of_else hu fun ht => .fileReport (.updCtx ht)

theorem Canonical.writeRecord {k t b hdr p place} (hs : Canonical s) : Canonical (s.writeRecord k t b hdr p place) :=
  .syncRecord (.leaveSlot (.update (.fresh hs)))

theorem Canonical.parkThread {k p} (hs : Canonical s) : Canonical (s.parkThread k p) := by
  unfold State.parkThread
  split
  · dsimp only
    split
    · exact .holdOverflow hs
    · exact .writeRecord hs
  · exact hs

theorem Canonical.holdReplay {k} (hs : Canonical s) : Canonical (s.holdReplay k) :=
  .updThread hs

theorem Canonical.parkAfresh {k n} (hs : Canonical s) : Canonical (s.parkAfresh k n) := by
  unfold State.parkAfresh
  split
  · exact hs
  · exact .ite (.setThread hs) (.parkThread hs)

theorem Canonical.settleCycle {cycle} (hs : Canonical s) : Canonical (s.settleCycle cycle) :=
  .foldl hs fun _ _ ht => .settleUnit ht

theorem Canonical.parkOn {k event keep log} (hs : Canonical s) : Canonical (s.parkOn k event keep log) := by
  unfold State.parkOn
  split
  · exact hs
  · exact .ite (.setThread hs) (.parkThread hs)

theorem Canonical.dropWalk {w} (hs : Canonical s) : Canonical (s.dropWalk w) :=
  .update (.freeMiss hs)

theorem Canonical.settleAsync {k cycle} (hs : Canonical s) : Canonical (s.settleAsync k cycle) := by
  unfold State.settleAsync
  split
  · exact hs
  · split
    · exact hs
    · refine .ite hs ?_
      dsimp only
      split
      · exact .parkThread (.setThread (.dropWalk hs))
      · exact .parkThread hs

theorem Canonical.askPark {k mode event wid log} (hs : Canonical s) : Canonical (s.askPark k mode event wid log) :=
  .updThread hs

theorem Canonical.issueLane {i h k} (hs : Canonical s) {body : Head → Nat → Thread → State → State}
    (hbody : ∀ a b c s, Canonical s → Canonical (body a b c s)) :
    Canonical (issueLane i h body s k) := by
  unfold Machine.issueLane
  split
  · exact hs
  · split
    · exact .trap hs
    · exact .setThread hs
    · exact .ite_of_then (.setThread hs) fun ht => .ite (hbody _ _ _ _ ht) (hbody _ _ _ _ hs)

theorem CanonicalNext.perLane {i} (hs : Canonical s) {body : Head → Nat → Thread → State → State}
    (hbody : ∀ a b c s, Canonical s → Canonical (body a b c s)) :
    CanonicalNext (perLane i body s) := by
  unfold Machine.perLane
  split
  · exact .next (.foldl hs fun _ _ ht => .issueLane ht hbody)
  · exact .next hs

theorem CanonicalNext.perLanePark {i} (hs : Canonical s) {body : Head → Nat → Thread → State → State}
    (hbody : ∀ a b c s, Canonical s → Canonical (body a b c s)) :
    CanonicalNext (perLanePark i body s) := by
  unfold Machine.perLanePark
  split
  · exact .next (.settleCycle (.foldl hs fun _ _ ht => .issueLane ht hbody))
  · exact .next hs

theorem CanonicalNext.alu {i tid f} (hs : Canonical s) : CanonicalNext (alu i tid f s) :=
  .perLane hs fun _ _ _ _ ht => .count (.setThread ht)

/-! ### Translation tickets -/

theorem Canonical.ticketFor {core asid reason base size self} (hs : Canonical s) :
    Canonical (s.ticketFor core asid reason base size self).2.2 := by
  unfold State.ticketFor
  split
  · exact hs
  · exact .update hs

theorem Canonical.faultTicket {k va reason level entry base size a waiters} (hs : Canonical s) :
    Canonical (s.faultTicket k va reason level entry base size a waiters).2 := by
  unfold State.faultTicket
  dsimp only
  split
  · exact .report (.ite_of_else (.ticketFor hs) .logBad)
  · exact .ite_of_else (.ticketFor hs) .logBad

theorem Canonical.fetchFault {ks cycle reason level entry base size va} (hs : Canonical s) :
    Canonical (s.fetchFault ks cycle reason level entry base size va) := by
  unfold State.fetchFault
  refine .settleCycle (.foldl hs fun _ _ ht => ?_)
  split
  · exact ht
  · exact ht
  · exact .parkAfresh (.faultTicket ht)

/-! ### Write-backs of stash lines -/

theorem Canonical.flushSome {l} (hs : Canonical s) : Canonical (s.flushSome l) :=
  .foldl hs fun _ _ ht => .getD (.tryWriteBack ht) ht

theorem Canonical.releaseStash {bid} (hs : Canonical s) : Canonical (s.releaseStash bid) :=
  .flushSome hs

theorem Canonical.releasing {k bid} (hs : Canonical s) {f : State → State} (hf : ∀ s, Canonical s → Canonical (f s)) :
    Canonical (s.releasing k bid f) :=
  .ite (.holdReplay (.releaseStash hs)) (hf _ (.releaseStash hs))

/-! ### Global memory -/

theorem Canonical.fillPieces {core asid ps} (hs : Canonical s) : Canonical (s.fillPieces core asid ps) :=
  .foldl hs fun _ _ ht => .ite ht (.tlbFill (.walkFill ht))

theorem Canonical.setIncoming {wid v} (hs : Canonical s) : Canonical (s.setIncoming wid v) :=
  .ite hs (.update hs)

theorem Canonical.logPieces {x} (hs : Canonical s) : Canonical (s.logPieces x) :=
  .foldl hs fun _ _ ht => .ite (.logBad ht) ht

theorem CanonicalSome.tryTouch {ps} (hs : Canonical s) : CanonicalSome (s.tryTouch ps) :=
  .tryAll hs fun _ _ ht => .tryRecallRead ht

theorem CanonicalSome.tryPieces {x v} (hs : Canonical s) : CanonicalSome (s.tryPieces x v) :=
  .tryAll hs fun _ _ ht => .tryStore ht

theorem CanonicalSome.trySend {x} (hs : Canonical s) : CanonicalSome (s.trySend x) :=
  .tryAll hs fun _ _ ht =>
    .ite (.some (.askPeer ht)) (.ite (.map (.tryTouch ht) fun _ hu => .update (.fresh hu)) (.tryPieces ht))

theorem CanonicalSome.tryRedPartial {x op ty pa} (hs : Canonical s) : CanonicalSome (s.tryRedPartial x op ty pa) := by
  unfold State.tryRedPartial
  refine .bind (.bind (.ite .none (.tryAll hs fun _ _ ht => .map (.tryWriteBack ht) fun _ hu => .dropLine hu))
    fun _ ht => .ite (.tryMerge ht) (.some ht)) fun u hu => ?_
  split
  · exact .some (.countFor (.update hu))
  · extract_lets mine v die theirs made
    have hv : Canonical v := by
      clear_value mine
      unfold v
      split
      · exact .ite (.partialToDie hu) hu
      · exact hu
    have hm : CanonicalSome made := by
      clear_value theirs
      unfold made
      split
      · exact .ite (.tryMerge hv) (.some hv)
      · exact .some hv
    exact .map hm fun _ hw => .update hw

theorem Canonical.holdWrite {p x} (hs : Canonical s) : Canonical (s.holdWrite p x) :=
  .updBlock hs

theorem Canonical.giveOld {who old} (hs : Canonical s) : Canonical (s.giveOld who old) := by
  unfold State.giveOld
  split
  · exact .update hs
  · exact hs

theorem Canonical.acknowledge {x data} (hs : Canonical s) : Canonical (s.acknowledge x data) := by
  unfold State.acknowledge
  dsimp only
  split
  · exact .send (.ite (.freeMiss hs) hs)
  · exact .send (.ite (.freeMiss hs) hs)
  · exact .ite (.freeMiss hs) hs

theorem CanonicalSome.tryPerform {x} (hs : Canonical s) : CanonicalSome (s.tryPerform x) := by
  unfold State.tryPerform
  refine .ite .none (.ite (.trySend hs) ?_)
  dsimp only
  split
  · exact .some hs
  · exact .map (.tryTouch hs) fun _ ht => .acknowledge (.setIncoming (.logPieces ht))
  · exact .map (.tryPieces hs) fun _ ht => .acknowledge ht
  · refine .bind (.tryTouch hs) fun _ ht => .map ?_ fun _ hu => .acknowledge (.giveOld (.countFor (.setIncoming hu)))
    split
    · exact .tryPieces ht
    · exact .some ht
  · split
    · exact .ite (.map (.tryRedPartial hs) fun _ ht => .acknowledge ht)
        (.bind (.tryTouch hs) fun _ ht => .map (.tryPieces ht) fun _ hu => .acknowledge (.countFor hu))
    · exact .some hs

theorem Canonical.releaseOf {x} (hs : Canonical s) : Canonical (s.releaseOf x) :=
  .ite (.releaseStash hs) hs

theorem Canonical.accept {x} (hs : Canonical s) : Canonical (s.accept x) := by
  unfold State.accept
  dsimp only
  split
  next h => exact .of_some h (.tryPerform (.releaseOf hs))
  · exact .update (.releaseOf hs)

theorem CanonicalSome.tryOp {x} (hs : Canonical s) : CanonicalSome (s.tryOp x) :=
  .tryPerform (.update (.releaseOf hs))

theorem Canonical.retryOp {x} (hs : Canonical s) : Canonical (s.retryOp x) :=
  .getD (.tryOp hs) (.releaseOf hs)

theorem Canonical.settleOps (hs : Canonical s) : Canonical s.settleOps :=
  .ite hs (.foldl hs fun _ _ ht => .retryOp ht)

theorem CanonicalNext.event (hs : Canonical s) {f : State → State} (hf : ∀ s, Canonical s → Canonical (f s)) :
    CanonicalNext (event f s) :=
  .next (.settleOps (hf _ hs))

theorem CanonicalNext.arrival {cls pkg} (hs : Canonical s) {f : State → State} (hf : ∀ s, Canonical s → Canonical (f s)) :
    CanonicalNext (arrival cls pkg f s) :=
  .event hs fun _ ht => .getD (.map (.takeMessage ht) hf) ht

theorem CanonicalNext.arrivalAny {cls} (hs : Canonical s) {f : State → State} (hf : ∀ s, Canonical s → Canonical (f s)) :
    CanonicalNext (arrivalAny cls f s) :=
  .event hs fun _ ht => .getD (.map (.takeAny ht) hf) ht

theorem Canonical.admitPaired {k x} (hs : Canonical s) : Canonical (s.admitPaired k x) := by
  unfold State.admitPaired
  split
  · exact .accept hs
  · dsimp only
    split
    · exact .ite (.accept (.holdWrite hs)) (.acknowledge (.holdWrite hs))
    · exact .ite (.accept (.holdWrite hs)) (.acknowledge (.holdWrite hs))
    · exact .updThread (.setIncoming hs)
    · exact .accept hs

theorem Canonical.logFault {k wid kind log va reason level entry base size waiters} (hs : Canonical s) :
    Canonical (s.logFault k wid kind log va reason level entry base size waiters) := by
  unfold State.logFault
  dsimp only
  split
  · exact .freeMiss (.faultTicket hs)
  · exact .ite (.setThread (.freeMiss (.faultTicket hs))) (.askPark (.setThread (.freeMiss (.faultTicket hs))))

theorem Canonical.replayAccess {k i log} (hs : Canonical s) : Canonical (s.replayAccess k i log) := by
  unfold State.replayAccess
  split
  · extract_lets asid core
    split
    next wid u hu =>
      have hu : Canonical u := .of_snd hu (.ite_snd hs (.fresh hs))
      extract_lets t
      split
      · exact .ite (.logFault (.setThread hu)) hu
      next ps _ =>
        have hv : Canonical ((u.setThread k t).fillPieces core asid ps) := .fillPieces (.setThread hu)
        exact .ite (.trapWith (.updThread hv)) (.admitPaired (.fresh hv))
  · exact hs

theorem Canonical.newWid {i h} (hs : Canonical s) : Canonical (s.newWid i h).2 := by
  unfold State.newWid
  split
  · exact hs
  · exact .fresh hs

theorem Canonical.takeMiss {core asid cycle key g} (hs : Canonical s) : Canonical (s.takeMiss core asid cycle key g) :=
  .foldl hs fun _ _ ht => .ite (.update ht) (.update ht)

theorem Canonical.issueGlobal {i g h k t} (hs : Canonical s) : Canonical (issueGlobal i g h k t s) := by
  unfold Machine.issueGlobal
  dsimp only
  split
  · exact .trap hs
  · refine .ite ?_ (.update (.updThread (.takeMiss (.setThread (.fresh (.newWid hs))))))
    split
    · exact .ite_of_else (.fresh (.newWid hs)) fun ht => .logFault (.freeMiss (.takeMiss (.setThread ht)))
    · exact .ite (.trap (.fresh (.newWid hs))) (.admitPaired (.fillPieces (.takeMiss (.setThread (.fresh (.newWid hs))))))

theorem CanonicalNext.globalAccess {i acc} (hs : Canonical s) : CanonicalNext (globalAccess i acc s) := by
  unfold Machine.globalAccess
  split
  · exact .next hs
  · dsimp only
    split
    · exact .perLane hs fun _ _ _ _ ht => .setThread ht
    · refine .perLane hs fun _ _ _ _ ht => ?_
      split
      · exact .issueGlobal ht
      · exact ht

theorem Canonical.fenceBody {i k t} (hs : Canonical s) : Canonical (fenceBody i k t s) :=
  .accept (.fresh (.setThread hs))

end Sys2Proof.Machine
end

section
/-! Stores of bytes in canonical form, 3: the larder, control flow, lane instructions, barrier objects and the Harness. The
larder's bytes change in `putLarder`, `zeroLine` and `initUnits`. -/

namespace Sys2Proof.Machine

variable {s : State}

/-! ### The larder -/

theorem Canonical.cleanWords {a n} (hs : Canonical s) : Canonical (s.cleanWords a n) :=
  .ite hs (.update hs)

theorem Canonical.putLarder {a bs} (hs : Canonical s) : Canonical (s.putLarder a bs) :=
  .setLarder (.cleanWords hs) (Memory.wf_putBytes hs.larder a bs)

theorem Canonical.zeroLine {no} (hs : Canonical s) : Canonical (s.zeroLine no) :=
  .setLarder (.cleanWords hs) (Map.wf_filter hs.larder _)

theorem Canonical.initUnits {core phys full} (hs : Canonical s) : Canonical (s.initUnits core phys full) :=
  .foldl (.foldl (.setLarder hs (Map.wf_filter hs.larder _)) fun _ _ ht => .cleanWords ht) fun _ _ ht => .setLine ht

theorem Canonical.larWrite {core a ea bs} (hs : Canonical s) : Canonical (s.larWrite core a ea bs) :=
  .setLine (.putLarder (.ite (.zeroLine hs) hs))

theorem Canonical.fillLine {bid no ea} (hs : Canonical s) : Canonical (s.fillLine bid no ea) :=
  .wake (.setLine hs)

theorem Canonical.wakeRange {bid base size} (hs : Canonical s) : Canonical (s.wakeRange bid base size) :=
  .wake (.update hs)

theorem Canonical.flushLines {bid b a ls} (hs : Canonical s) : Canonical (s.flushLines bid b a ls) :=
  .flushSome hs

theorem Canonical.expireAlloc {bid b a} (hs : Canonical s) : Canonical (s.expireAlloc bid b a) :=
  .ite (.updBlock hs) (.ite_of_then (.foldl (.flushLines hs) fun _ _ ht => .ite ht (.dropLine ht)) .updBlock)

theorem CanonicalSome.claimStash {b va no} (hs : Canonical s) : CanonicalSome (s.claimStash b va no) := by
  unfold State.claimStash
  split
  · exact .some hs
  · exact .tryRecallWrite hs

theorem Canonical.endAlloc {bid a} (hs : Canonical s) : Canonical (s.endAlloc bid a) := by
  unfold State.endAlloc
  split
  · exact hs
  · exact .ite_of_then (.wakeRange (.updBlock (.fresh (.flushLines hs)))) .update

theorem Canonical.advance {k st i h} (hs : Canonical s) : Canonical (s.advance k st i h).2 := by
  unfold State.advance
  split
  · exact .updThread (.newWid hs)
  · exact .updThread (.newWid hs)
  · refine .updThread ?_
    split
    · exact hs
    · exact .fresh hs

theorem Canonical.stageTrap {k st cause detail info} (hs : Canonical s) : Canonical (s.stageTrap k st cause detail info) := by
  unfold State.stageTrap
  split
  · exact .trap hs
  · exact .trapWith (.updThread hs)
  · exact .trapWith (.updThread hs)

theorem Canonical.stageWait {k st event log} (hs : Canonical s) : Canonical (s.stageWait k st event log) := by
  unfold State.stageWait
  split
  · split
    · exact hs
    · exact .ite (.setThread hs) (.parkThread (.setThread hs))
  · exact .parkOn hs

theorem Canonical.larPerform {k wid b a x} (hs : Canonical s) : Canonical (s.larPerform k wid b a x) :=
  .ite (.setIncoming (.ite (.setLine hs) hs))
    (.ite_of_else (.ite_of_else (.ite_of_else (.larWrite hs) .setLine) .flushLines) .fillLine)

theorem Canonical.retryStage {k st} (hs : Canonical s) : Canonical (s.retryStage k st) :=
  .updThread hs

theorem Canonical.beforeStash {bid b a x} (hs : Canonical s) : Canonical (s.beforeStash bid b a x).1 := by
  unfold State.beforeStash
  split
  · exact hs
  · extract_lets wide t
    have ht : Canonical t := .ite (.releaseStash hs) hs
    split
    · exact ht
    · split
      next h => exact .of_some h (.claimStash ht)
      · exact ht

theorem Canonical.larAccess {k st i h x} (hs : Canonical s) : Canonical (s.larAccess k st i h x) := by
  unfold State.larAccess
  split
  · exact hs
  · split
    · exact .stageTrap hs
    · exact hs
    · refine .ite (.ite (.stageWait hs) ?_) (.ite (.stageWait hs) (.ite (.stageTrap hs)
        (.ite (.ite (.logFault (.advance (.logWords hs))) hs) ?_)))
      · dsimp only
        split
        · exact .stageWait (.setLine (.fillPieces hs))
        · exact .ite (.logFault (.advance hs)) hs
      · split
        next h => exact .retryStage (.of_fst h (.beforeStash hs))
        next h => exact .larPerform (.advance (.of_fst h (.beforeStash hs)))

theorem Canonical.replay {k i log} (hs : Canonical s) : Canonical (s.replay k i log) := by
  unfold State.replay
  split
  · exact .larAccess hs
  · exact .replayAccess hs

theorem CanonicalNext.execLdl {h m mode} (hs : Canonical s) : CanonicalNext (execLdl h m mode s) := by
  unfold Machine.execLdl
  refine .perLanePark hs fun _ _ _ _ ht => ?_
  split
  · exact .larAccess ht
  · exact ht

theorem CanonicalNext.execStl {h m mode} (hs : Canonical s) : CanonicalNext (execStl h m mode s) := by
  unfold Machine.execStl
  refine .perLanePark hs fun _ _ _ _ ht => ?_
  split
  · exact .larAccess ht
  · exact ht

theorem Canonical.answer {k t i h v} (hs : Canonical s) : Canonical (s.answer k t i h v) :=
  .setIncoming (.setThread (.newWid hs))

theorem Canonical.giveAlloc {bid w u tag full} (hs : Canonical s) : Canonical (s.giveAlloc bid w u tag full) := by
  unfold State.giveAlloc
  split
  · exact hs
  · exact .updBlock (.initUnits hs)

theorem Canonical.lallocBody {i empty h k t} (hs : Canonical s) : Canonical (lallocBody i empty h k t s) := by
  unfold Machine.lallocBody
  dsimp only
  split
  · exact hs
  · refine .ite (.answer hs) ?_
    split
    · exact .answer hs
    · exact .answer (.giveAlloc hs)

theorem Canonical.onAlloc {h k t} (hs : Canonical s) {f : Head → Nat → Thread → Block → Alloc → State → State}
    (hf : ∀ a b c d e s, Canonical s → Canonical (f a b c d e s)) :
    Canonical (onAlloc f h k t s) := by
  unfold Machine.onAlloc
  split
  · exact hs
  · split
    · exact .trap hs
    · exact hf _ _ _ _ _ _ hs

theorem Canonical.updAlloc {bid base f} (hs : Canonical s) : Canonical (s.updAlloc bid base f) :=
  .updBlock hs

theorem Canonical.lusebyBody {i ext h k t b a} (hs : Canonical s) : Canonical (lusebyBody i ext h k t b a s) :=
  .ite (.answer hs) (.answer (.ite_of_then (.updAlloc hs) .expireAlloc))

theorem Canonical.onRange {ofs h k t} (hs : Canonical s)
    {f : Head → Nat → Thread → Block → Option (Alloc × List (Nat × Nat)) → State → State}
    (hf : ∀ a b c d e s, Canonical s → Canonical (f a b c d e s)) :
    Canonical (onRange ofs f h k t s) := by
  unfold Machine.onRange
  dsimp only
  split
  · exact hs
  · split
    · exact .trap hs
    · exact hf _ _ _ _ _ _ hs
    · exact hf _ _ _ _ _ _ hs

theorem Canonical.renewLines {core a ls} (hs : Canonical s) : Canonical (s.renewLines core a ls).2 :=
  .ite hs (.foldl hs fun _ _ ht => .setLine ht)

theorem Canonical.lrenewBody {i h k t b r} (hs : Canonical s) : Canonical (lrenewBody i h k t b r s) := by
  unfold Machine.lrenewBody
  refine .update (.fresh ?_)
  dsimp only
  split
  · exact .renewLines (.setThread (.newWid hs))
  · exact .setThread (.newWid hs)

theorem Canonical.setBody {i full h k t x5 r} (hs : Canonical s) : Canonical (setBody i full h k t x5 r s) := by
  unfold Machine.setBody
  split
  · exact .setThread hs
  · exact .ite (.trap hs) (.foldl (.setThread hs) fun _ _ ht => .ite (.fillLine ht) (.setLine ht))

theorem Canonical.lstateBody {i m f h k t} (hs : Canonical s) : Canonical (lstateBody i m f h k t s) := by
  unfold Machine.lstateBody
  dsimp only
  split
  · exact hs
  · split
    · exact .trap hs
    · exact .answer hs

theorem Canonical.smapBody {i h k t b a} (hs : Canonical s) : Canonical (smapBody i h k t b a s) :=
  .ite (.trap hs) (.ite (.trap hs) (.foldl (.updAlloc (.setThread hs)) fun _ _ ht => .setLine ht))

theorem Canonical.sunmapBody {i h k t b a} (hs : Canonical s) : Canonical (sunmapBody i h k t b a s) :=
  .ite (.trap hs)
    (.ite_of_then (.setThread (.flushLines hs)) fun hu =>
      .foldl (.updAlloc hu) fun _ _ ht => .ite (.setLine ht) (.fillLine (.setLine (.zeroLine ht))))

theorem Canonical.sflushBody {i inv h k t b r} (hs : Canonical s) : Canonical (sflushBody i inv h k t b r s) := by
  unfold Machine.sflushBody
  dsimp only
  split
  · exact .ite (.update (.fresh (.setThread (.newWid hs)))) (.update (.flushLines (.fresh (.setThread (.newWid hs)))))
  · exact .update (.fresh (.setThread (.newWid hs)))

theorem Canonical.resultReady {l serial} (hs : Canonical s) : Canonical (resultReady l serial s) := by
  unfold Machine.resultReady
  split
  · exact .setIncoming hs
  · exact hs

theorem CanonicalNext.execSflushComplete {serial} (hs : Canonical s) : CanonicalNext (execSflushComplete serial s) := by
  unfold Machine.execSflushComplete
  refine .event hs fun _ ht => ?_
  split
  · exact ht
  · exact .ite_of_then (.flushSome ht) fun hv => .update (.resultReady (.foldl hv fun _ _ hu => .dropLine hu))

theorem CanonicalNext.execLfreeUnitsRelease {serial} (hs : Canonical s) : CanonicalNext (execLfreeUnitsRelease serial s) := by
  unfold Machine.execLfreeUnitsRelease
  refine .event hs fun _ ht => ?_
  split
  · exact ht
  · exact .ite_of_else (.flushSome ht) .update

theorem Canonical.renewVisit {core a no} (hs : Canonical s) : Canonical (s.renewVisit core a no) :=
  .ite_of_then (.setLine hs) fun ht => .ite ht hs

theorem Canonical.ageLine {core a old dt no} (hs : Canonical s) : Canonical (s.ageLine core a old dt no) :=
  .ite hs (.ite_of_then (.setLine hs) fun ht => .ite ht (.ite hs (.dropLine hs)))

theorem Canonical.ageLarders {old} (hs : Canonical s) : Canonical (s.ageLarders old) :=
  .foldl (.foldl hs fun _ _ ht => .foldl ht fun _ _ hu => .ite (.expireAlloc hu) hu) fun _ _ ht =>
    .foldl ht fun _ _ hu => .foldl hu fun _ _ hv => .ageLine hv

theorem CanonicalNext.execAllocationExpiry {bid base} (hs : Canonical s) : CanonicalNext (execAllocationExpiry bid base s) := by
  unfold Machine.execAllocationExpiry
  refine .event hs fun _ ht => ?_
  split
  · exact ht
  · split
    · exact ht
    · exact .ite ht (.ite (.flushLines ht) (.expireAlloc ht))

theorem Canonical.fetchLost {bid ea va reason level entry base size b} (hs : Canonical s) :
    Canonical (s.fetchLost bid ea va reason level entry base size b) :=
  .reaim (.ite_of_else (.ticketFor hs) .report)

theorem Canonical.landStash {bid no ea bs} (hs : Canonical s) : Canonical (s.landStash bid no ea bs) :=
  .fillLine (.setLine (.putLarder hs))

theorem CanonicalNext.execStashFetchComplete {core line} (hs : Canonical s) :
    CanonicalNext (execStashFetchComplete core line s) := by
  unfold Machine.execStashFetchComplete
  refine .event hs fun _ ht => ?_
  dsimp only
  split
  · exact ht
  · refine .ite ht ?_
    split
    · exact .ite (.fetchLost (.setLine ht)) ht
    · split
      · exact ht
      next h =>
        split
        · exact .ite ht (.askPeer (.of_some h (.tryTouch ht)))
        · exact .landStash (.setLine (.of_some h (.tryTouch ht)))

theorem CanonicalNext.execStashRemoteReadRecall {core line} (hs : Canonical s) :
    CanonicalNext (execStashRemoteReadRecall core line s) := by
  unfold Machine.execStashRemoteReadRecall
  refine .event hs fun _ ht => ?_
  split
  · exact ht
  · exact .ite (.flushLines ht) ht

theorem CanonicalNext.execStashRemoteWriteRecall {core line ofs bytes} (hs : Canonical s) :
    CanonicalNext (execStashRemoteWriteRecall core line ofs bytes s) := by
  unfold Machine.execStashRemoteWriteRecall
  refine .event hs fun _ ht => ?_
  split
  · exact ht
  · refine .ite ?_ ht
    split
    · exact ht
    · exact .getD (.bind (.map (.tryWriteBack ht) fun _ hu => .dropLine hu) fun _ hu => .tryStore hu) ht

/-! ### Control flow -/

theorem Canonical.branchBody {i ofs taken h k t} (hs : Canonical s) : Canonical (branchBody i ofs taken h k t s) :=
  .ite_of_then (.setThread hs) fun ht => .ite (.trap hs) ht

theorem Canonical.callBody {i ofs h k t} (hs : Canonical s) : Canonical (callBody i ofs h k t s) :=
  .ite (.trap hs) (.setThread hs)

theorem Canonical.jumpBody {i link h k t} (hs : Canonical s) : Canonical (jumpBody i link h k t s) :=
  .ite (.trap hs) (.ite (.trap hs) (.setThread hs))

theorem Canonical.exitSuccBody {n h k t} (hs : Canonical s) : Canonical (exitSuccBody n h k t s) := by
  unfold Machine.exitSuccBody
  dsimp only
  split
  · exact .trap hs
  · exact .ite (.trap hs) (.endThread (.updBlock hs))

theorem Canonical.repeatBody {i byReg count body ws h k t} (hs : Canonical s) :
    Canonical (repeatBody i byReg count body ws h k t s) :=
  .ite (.setThread hs) (.setThread hs)

theorem CanonicalNext.execRepeatLoop {h byReg count body} (hs : Canonical s) :
    CanonicalNext (execRepeatLoop h byReg count body s) := by
  unfold Machine.execRepeatLoop
  dsimp only
  split
  · exact .next hs
  · split
    · exact .next hs
    · split
      · exact .next (.fetchFault hs)
      · exact .next (.foldl (.askCode hs) fun _ _ ht => .holdReplay ht)
      · split
        · exact .perLane hs fun _ _ _ _ ht => .repeatBody ht
        · exact .next (.foldl hs fun _ _ ht => .trap ht)

theorem Canonical.eretBody {k t} (hs : Canonical s) : Canonical (eretBody k t s) := by
  unfold Machine.eretBody
  refine .ite (.unhandled hs) (.ite (.unhandled hs) ?_)
  dsimp only
  split
  · exact .setThread hs
  · split
    · exact .setThread hs
    · exact .replay (.setThread hs)

/-! ### Lane instructions, park and spawn -/

theorem CanonicalNext.laneOp {i f} (hs : Canonical s) : CanonicalNext (laneOp i f s) := by
  unfold Machine.laneOp
  split
  · exact .next hs
  · exact .perLane hs fun _ _ _ _ ht => .setThread ht

theorem CanonicalNext.execLred {h op tid ftz rnd} (hs : Canonical s) : CanonicalNext (execLred h op tid ftz rnd s) := by
  unfold Machine.execLred
  refine .perLane ?_ fun _ _ _ _ ht => .setThread ht
  split
  · exact .count hs
  · exact hs

theorem Canonical.finishLog {k i h r log} (hs : Canonical s) : Canonical (s.finishLog k i h r log) :=
  .updThread hs

theorem Canonical.askWatch {who asid p} (hs : Canonical s) : Canonical (s.askWatch who asid p) :=
  .ite hs (.askPeer hs)

theorem Canonical.dropWatch {who} (hs : Canonical s) : Canonical (s.dropWatch who) :=
  .update hs

theorem Canonical.parkNowBody {keep h k t} (hs : Canonical s) : Canonical (parkNowBody keep h k t s) :=
  .ite (.setThread hs) (.parkThread hs)

theorem Canonical.parkUntilBody {keep h k t} (hs : Canonical s) : Canonical (parkUntilBody keep h k t s) :=
  .ite (.setThread hs) (.parkOn hs)

theorem Canonical.parkNeRead {i keep a p h k t} (hs : Canonical s) : Canonical (parkNeRead i keep a p h k t s) := by
  unfold Machine.parkNeRead
  dsimp only
  split
  · exact .setThread (.dropWatch hs)
  · exact .ite (.setThread (.dropWatch hs)) (.parkOn (.dropWatch hs))

theorem Canonical.parkNeBody {keep h k t} (hs : Canonical s) : Canonical (parkNeBody keep h k t s) := by
  unfold Machine.parkNeBody
  refine .ite (.trap hs) ?_
  dsimp only
  split
  · exact .ite hs (.parkAfresh (.faultTicket hs))
  · split
    · exact .ite (.setThread (.askWatch hs)) (.parkNeRead hs)
    · exact hs

theorem Canonical.completePark {k i h log} (hs : Canonical s) : Canonical (s.completePark k i h log) := by
  unfold State.completePark
  split
  · exact .finishLog hs
  · exact .finishLog hs
  · exact .finishLog hs
  · exact hs

theorem Canonical.spawnBody {laneGiven narg h k t} (hs : Canonical s) : Canonical (spawnBody laneGiven narg h k t s) := by
  unfold Machine.spawnBody
  refine .ite (.trap hs) (.ite (.trap hs) ?_)
  dsimp only
  split
  · split
    · exact .holdOverflow hs
    · exact .setThread (.settleUnit (.syncRecord (.updBlock (.update (.fresh hs)))))
  · exact hs

/-! ### Barrier objects, the Harness and signals -/

theorem Canonical.putObj {b ea o} (hs : Canonical s) : Canonical (s.putObj b ea o) := by
  unfold State.putObj
  split
  · exact .larWrite hs
  · exact hs

theorem Canonical.arriveAt {bid b ea n} (hs : Canonical s) : Canonical (s.arriveAt bid b ea n) :=
  .ite hs (.ite_of_else (.putObj hs) .wake)

theorem CanonicalSome.objArrive {bid ea n k} (hs : Canonical s) : CanonicalSome (s.objArrive bid ea n k) := by
  unfold State.objArrive
  split
  · exact .none
  · exact .ite .none (.some (.arriveAt hs))

theorem Canonical.onObj {ofs h k t} {f : Head → Nat → Thread → Block → Nat → Obj → State → State} (hs : Canonical s)
    (hf : ∀ h k t b a o s, Canonical s → Canonical (f h k t b a o s)) :
    Canonical (onObj ofs f h k t s) := by
  unfold Machine.onObj
  dsimp only
  split
  · exact hs
  · split
    · exact .trap hs
    · exact hf _ _ _ _ _ _ _ hs

theorem Canonical.waitObj {kind k b ea gen keep log} (hs : Canonical s) : Canonical (s.waitObj kind k b ea gen keep log) :=
  .parkOn (.putObj hs)

theorem Canonical.binitBody {i bytes h k t b ea o} (hs : Canonical s) : Canonical (binitBody i bytes h k t b ea o s) :=
  .ite (.trap hs) (.putObj (.setThread hs))

theorem Canonical.barrBody {i h k t b ea o} (hs : Canonical s) : Canonical (barrBody i h k t b ea o s) := by
  unfold Machine.barrBody
  split
  · exact .trap hs
  · exact .arriveAt (.answer hs)

theorem Canonical.bwaitBody {i keep h k t b ea o} (hs : Canonical s) : Canonical (bwaitBody i keep h k t b ea o s) :=
  .ite (.trap hs) (.ite (.setThread hs) (.waitObj hs))

theorem Canonical.barrwBody {i keep h k t b ea o} (hs : Canonical s) : Canonical (barrwBody i keep h k t b ea o s) := by
  unfold Machine.barrwBody
  split
  · exact .trap hs
  · exact .ite (.answer (.arriveAt hs)) (.waitObj (.arriveAt hs))

theorem Canonical.bbytesBody {i exp h k t b ea o} (hs : Canonical s) : Canonical (bbytesBody i exp h k t b ea o s) := by
  unfold Machine.bbytesBody
  dsimp only
  split
  · exact .trap hs
  · exact .ite (.arriveAt (.setThread hs)) (.ite (.trap hs) (.putObj (.setThread hs)))

theorem Canonical.completeObj {k i h log} (hs : Canonical s) : Canonical (s.completeObj k i h log) := by
  refine .ite (.stageTrap hs) ?_
  change Canonical ((s.advance k (.complete log) i h).2.setIncoming _ _)
  exact .setIncoming (.advance hs)

theorem Canonical.setHgroup {asid grp g} (hs : Canonical s) : Canonical (s.setHgroup asid grp g) :=
  .updCtx hs

theorem Canonical.wakeHarness {asid grp completed} (hs : Canonical s) : Canonical (s.wakeHarness asid grp completed) :=
  .wake hs

theorem Canonical.settleHarness {asid grp g} (hs : Canonical s) : Canonical (s.settleHarness asid grp g) :=
  .ite_of_then (.setHgroup hs) fun ht => .ite_of_else (.wakeHarness ht) .send

theorem Canonical.countArrival {asid grp pkg handle n} (hs : Canonical s) : Canonical (s.countArrival asid grp pkg handle n) :=
  .settleHarness hs

theorem Canonical.endMembership {asid grp pkg handle} (hs : Canonical s) : Canonical (s.endMembership asid grp pkg handle) :=
  .ite hs (.ite (.settleHarness hs) (.send (.setHgroup hs)))

theorem Canonical.endMemberships {asid pkg handle} (hs : Canonical s) : Canonical (s.endMemberships asid pkg handle) := by
  unfold State.endMemberships
  split
  · exact hs
  · exact .foldl hs fun _ _ ht => .endMembership ht

theorem Canonical.cancelIncoming {wid} (hs : Canonical s) : Canonical (s.cancelIncoming wid) :=
  .ite hs (.foldl (.foldl (.update hs) fun _ _ ht => .syncRecord ht) fun _ _ ht => .settleUnit ht)

theorem Canonical.sendTwo {k t i h} (hs : Canonical s) : Canonical (s.sendTwo k t i h).2.2 := by
  unfold State.sendTwo
  refine .setThread ?_
  split
  · exact .newWid hs
  · exact .fresh (.newWid hs)

theorem Canonical.giveTwo {wd we d e} (hs : Canonical s) : Canonical (s.giveTwo wd we d e) := by
  unfold State.giveTwo
  refine .setIncoming ?_
  split
  · exact .setIncoming hs
  · exact .cancelIncoming hs

theorem Canonical.memberBody {i grp join h k t} (hs : Canonical s) : Canonical (memberBody i grp join h k t s) :=
  .ite (.giveTwo (.settleHarness (.sendTwo hs))) (.send (.update (.sendTwo hs)))

theorem Canonical.harrBody {i grp h k t} (hs : Canonical s) : Canonical (harrBody i grp h k t s) := by
  unfold Machine.harrBody
  dsimp only
  split
  · exact .trap hs
  · exact .releasing hs fun _ ht => .ite (.countArrival (.answer ht)) (.send (.setHgroup (.answer ht)))

theorem Canonical.hwaitBody {i grp keep h k t} (hs : Canonical s) : Canonical (hwaitBody i grp keep h k t s) :=
  .ite (.setThread hs) (.parkOn hs)

theorem CanonicalNext.execHarnessMembershipMessage {asid grp pkg handle join quota} (hs : Canonical s) :
    CanonicalNext (execHarnessMembershipMessage asid grp pkg handle join quota s) := by
  unfold Machine.execHarnessMembershipMessage
  refine .arrival hs fun _ ht => .ite ht (.ite (.send (.settleHarness ht)) ?_)
  split
  · exact ht
  · exact .ite_of_then (.giveTwo (.setHgroup (.update ht))) .endMembership

theorem Canonical.dropSignal {asid why} (hs : Canonical s) : Canonical (s.dropSignal asid why) :=
  .update hs

theorem Canonical.signalNow {asid bid obj name count bytes} (hs : Canonical s) :
    Canonical (s.signalNow asid bid obj name count bytes) := by
  unfold State.signalNow
  split
  next h => exact .of_some h (.objArrive hs)
  · exact .report (.dropSignal hs)

theorem Canonical.applySignal {asid name count bytes} (hs : Canonical s) : Canonical (s.applySignal asid name count bytes) := by
  unfold State.applySignal
  dsimp only
  split
  · exact .dropSignal hs
  · exact .dropSignal hs
  · exact .foldl hs fun _ _ ht => .ite (.update ht) (.signalNow ht)

theorem Canonical.releaseSignals {bid} (hs : Canonical s) : Canonical (s.releaseSignals bid) := by
  unfold State.releaseSignals
  split
  · exact hs
  · exact .foldl (.update hs) fun _ _ ht => .signalNow ht

theorem Canonical.hsigBody {i bytes h k t} (hs : Canonical s) : Canonical (hsigBody i bytes h k t s) :=
  .ite (.trap hs) (.releasing hs fun _ ht => .ite (.applySignal (.setThread ht)) (.send (.setThread ht)))

end Sys2Proof.Machine
end

section
/-! Stores of bytes in canonical form, 4: copy engines, the matrix array, exception counters and the persistent tier. The B bank
changes in `setSlice`, the larder under a matrix operation in `someWritten`, the stacks in `execWbqDrainEntry`. -/

namespace Sys2Proof.Machine

variable {s : State}

/-! ### Copy engines and publish sets -/

theorem WhenOk.enginePiece {core asid halves got va n} (hs : Canonical s) :
    WhenOk (fun r => Canonical r.2) (s.enginePiece core asid halves got va n) := by
  unfold State.enginePiece
  split
  · exact .error
  · refine .ite .error ?_
    split
    · exact .error
    next h => exact .ite (.ok (.of_some h (.tryRecallRead hs))) (.ite (.ok (.of_some h (.tryRecallRead hs))) .error)

theorem WhenOk.engineRead {core asid halves got ps} (hs : Canonical s) :
    WhenOk (fun r => Canonical r.2) (s.engineRead core asid halves got ps) := by
  induction ps generalizing s with
  | nil => exact .ok hs
  | cons p ps ih =>
    unfold State.engineRead
    split
    · exact .error
    next h =>
      have ht := Canonical.of_ok_snd h (.enginePiece hs)
      split
      · exact .error
      next h => exact .ok (.of_ok_snd h (ih ht))

theorem WhenOk.requestPiece {c va bs} (hs : Canonical s) : WhenOk Canonical (s.requestPiece c va bs) := by
  unfold State.requestPiece
  split
  · exact .error
  · exact .ite .error (.ite .error (.ite (.ite (.ok hs) .error) (.orHeld (.tryStore hs))))

theorem WhenOk.requestWrite {c bs ps} (hs : Canonical s) : WhenOk Canonical (s.requestWrite c bs ps) := by
  induction ps generalizing s with
  | nil => exact .ok hs
  | cons p ps ih =>
    unfold State.requestWrite
    split
    · exact .error
    next h => exact ih (.of_ok h (.requestPiece hs))

theorem Canonical.markWritten {serial bid no ea n} (hs : Canonical s) : Canonical (s.markWritten serial bid no ea n) := by
  unfold State.markWritten
  split
  · exact hs
  · exact .ite_of_else (.update hs) .fillLine

theorem WhenOk.windowPiece {serial bid b ea bs} (hs : Canonical s) : WhenOk Canonical (s.windowPiece serial bid b ea bs) := by
  unfold State.windowPiece
  refine .ite (.ok hs) ?_
  split
  · split
    · exact .error
    · dsimp only
      split
      · exact .error
      next h =>
        have ht := Canonical.of_some h (.ite (.claimStash hs) (.some hs))
        exact .ok (.markWritten (.ite_of_else (.ite_of_else (.larWrite ht) .setLine) .flushLines))
  · exact .error

theorem WhenOk.windowWrite {serial bid b ea bs} (hs : Canonical s) : WhenOk Canonical (s.windowWrite serial bid b ea bs) := by
  unfold State.windowWrite
  refine .ite (.windowPiece hs) ?_
  split
  · exact .error
  next h => exact .windowPiece (.of_ok h (.windowPiece hs))

theorem WhenOk.elemRead {c src} (hs : Canonical s) : WhenOk (fun r => Canonical r.2) (s.elemRead c src) := by
  unfold State.elemRead
  refine .ite ?_ ?_
  · split
    · exact .error
    · split
      · exact .error
      · exact .ok hs
  · split
    · exact .error
    next h => exact .ok (.of_ok_snd h (.engineRead hs))

theorem WhenOk.elemStore {c dst bs} (hs : Canonical s) : WhenOk Canonical (s.elemStore c dst bs) := by
  unfold State.elemStore
  refine .ite ?_ (.requestWrite hs)
  split
  · exact .ok hs
  · exact .windowWrite hs

theorem WhenOk.elemBytes {c dst shared tick i bs} (hs : Canonical s) :
    WhenOk Canonical (State.elemBytes c dst shared tick i bs s) := by
  induction bs generalizing i s with
  | nil => exact .ok hs
  | cons b bs ih =>
    unfold State.elemBytes
    refine .ite (ih hs) ?_
    split
    · exact .error
    next h => exact ih (.of_ok h (.elemStore hs))

theorem WhenOk.elemWrite {c e dst v} (hs : Canonical s) : WhenOk Canonical (s.elemWrite c e dst v) := by
  unfold State.elemWrite
  dsimp only
  split
  · exact .elemStore hs
  · exact .elemBytes (.update hs)

theorem WhenOk.moveElem {c e} (hs : Canonical s) : WhenOk Canonical (s.moveElem c e) := by
  unfold State.moveElem
  split
  · exact .elemWrite hs
  · split
    · exact .error
    next h =>
      dsimp only
      split
      · exact .error
      next h1 => exact .ok (.countFor (.of_ok h1 (.elemWrite (.of_ok_snd h (.elemRead hs)))))

theorem Canonical.moveElems {c n e} (hs : Canonical s) : Canonical (State.moveElems c n e s).2.2 := by
  induction n generalizing e s with
  | zero => exact hs
  | succ n ih =>
    unfold State.moveElems
    split
    · exact hs
    · split
      · exact hs
      next h => exact ih (.of_ok h (.moveElem hs))

theorem CanonicalSome.engineArrive {asid bid cpl n} (hs : Canonical s) : CanonicalSome (s.engineArrive asid bid cpl n) :=
  .ite (.some hs) (.ite (.objArrive hs) (.ite (.some (.applySignal hs)) (.some (.send hs))))

theorem Canonical.engineFault {c reason} (hs : Canonical s) : Canonical (s.engineFault c reason) :=
  .report hs

theorem Canonical.engineTicket {core asid ofs va reason level entry base size} (hs : Canonical s) :
    Canonical (s.engineTicket core asid ofs va reason level entry base size).2 :=
  .report (.update hs)

theorem Canonical.updCopy {serial f} (hs : Canonical s) : Canonical (s.updCopy serial f) :=
  .update hs

theorem Canonical.wakeEngine {core} (hs : Canonical s) : Canonical (s.wakeEngine core) :=
  .ite hs (.wake hs)

theorem Canonical.dropCopies {gone} (hs : Canonical s) : Canonical (s.dropCopies gone) :=
  .foldl (.update hs) fun _ _ ht => .wakeEngine ht

theorem Canonical.endCopy {c} (hs : Canonical s) : Canonical (s.endCopy c) :=
  .dropCopies hs

theorem Canonical.needPeer {serial asid bid l pa va n} (hs : Canonical s) :
    Canonical (s.needPeer serial asid bid l pa va n) := by
  unfold State.needPeer
  refine .ite hs ?_
  split
  next h => exact .askPeer (.of_some h (.tryRecallRead hs))
  · exact hs

theorem Canonical.putPeer {serial asid bid l pa va bs} (hs : Canonical s) : Canonical (s.putPeer serial asid bid l pa va bs) :=
  .ite hs (.getD (.tryStore hs) hs)

theorem Canonical.stopCopy {c x2} (hs : Canonical s) : Canonical (s.stopCopy c x2) := by
  unfold State.stopCopy
  split
  · exact .endCopy (.engineFault hs)
  · exact .endCopy (.engineFault (.logWords hs))
  · exact .updCopy (.engineTicket hs)
  · exact .needPeer hs
  · exact .putPeer hs
  · exact .setLine hs
  · exact hs
  · exact .noteWrite hs

theorem Canonical.runCopy {serial n} (hs : Canonical s) : Canonical (s.runCopy serial n) := by
  unfold State.runCopy
  split
  · exact hs
  · refine .ite hs ?_
    dsimp only
    split
    · exact .stopCopy (.moveElems hs)
    next h =>
      have hu := Canonical.of_some h (.ite (.engineArrive (.moveElems hs)) (.some (.moveElems hs)))
      split
      · exact .updCopy hu
      · split
        · exact .stopCopy (.updCopy hu)
        · exact .ite_of_else (.updCopy hu) .endCopy

theorem CanonicalNext.execCopyRequestEnd {serial} (hs : Canonical s) : CanonicalNext (execCopyRequestEnd serial s) := by
  unfold Machine.execCopyRequestEnd
  refine .event hs fun _ ht => ?_
  split
  · exact ht
  · exact .runCopy ht

theorem Canonical.acceptCopy {core asid bid launch addr req} (hs : Canonical s) :
    Canonical (s.acceptCopy core asid bid launch addr req) :=
  .update (.fresh hs)

theorem CanonicalSome.waitBlock {k b ea} (hs : Canonical s) {wait : State → State}
    (hwait : ∀ s, Canonical s → Canonical (wait s)) {lost : Nat → State → State}
    (hlost : ∀ a s, Canonical s → Canonical (lost a s)) :
    CanonicalSome (s.waitBlock k b ea wait lost) := by
  unfold State.waitBlock
  split
  · exact .none
  · refine .ite .none (.ite (.some (hwait _ hs)) ?_)
    dsimp only
    split
    · exact .some (hwait _ (.setLine (.fillPieces hs)))
    · exact .ite (.some (hlost _ _ (.faultTicket hs))) (.some hs)

theorem CanonicalSome.waitParked {k st b ea log} (hs : Canonical s) : CanonicalSome (s.waitParked k st b ea log) :=
  .waitBlock hs (fun _ ht => .stageWait ht) fun _ _ ht => .parkOn ht

theorem CanonicalSome.waitSlot {k b ea} (hs : Canonical s) : CanonicalSome (s.waitSlot k b ea) :=
  .waitBlock hs (fun _ ht => .holdReplay ht) fun _ _ ht => .parkAfresh ht

theorem Canonical.signRequest {k bs} (hs : Canonical s) : Canonical (s.signRequest k bs) := by
  unfold State.signRequest
  split
  · exact .updBlock hs
  · exact hs

theorem Canonical.kickCopy {k st i h ea keep} (hs : Canonical s) : Canonical (s.kickCopy k st i h ea keep) := by
  unfold State.kickCopy
  split
  · split
    · exact .stageTrap hs
    · refine .ite (.parkOn hs) ?_
      split
      next h => exact .of_some h (.waitParked hs)
      · dsimp only
        split
        · exact .stageTrap hs
        · exact .ite (.retryStage (.releaseStash hs)) (.acceptCopy (.signRequest (.advance (.releaseStash hs))))
  · exact hs

theorem Canonical.publishBody {i seti h k t} (hs : Canonical s) : Canonical (publishBody i seti h k t s) :=
  .ite (.trap hs) (.releasing hs fun _ ht => .update (.fresh (.setThread (.newWid ht))))

theorem CanonicalSome.tryEntry {asid p v n} (hs : Canonical s) : CanonicalSome (s.tryEntry asid p v n) :=
  .tryStore hs

theorem CanonicalNext.execPublishSwapStart {serial} (hs : Canonical s) : CanonicalNext (execPublishSwapStart serial s) := by
  unfold Machine.execPublishSwapStart
  refine .event hs fun _ ht => ?_
  split
  · exact ht
  · split
    · exact ht
    · refine .ite ht ?_
      dsimp only
      split
      · exact ht
      next h => exact .update (.of_some h (.tryEntry ht))

theorem CanonicalNext.execPublishSwapComplete {serial} (hs : Canonical s) :
    CanonicalNext (execPublishSwapComplete serial s) := by
  unfold Machine.execPublishSwapComplete
  refine .event hs fun _ ht => ?_
  split
  · exact ht
  · split
    · exact ht
    · refine .ite ht ?_
      split
      · exact ht
      next h => exact .setIncoming (.update (.of_some h (.tryEntry ht)))

/-! ### The matrix array -/

theorem Canonical.zeroTile {core tile} (hs : Canonical s) : Canonical (s.zeroTile core tile) :=
  .update hs

theorem Canonical.setTileWord {core tile flt mode steps} (hs : Canonical s) :
    Canonical (s.setTileWord core tile flt mode steps) :=
  .update hs

theorem Canonical.setSlice {core j o bs} (hs : Canonical s) : Canonical (s.setSlice core j o bs) :=
  .setBank hs (wf_spliceMap_span hs.bank _ _ bs)

theorem Canonical.grant {core bid key} (hs : Canonical s) : Canonical (s.grant core bid key) :=
  .ite (.setTileWord (.zeroTile (.updCore hs))) (.foldl (.updCore hs) fun _ _ ht => .setSlice ht)

theorem Canonical.setArrayQueue {core l} (hs : Canonical s) : Canonical (s.setArrayQueue core l) :=
  .update hs

theorem Canonical.settleClaims {core} (hs : Canonical s) : Canonical (s.settleClaims core) :=
  .updCore hs

theorem Canonical.present {k t i h b op x blk addr cpl d sign} (hs : Canonical s) :
    Canonical (s.present k t i h b op x blk addr cpl d sign) :=
  .ite (.answer hs) (.releasing hs fun _ ht => .setArrayQueue (.signRequest (.fresh (.answer ht))))

theorem Canonical.blockOpBody {i op pbn cplLo check h k t} (hs : Canonical s) :
    Canonical (blockOpBody i op pbn cplLo check h k t s) := by
  unfold Machine.blockOpBody
  dsimp only
  split
  · exact hs
  · split
    · exact .trap hs
    · split
      next h => exact .of_some h (.waitSlot hs)
      · split
        · exact .trap hs
        · exact .present hs

theorem Canonical.mmstBody {i x h k t} (hs : Canonical s) : Canonical (mmstBody i x h k t s) := by
  unfold Machine.mmstBody
  dsimp only
  split
  · exact hs
  · split
    · exact .trap hs
    · exact .present hs

theorem Canonical.mmclrAccBody {i h k t} (hs : Canonical s) : Canonical (mmclrAccBody i h k t s) := by
  unfold Machine.mmclrAccBody
  dsimp only
  split
  · exact hs
  · exact .ite (.trap hs) (.ite (.trap hs) (.present hs))

theorem Canonical.mmclrClaimBody {i h k t} (hs : Canonical s) : Canonical (mmclrClaimBody i h k t s) := by
  unfold Machine.mmclrClaimBody
  dsimp only
  split
  · exact hs
  · exact .trap hs
  · exact .ite (.answer hs) (.answer (.foldl hs fun _ _ ht => .grant ht))

theorem Canonical.mmclrFreeBody {i h k t} (hs : Canonical s) : Canonical (mmclrFreeBody i h k t s) := by
  unfold Machine.mmclrFreeBody
  dsimp only
  split
  · exact hs
  · exact .trap hs
  · exact .answer (.settleClaims (.updCore hs))

theorem Canonical.mmrdBody {i h k t} (hs : Canonical s) : Canonical (mmrdBody i h k t s) := by
  unfold Machine.mmrdBody
  dsimp only
  split
  · exact hs
  · exact .ite (.trap hs) (.ite (.trap hs) (.setIncoming (.setIncoming (.sendTwo hs))))

theorem Canonical.mmwaitBody {i keep h k t b ea o} (hs : Canonical s) : Canonical (mmwaitBody i keep h k t b ea o s) := by
  unfold Machine.mmwaitBody
  dsimp only
  split
  · exact .trap hs
  · exact .ite (.setThread hs) (.waitObj hs)

theorem WhenOk.arrayWrite {b ea bs} (hs : Canonical s) : WhenOk Canonical (s.arrayWrite b ea bs) := by
  unfold State.arrayWrite
  split
  · exact .error
  · exact .ite .error (.ok (.larWrite hs))

theorem Canonical.subStep {core o d lo} (hs : Canonical s) : Canonical (s.subStep core o d lo) :=
  .countFor (.update hs)

theorem Canonical.updOp {core serial f} (hs : Canonical s) : Canonical (s.updOp core serial f) :=
  .setArrayQueue hs

theorem Canonical.startMma {core o} (hs : Canonical s) : Canonical (s.startMma core o) :=
  .ite (.updOp (.setTileWord hs)) (.updOp (.ite (.setTileWord (.zeroTile hs)) (.setTileWord hs)))

theorem CanonicalNext.execMatrixOpStart {core} (hs : Canonical s) : CanonicalNext (execMatrixOpStart core s) := by
  unfold Machine.execMatrixOpStart
  refine .event hs fun _ ht => ?_
  split
  · exact ht
  · exact .ite ht (.ite (.startMma ht) (.updOp ht))

theorem Canonical.meetBad {core} (hs : Canonical s) : Canonical (s.meetBad core) :=
  .update (.logWords hs)

theorem Canonical.logRead {b reason ea} (hs : Canonical s) : Canonical (s.logRead b reason ea) := by
  unfold State.logRead
  split
  · exact .ite (.logWords hs) hs
  · exact hs

theorem CanonicalNext.execMmaKStep {core} (hs : Canonical s) : CanonicalNext (execMmaKStep core s) := by
  unfold Machine.execMmaKStep
  refine .event hs fun _ ht => ?_
  split
  · exact ht
  · refine .ite ht ?_
    dsimp only
    split
    · exact ht
    · refine .ite (.updOp (.setTileWord (.meetBad ht))) ?_
      split
      · exact .updOp (.setTileWord (.logRead ht))
      · exact .updOp (.setTileWord (.ite_of_then (.subStep ht) .subStep))

theorem Canonical.fillWritten {bid b m} (hs : Canonical s) : Canonical (s.fillWritten bid b m) := by
  unfold State.fillWritten
  refine .foldl hs fun _ _ ht => ?_
  split
  · exact .ite (.fillLine ht) ht
  · exact ht

theorem Canonical.someWritten {old : State} {b m} (hs : Canonical s) : Canonical (old.someWritten s b m).2 := by
  unfold State.someWritten
  refine .foldl (.update hs) fun _ _ ht => ?_
  split
  · exact .setLine (.setLarder (s := { (_ : State) with poison := old.poison }) (.update ht) (Memory.wf_putBytes ht.larder _ _))
  · exact ht

theorem Canonical.sclElems {b o mode ncols cells m n} (hs : Canonical s) :
    Canonical (State.sclElems b o mode ncols cells m n s).2.2.2 := by
  induction cells generalizing m n s with
  | nil => exact hs
  | cons q cells ih =>
    unfold State.sclElems
    split
    · exact hs
    · split
      · exact hs
      next h => exact ih (.countFor (.of_ok h (.arrayWrite hs)))

theorem Canonical.runScl {b o} (hs : Canonical s) : Canonical (s.runScl b o).2.2 :=
  .fillWritten (.ite_snd (.sclElems hs) (.someWritten (.sclElems hs)))

theorem Canonical.runBank {b a o k n} (hs : Canonical s) : Canonical (s.runBank b a o k n).2.2 := by
  induction n generalizing k s with
  | zero => exact hs
  | succ n ih =>
    unfold State.runBank
    split
    · exact hs
    next panel _ =>
      have ht : Canonical ((span 0 128).foldl (fun s j =>
          s.setSlice b.core j (o + 192 * k) ((panel.drop (192 * j)).take 192)) s) :=
        .foldl hs fun _ _ ht => .setSlice ht
      dsimp only
      split
      · exact ht
      · exact ih ht

theorem WhenOk.accRow {b tile i qs ea} (hs : Canonical s) : WhenOk Canonical (State.accRow b tile i qs ea s) := by
  induction qs generalizing s with
  | nil => exact .ok hs
  | cons q qs ih =>
    unfold State.accRow
    dsimp only
    split
    · exact .error
    next h => exact ih (.of_ok h (.arrayWrite hs))

theorem Canonical.runRows {b tile row0 a i n m} (hs : Canonical s) : Canonical (State.runRows b tile row0 a i n m s).2.2.2 := by
  induction n generalizing i m s with
  | zero => exact hs
  | succ n ih =>
    unfold State.runRows
    split
    · exact hs
    next h => exact ih (.of_ok h (.accRow hs))

theorem Canonical.runAcc {b bid tile row0 a n} (hs : Canonical s) : Canonical (s.runAcc b bid tile row0 a n).2.2 :=
  .fillWritten (.ite_snd (.runRows hs) (.someWritten (.runRows hs)))

theorem Canonical.runOther {b o} (hs : Canonical s) : Canonical (s.runOther b o).2.2 := by
  unfold State.runOther
  split
  · exact .meetBad hs
  · split
    · exact .setTileWord (.zeroTile hs)
    · split
      · exact .runScl hs
      · split
        · exact .runBank hs
        · exact .runAcc hs

theorem Canonical.matFault {b o reason addr steps} (hs : Canonical s) : Canonical (s.matFault b o reason addr steps) :=
  .report hs

theorem Canonical.markFault {core o} (hs : Canonical s) : Canonical (s.markFault core o) :=
  .ite hs (.setTileWord hs)

theorem Canonical.clearAfter {core o} (hs : Canonical s) : Canonical (s.clearAfter core o) :=
  .ite (.setTileWord (.zeroTile hs)) hs

theorem Canonical.leaveArray {b o steps faulted} (hs : Canonical s) : Canonical (s.leaveArray b o steps faulted) := by
  unfold State.leaveArray
  refine .settleClaims (.ite (.setArrayQueue hs) ?_)
  split
  next h => exact .ite_of_then (.of_some h (.objArrive (.setArrayQueue hs))) .clearAfter
  · exact .matFault (.markFault (.setArrayQueue hs))

theorem CanonicalNext.execMatrixOpEnd {core} (hs : Canonical s) : CanonicalNext (execMatrixOpEnd core s) := by
  unfold Machine.execMatrixOpEnd
  refine .event hs fun _ ht => ?_
  split
  · exact ht
  · split
    · exact ht
    · refine .ite ht (.ite (.ite ht (.leaveArray (.ite ht (.matFault ht)))) ?_)
      dsimp only
      split
      · exact .leaveArray (.runOther ht)
      · exact .leaveArray (.matFault (.markFault (.logRead (.runOther ht))))

/-! ### Exception counters -/

theorem Canonical.dumpAdd {d va l} (hs : Canonical s) : Canonical (s.dumpAdd d va l) :=
  .accept (.fresh hs)

theorem Canonical.runDump {n d} (hs : Canonical s) : Canonical (State.runDump n d s) := by
  induction n generalizing d s with
  | zero => exact hs
  | succ n ih =>
    unfold State.runDump
    dsimp only
    split
    · exact ih (.dumpAdd hs)
    · exact .update (.engineTicket hs)

theorem Canonical.runDumps (hs : Canonical s) : Canonical s.runDumps :=
  .foldl hs fun _ _ ht => .ite (.runDump (.update ht)) ht

theorem Canonical.startDump {core asid addr c} (hs : Canonical s) : Canonical (s.startDump core asid addr c) :=
  .runDumps (.update (.fresh hs))

theorem Canonical.releaseSet {core launch} (hs : Canonical s) : Canonical (s.releaseSet core launch) := by
  unfold State.releaseSet
  split
  · exact .startDump (.updCore hs)
  · exact hs

theorem Canonical.bindSet {core launch hdr} (hs : Canonical s) : Canonical (s.bindSet core launch hdr) :=
  .ite hs (.updCore (.fresh hs))

theorem Canonical.flushSet {core launch addr} (hs : Canonical s) : Canonical (s.flushSet core launch addr) := by
  unfold State.flushSet
  split
  · exact .ite_of_then (.updCore hs) .startDump
  · exact hs

theorem CanonicalNext.execCntflush {h} (hs : Canonical s) : CanonicalNext (execCntflush h s) := by
  unfold Machine.execCntflush
  dsimp only
  split
  · exact .perLane (.foldl hs fun _ _ ht => .releaseStash ht) fun _ _ _ _ ht => .holdReplay ht
  · refine .perLane (.foldl (.foldl hs fun _ _ ht => .releaseStash ht) fun _ _ ht => ?_) fun _ _ _ _ ht => .setThread ht
    split
    · exact ht
    · exact .flushSet ht

/-! ### The persistent tier -/

theorem CanonicalNext.execWbqDrainEntry {die} (hs : Canonical s) : CanonicalNext (execWbqDrainEntry die s) := by
  refine .event hs fun _ ht => ?_
  split
  · exact ht
  · exact .ite (.setScm (s := { (_ : State) with wbqs := _ }) (.update ht) (Memory.wf_putBytes ht.scm _ _)) ht

theorem Canonical.pfenceBody {i pkg h k t} (hs : Canonical s) : Canonical (pfenceBody i pkg h k t s) :=
  .update (.fresh (.setThread (.newWid hs)))

theorem CanonicalNext.execPfenceComplete {serial} (hs : Canonical s) : CanonicalNext (execPfenceComplete serial s) := by
  unfold Machine.execPfenceComplete
  refine .event hs fun _ ht => ?_
  split
  · exact ht
  · exact .ite (.setIncoming (.update ht)) ht

theorem Canonical.putRegion {asid r ofs n v} (hs : Canonical s) : Canonical (s.putRegion asid r ofs n v) :=
  .ctxPut hs

theorem Canonical.putErr {asid r err} (hs : Canonical s) : Canonical (s.putErr asid r err) :=
  .putRegion hs

theorem Canonical.updCapture {c f} (hs : Canonical s) : Canonical (s.updCapture c f) :=
  .update hs

theorem Canonical.discardSlot {asid r step} (hs : Canonical s) : Canonical (s.discardSlot asid r step) :=
  .foldl hs fun _ _ ht => .send ht

theorem Canonical.captureFail {asid r} (hs : Canonical s) : Canonical (s.captureFail asid r) := by
  unfold State.captureFail
  split
  · exact hs
  · exact .discardSlot (.putRegion (.putErr (.update hs)))

theorem Canonical.startCapture {asid r step} (hs : Canonical s) : Canonical (s.startCapture asid r step) :=
  .update (.putRegion (.putRegion (.foldl hs fun _ _ ht => .ite (.getD (.tryMerge ht) ht) ht)))

theorem Canonical.logChunk {c base} (hs : Canonical s) : Canonical (s.logChunk c base) := by
  unfold State.logChunk
  refine .foldl hs fun _ _ ht => ?_
  split
  · exact .logWords ht
  · exact ht

theorem Canonical.sendStripe {c t} (hs : Canonical s) : Canonical (s.sendStripe c t) :=
  .foldl hs fun _ _ ht => .send ht

theorem Canonical.captureChunk {c k} (hs : Canonical s) : Canonical (s.captureChunk c k) := by
  unfold State.captureChunk
  dsimp only
  split
  · exact .captureFail (.logChunk hs)
  · exact .ite_of_else (.putRegion (.updCapture hs)) .sendStripe

theorem Canonical.capturePassing {pa} (hs : Canonical s) : Canonical (s.capturePassing pa) := by
  unfold State.capturePassing
  refine .foldl hs fun _ _ ht => ?_
  split
  · exact .ite ht (.captureChunk ht)
  · exact ht

theorem CanonicalNext.execChunkCaptureLagExpiry {asid region} (hs : Canonical s) :
    CanonicalNext (execChunkCaptureLagExpiry asid region s) := by
  unfold Machine.execChunkCaptureLagExpiry
  refine .event hs fun _ ht => ?_
  split
  · exact ht
  · exact .ite (.updCapture ht) ht

theorem CanonicalNext.execChunkCaptureOnWrite {asid region chunk} (hs : Canonical s) :
    CanonicalNext (execChunkCaptureOnWrite asid region chunk s) := by
  unfold Machine.execChunkCaptureOnWrite
  refine .event hs fun _ ht => ?_
  split
  · exact ht
  · split
    · exact .noteWrite ht
    · exact ht

theorem CanonicalNext.execChunkCaptureComplete {asid region chunk} (hs : Canonical s) :
    CanonicalNext (execChunkCaptureComplete asid region chunk s) := by
  unfold Machine.execChunkCaptureComplete
  refine .event hs fun _ ht => ?_
  split
  · exact ht
  · exact .ite (.captureChunk ht) ht

theorem CanonicalNext.execStripeFragmentsDurable {asid region stripe stored} (hs : Canonical s) :
    CanonicalNext (execStripeFragmentsDurable asid region stripe stored s) := by
  unfold Machine.execStripeFragmentsDurable
  refine .event hs fun _ ht => ?_
  split
  · exact ht
  · exact .ite ht (.ite (.captureFail ht) (.ite (.updCapture ht) (.putErr (.putRegion (.putRegion (.update ht))))))

theorem Canonical.failStale {asid} (hs : Canonical s) : Canonical (s.failStale asid) :=
  .foldl hs fun _ _ ht => .ite (.discardSlot (.putRegion (.putErr (.update ht)))) ht

theorem Canonical.steptagBody {i h k t} (hs : Canonical s) : Canonical (steptagBody i h k t s) :=
  .ite (.trap hs)
    (.releasing hs fun _ ht => .ite (.answer ht)
      (.ite (.holdReplay (.flushSome ht)) (.answer (.foldl (.ctxPut (.flushSome ht)) fun _ _ hu => .startCapture hu))))

theorem Canonical.snapBody {i h k t} {f : Nat → Nat → Option Capture → State → Nat × State} (hs : Canonical s)
    (hf : ∀ a b c s, Canonical s → Canonical (f a b c s).2) :
    Canonical (snapBody i f h k t s) :=
  .ite (.trap hs) (.answer (hf _ _ _ _ hs))

theorem CanonicalNext.execSnapGo {h} (hs : Canonical s) : CanonicalNext (execSnapGo h s) := by
  unfold Machine.execSnapGo
  refine .perLane hs fun _ _ _ _ ht => .snapBody ht fun _ _ _ _ hu => ?_
  split
  · exact hu
  · exact .updCapture hu

theorem CanonicalNext.execSnapAbort {h} (hs : Canonical s) : CanonicalNext (execSnapAbort h s) := by
  unfold Machine.execSnapAbort
  refine .perLane hs fun _ _ _ _ ht => .snapBody ht fun _ _ _ _ hu => ?_
  split
  · exact hu
  · exact .captureFail hu

theorem Canonical.digestBody {i h k t} (hs : Canonical s) : Canonical (digestBody i h k t s) :=
  .ite (.trap hs)
    (.ite (.trap hs) (.ite (.trap hs) (.ite (.answer hs) (.update (.fresh (.signRequest (.setThread (.newWid hs))))))))

theorem Canonical.updDigest {serial f} (hs : Canonical s) : Canonical (s.updDigest serial f) :=
  .update hs

theorem Canonical.endDigest {d v} (hs : Canonical s) : Canonical (s.endDigest d v) :=
  .setIncoming (.update hs)

theorem Canonical.stopDigest {d ofs x3} (hs : Canonical s) : Canonical (s.stopDigest d ofs x3) := by
  unfold State.stopDigest
  split
  · exact .updDigest (.engineTicket hs)
  · exact .endDigest (.logWords hs)
  · exact .needPeer hs
  · exact .putPeer hs
  · exact .noteWrite hs
  · exact hs
  · exact hs
  · exact hs

theorem WhenOk.digestWrite {d bs} (hs : Canonical s) : WhenOk Canonical (s.digestWrite d bs) := by
  unfold State.digestWrite
  split
  · exact .error
  · exact .ite (.ite (.ok hs) .error) (.orHeld (.tryStore hs))

theorem CanonicalNext.execDigestComplete {serial uncorrectable} (hs : Canonical s) :
    CanonicalNext (execDigestComplete serial uncorrectable s) := by
  unfold Machine.execDigestComplete
  refine .event hs fun _ ht => ?_
  split
  · exact ht
  · refine .ite ht (.ite (.endDigest ht) ?_)
    split
    · exact .stopDigest ht
    next h =>
      split
      · exact .stopDigest (.of_ok_snd h (.engineRead ht))
      next h1 => exact .endDigest (.of_ok h1 (.digestWrite (.of_ok_snd h (.engineRead ht))))

theorem Canonical.writeRstctl {v} (hs : Canonical s) : Canonical (s.writeRstctl v) :=
  .ite hs (.update hs)

theorem CanonicalEither.restoreStripes {asid pkg job region step base l} (hs : Canonical s) :
    CanonicalEither (State.restoreStripes asid pkg job region step base l s) := by
  induction l generalizing s with
  | nil => exact .ok hs
  | cons t l ih =>
    unfold State.restoreStripes
    split
    · exact .error hs
    · exact ih (.foldl hs fun _ _ ht => .ctxStoreUnits ht)

theorem CanonicalEither.restoreRegions {asid pkg job step l} (hs : Canonical s) :
    CanonicalEither (State.restoreRegions asid pkg job step l s) := by
  induction l generalizing s with
  | nil => exact .ok hs
  | cons r l ih =>
    unfold State.restoreRegions
    dsimp only
    split
    next h => exact .error (.of_either_error h (.restoreStripes hs))
    next h => exact ih (.of_either_ok h (.restoreStripes hs))

theorem Canonical.undefineRegions {asid regions} (hs : Canonical s) : Canonical (s.undefineRegions asid regions) :=
  .foldl (.update hs) fun _ _ ht => .foldl ht fun _ _ hu => .ctxStoreUnits hu

theorem Canonical.restoreTry {asid pkg mask} (hs : Canonical s) : Canonical (s.restoreTry asid pkg mask).2.2 := by
  unfold State.restoreTry
  dsimp only
  split
  · exact hs
  · split
    · exact hs
    · split
      next h => exact .of_either_error h (.restoreRegions hs)
      next h => exact .ctxPut (.of_either_ok h (.restoreRegions hs))
  · exact hs

theorem Canonical.restoreRun {asid pkg mask} (hs : Canonical s) : Canonical (s.restoreRun asid pkg mask).2.2 := by
  unfold State.restoreRun
  dsimp only
  split
  · exact .restoreTry hs
  · exact .undefineRegions (.restoreTry hs)

theorem Canonical.endRestore (hs : Canonical s) : Canonical s.endRestore := by
  unfold State.endRestore
  split
  · exact hs
  · exact .ite (.update hs) hs

end Sys2Proof.Machine
end

section
/-! Stores of bytes in canonical form, 5: what threads and records wait for, queues, launches, and contexts. An image gives back
the larder's and the bank's bytes in `restoreAlloc` and `restoreMatrix`. -/

namespace Sys2Proof.Machine

variable {s : State}

/-! ### What threads and records wait for -/

theorem Canonical.parkWalk {k cycle t w} (hs : Canonical s) : Canonical (s.parkWalk k cycle t w) := by
  unfold State.parkWalk
  refine .parkThread (.setThread (.update ?_))
  dsimp only
  split
  · exact hs
  · exact .update hs

theorem Canonical.parkPending {k cycle} (hs : Canonical s) : Canonical (s.parkPending k cycle) := by
  unfold State.parkPending
  split
  · exact hs
  · refine .ite hs ?_
    split
    · exact hs
    · dsimp only
      split
      · exact .ite (.parkWalk hs) hs
      · exact .ite (.parkThread hs) hs

theorem Canonical.satisfyRecord {rid r} (hs : Canonical s) : Canonical (s.satisfyRecord rid r) :=
  .settleUnit (.updRecord hs)

theorem CanonicalNext.execTimeEventExpiry {rid} (hs : Canonical s) : CanonicalNext (execTimeEventExpiry rid s) := by
  unfold Machine.execTimeEventExpiry
  refine .event hs fun _ ht => ?_
  split
  · exact ht
  · exact .ite (.satisfyRecord ht) ht

theorem Canonical.evaluateWatch {rid} (hs : Canonical s) : Canonical (s.evaluateWatch rid) := by
  unfold State.evaluateWatch
  split
  · exact hs
  · refine .ite hs ?_
    split
    · exact .dropWatch hs
    · exact .satisfyRecord (.updRecord (.dropWatch hs))

theorem CanonicalNext.execWatchedWordEvaluate {rid} (hs : Canonical s) : CanonicalNext (execWatchedWordEvaluate rid s) := by
  unfold Machine.execWatchedWordEvaluate
  refine .event hs fun _ ht => ?_
  split
  · exact ht
  · dsimp only
    split
    · exact .evaluateWatch ht
    · exact .ite (.askWatch ht) (.evaluateWatch ht)

theorem Canonical.resolveTicket {n} (hs : Canonical s) : Canonical (s.resolveTicket n) :=
  .wake (.update hs)

theorem Canonical.writeTres {v} (hs : Canonical s) : Canonical (s.writeTres v) :=
  .ite (.runDumps (.resolveTicket hs)) hs

theorem Canonical.joinTicket {n m} (hs : Canonical s) : Canonical (s.joinTicket n m) :=
  .reaim (.update hs)

theorem Canonical.failTicket {w va reason level entry base size waiters} (hs : Canonical s) :
    Canonical (s.failTicket w va reason level entry base size waiters) := by
  unfold State.failTicket
  refine .ite hs ?_
  dsimp only
  split
  · exact .joinTicket hs
  · exact .report (.update hs)

theorem Canonical.endWalk {w cycle waiters} (hs : Canonical s) : Canonical (s.endWalk w cycle waiters) := by
  unfold State.endWalk
  extract_lets x key without done
  have hd : Canonical done := .foldl (.update hs) fun _ _ ht => .walkFill ht
  clear_value done
  split
  · extract_lets t u
    have ht : Canonical t := .fillPieces hd
    have hu : Canonical u := .ite_of_else ht .updThread
    exact .ite (.resolveTicket ht) (.ite (.ite_of_else (.freeMiss hu) fun hv => .trapWith (.updThread hv)) (.admitPaired hu))
  · exact .ite (.failTicket hd) (.ite (.settleAsync (.logFault (.freeMiss hd))) (.freeMiss hd))

theorem CanonicalNext.execWalkComplete {serial} (hs : Canonical s) : CanonicalNext (execWalkComplete serial s) := by
  unfold Machine.execWalkComplete
  refine .event hs fun _ ht => ?_
  split
  · exact ht
  · exact .ite ht (.settleCycle (.foldl (.fresh ht) fun _ _ hu => .endWalk hu))

theorem Canonical.writeTlbinv {v} (hs : Canonical s) : Canonical (s.writeTlbinv v) :=
  .ite hs (.update hs)

theorem Canonical.flushReports {asid l} (hs : Canonical s) : Canonical (State.flushReports asid l s) := by
  induction l generalizing s with
  | nil => exact hs
  | cons r l ih =>
    unfold State.flushReports
    split
    · exact hs
    · exact .ite (ih (.putReport (.update hs))) (ih hs)

theorem Canonical.retryReport {k} (hs : Canonical s) : Canonical (s.retryReport k) := by
  unfold State.retryReport
  split
  · exact hs
  · split
    · refine .ite hs ?_
      dsimp only
      split
      · exact .endThread (.fileReport hs)
      · exact .ite_of_then (.updThread hs) fun ht => .fileReport (.updCtx ht)
    · exact hs

theorem Canonical.outsideOp {who op pa n b c pdom reply} (hs : Canonical s) :
    Canonical (s.outsideOp who op pa n b c pdom reply) :=
  .accept (.fresh hs)

theorem Canonical.peerRequest {pkg tag req} (hs : Canonical s) : Canonical (s.peerRequest pkg tag req) := by
  unfold State.peerRequest
  split <;> exact .outsideOp hs

theorem Canonical.settlePeer {x} (hs : Canonical s) : Canonical (s.settlePeer x) := by
  unfold State.settlePeer
  refine .ite hs ?_
  dsimp only
  split
  · exact .acknowledge (.setIncoming (.update hs))
  · exact .acknowledge (.giveOld (.countFor (.setIncoming (.update hs))))
  · exact .acknowledge (.countFor (.update hs))
  · exact .acknowledge (.update hs)
  · exact .acknowledge (.update hs)

theorem Canonical.giveEngine {serial va data} (hs : Canonical s) : Canonical (s.giveEngine serial va data) :=
  .update hs

theorem Canonical.ackEngine {serial va} (hs : Canonical s) : Canonical (s.ackEngine serial va) :=
  .update hs

theorem Canonical.wakePacket {who} (hs : Canonical s) : Canonical (s.wakePacket who) :=
  .foldl (.update hs) fun _ _ ht => .satisfyRecord ht

theorem Canonical.peerAnswer {p data} (hs : Canonical s) : Canonical (s.peerAnswer p data) := by
  unfold State.peerAnswer
  dsimp only
  split
  · exact .settlePeer (.update hs)
  · split
    · exact .ite_of_else (.update hs) .landStash
    · exact .update hs
  · exact .update hs
  · exact .giveEngine (.update hs)
  · exact .ackEngine (.update hs)
  · split
    · exact .evaluateWatch (.update hs)
    · exact .update hs
  · exact .wakePacket (.update hs)
  · exact .update hs

theorem CanonicalNext.execPeerMemoryResponse {tag data} (hs : Canonical s) :
    CanonicalNext (execPeerMemoryResponse tag data s) := by
  unfold Machine.execPeerMemoryResponse
  split
  · exact .event hs fun _ ht => ht
  · exact .arrival hs fun _ ht => .peerAnswer ht

/-! ### User-mode queues -/

theorem Canonical.putPacket {asid va p w} (hs : Canonical s) : Canonical (s.putPacket asid va p w) :=
  .ctxStore hs

theorem CanonicalSome.claimIndex {asid d} (hs : Canonical s) : CanonicalSome (s.claimIndex asid d) := by
  unfold State.claimIndex
  split
  · exact .some hs
  · exact .ite (.tryStore hs) .none

theorem Canonical.moveSpills {asid d} (hs : Canonical s) : Canonical (s.moveSpills asid d) :=
  .ite hs (.foldl hs fun _ _ ht => .ite ht (.ctxPut (.putPacket ht)))

theorem Canonical.wakeEnq {asid q} (hs : Canonical s) : Canonical (s.wakeEnq asid q) :=
  .update (.satisfyRecords hs)

theorem Canonical.wakeQueue {asid q} (hs : Canonical s) : Canonical (s.wakeQueue asid q) :=
  .foldl (.update (.wakeEnq hs)) fun _ _ ht => .send ht

theorem CanonicalSome.remoteEnqueue {pkg tag asid q p template claim} (hs : Canonical s) :
    CanonicalSome (s.remoteEnqueue pkg tag asid q p template claim) := by
  unfold State.remoteEnqueue
  split
  · exact .some (.send hs)
  · refine .map (.ite (.claimIndex hs) (.some hs)) fun _ ht => ?_
    split
    · exact .send (.ite_of_then (.putPacket ht) .update)
    · exact .send (.update ht)

theorem Canonical.dropPacket {who} (hs : Canonical s) : Canonical (s.dropPacket who) :=
  .update hs

theorem Canonical.sendPacket {who asid sel p template claim} (hs : Canonical s) :
    Canonical (s.sendPacket who asid sel p template claim) :=
  .send (.update (.fresh hs))

theorem Canonical.enqRemote {k st i h keep asid who sel p log claim} (hs : Canonical s) :
    Canonical (s.enqRemote k st i h keep asid who sel p log claim) := by
  unfold State.enqRemote
  split
  · exact .retryStage (.sendPacket (.ite (.signRequest hs) hs))
  · split
    · exact .retryStage hs
    · exact .stageTrap (.dropPacket hs)
    · dsimp only
      split
      · exact .setIncoming (.advance (.dropPacket hs))
      · exact .parkOn (.update hs)
      · exact .retryStage (.sendPacket (.dropPacket hs))

theorem Canonical.enqPlace {k st i h keep d p q w log} (hs : Canonical s) :
    Canonical (s.enqPlace k st i h keep d p q w log) := by
  unfold State.enqPlace
  dsimp only
  split
  · exact .parkOn hs
  · exact .setIncoming (.putPacket (.advance hs))

theorem Canonical.enqPacket {k st i h keep t asid sel p log} (hs : Canonical s) :
    Canonical (s.enqPacket k st i h keep t asid sel p log) := by
  unfold State.enqPacket
  refine .ite (.stageTrap hs) ?_
  dsimp only
  split
  · exact .ite (.stageTrap hs) (.ite (.retryStage (.releaseStash hs)) (.enqRemote (.releaseStash hs)))
  · refine .ite (.retryStage (.releaseStash hs)) ?_
    split
    · exact .retryStage (.releaseStash hs)
    next h => exact .enqPlace (.signRequest (.of_some h (.claimIndex (.releaseStash hs))))
  · exact .enqPlace hs
  · exact .ite (.stageTrap hs) (.enqRemote hs)

theorem Canonical.enqAt {k st i h keep ea sel} (hs : Canonical s) : Canonical (s.enqAt k st i h keep ea sel) := by
  unfold State.enqAt
  split
  · dsimp only
    split
    · exact .stageTrap hs
    · split
      next h => exact .of_some h (.waitParked hs)
      · split
        · exact .stageTrap hs
        · exact .enqPacket hs
  · exact hs

theorem Canonical.enqBody {i ofs keep h k t} (hs : Canonical s) : Canonical (enqBody i ofs keep h k t s) :=
  .enqAt hs

theorem Canonical.completeEnq {k i h keep log} (hs : Canonical s) : Canonical (s.completeEnq k i h keep log) :=
  .enqAt hs

theorem CanonicalNext.execQueueCopy {serial} (hs : Canonical s) : CanonicalNext (execQueueCopy serial s) := by
  unfold Machine.execQueueCopy
  refine .event hs fun _ ht => ?_
  split
  · exact ht
  · refine .ite ht ?_
    dsimp only
    split
    · exact .report (.update ht)
    · exact .acceptCopy (.update ht)

/-! ### Relaunched threads -/

theorem Canonical.completeInstr {k i h log} (hs : Canonical s) : Canonical (s.completeInstr k i h log) := by
  unfold State.completeInstr
  split
  · exact .completePark hs
  · exact .completePark hs
  · exact .completePark hs
  · split
    · exact .larAccess hs
    · exact hs
  · split
    · exact .larAccess hs
    · exact hs
  · exact .completeObj hs
  · exact .completeObj hs
  · exact .completeObj hs
  · exact .advance hs
  · exact .kickCopy hs
  · exact .completeEnq hs
  · exact .updThread hs

theorem Canonical.complete {k mode log} (hs : Canonical s) : Canonical (s.complete k mode log) := by
  unfold State.complete
  split
  · exact .updThread hs
  · split
    · exact .updThread hs
    · exact .ite (.replay hs) (.completeInstr hs)

/-! ### Launches and blocks -/

theorem Canonical.packetFault {asid detail at_ index queue ty} (hs : Canonical s) :
    Canonical (s.packetFault asid detail at_ index queue ty) :=
  .report hs

theorem Canonical.acceptPacket {x} (hs : Canonical s) : Canonical (s.acceptPacket x) := by
  unfold State.acceptPacket
  dsimp only
  split
  · exact .packetFault (.update hs)
  · split
    · exact .report (.update hs)
    · exact .ite (.packetFault (.update hs)) (.update (.fresh (.update hs)))

theorem CanonicalNext.packetStep {serial f} (hs : Canonical s) : CanonicalNext (packetStep serial f s) := by
  unfold Machine.packetStep
  refine .event hs fun _ ht => ?_
  split
  · exact ht
  · exact .ite (.acceptPacket ht) ht

theorem Canonical.emptyLines {bid eline ecnt} (hs : Canonical s) : Canonical (s.emptyLines bid eline ecnt) := by
  unfold State.emptyLines
  split
  · exact hs
  · exact .foldl hs fun _ _ ht => .setLine ht

theorem Canonical.startCopy {lid l core linear stage bid handle pairing} (hs : Canonical s) :
    Canonical (s.startCopy lid l core linear stage bid handle pairing) :=
  .emptyLines (.ite_of_then (.bindSet (.update hs)) .giveAlloc)

theorem Canonical.startBlock {lid l core second linear stage mismatches} (hs : Canonical s) :
    Canonical (s.startBlock lid l core second linear stage mismatches) := by
  unfold State.startBlock
  dsimp only
  split
  · exact .startCopy (.ite_of_else (.fresh hs) .updLaunch)
  · exact .startCopy (.startCopy (.fresh (.ite_of_else (.fresh hs) .updLaunch)))

theorem CanonicalNext.execBlockStart {launch cores} (hs : Canonical s) : CanonicalNext (execBlockStart launch cores s) := by
  unfold Machine.execBlockStart
  refine .event hs fun _ ht => ?_
  split
  · exact ht
  · split
    · exact .updLaunch (.foldl ht fun _ _ hu => .startBlock hu)
    · exact ht

theorem Canonical.failUnstartable {lid} (hs : Canonical s) : Canonical (s.failUnstartable lid) := by
  unfold State.failUnstartable
  split
  · exact hs
  · exact .ite hs (.ite_of_then (.update (.updLaunch hs)) .packetFault)

theorem Canonical.putGroup {g asid hdr ts} (hs : Canonical s) : Canonical (s.putGroup g asid hdr ts) :=
  .foldl (.update (.fresh hs)) fun _ _ ht => .setThread ht

theorem Canonical.parkAdmitted {k cycle} (hs : Canonical s) : Canonical (s.parkAdmitted k cycle) := by
  unfold State.parkAdmitted
  split
  · exact .settleAsync (.askPark hs)
  · exact hs

theorem Canonical.admitLaunched {core u x} (hs : Canonical s) : Canonical (s.admitLaunched core u x) := by
  unfold State.admitLaunched
  split
  · exact hs
  · exact .settleCycle (.foldl (.fresh (.putGroup (.update (.updCore hs)))) fun _ _ ht => .parkAdmitted ht)

theorem Canonical.admitInitial {u bid b} (hs : Canonical s) : Canonical (s.admitInitial u bid b) := by
  unfold State.admitInitial
  split
  · split
    · exact hs
    · exact .putGroup (.updBlock hs)
  · exact hs

theorem CanonicalNext.execGroupAdmission {core unit} (hs : Canonical s) : CanonicalNext (execGroupAdmission core unit s) := by
  unfold Machine.execGroupAdmission
  refine .event hs fun _ ht => ?_
  dsimp only
  split
  · exact .admitLaunched ht
  · split
    · exact .admitInitial ht
    · exact ht

theorem Canonical.freeResources {bid b} (hs : Canonical s) : Canonical (s.freeResources bid b) :=
  .updCore (.foldl hs fun _ _ ht => .endAlloc ht)

theorem CanonicalSome.tryMergeLaunch {lid} (hs : Canonical s) : CanonicalSome (s.tryMergeLaunch lid) :=
  .tryAll hs fun _ _ ht => .tryMerge ht

theorem Canonical.mergeLaunch {lid} (hs : Canonical s) : Canonical (s.mergeLaunch lid) :=
  .foldl hs fun _ _ ht => .getD (.tryMerge ht) ht

theorem Canonical.leaveCore {lid core} (hs : Canonical s) : Canonical (s.leaveCore lid core) :=
  .ite hs (.releaseSet hs)

theorem Canonical.settleLeaving {asid c} (hs : Canonical s) : Canonical (s.settleLeaving asid c) :=
  .ite hs (.update (.updCtx hs))

theorem Canonical.settlePre (hs : Canonical s) : Canonical s.settlePre :=
  .foldl (.update hs) fun _ _ ht => .settleLeaving ht

theorem Canonical.countPre {pos} (hs : Canonical s) : Canonical (s.countPre pos) :=
  .update hs

theorem Canonical.dueSuccessors {b} (hs : Canonical s) : Canonical (s.dueSuccessors b) :=
  .foldl hs fun _ _ ht => .update (.fresh ht)

theorem Canonical.retire {bid b} (hs : Canonical s) : Canonical (s.retire bid b) :=
  .settlePre (.leaveCore (.ite_of_else
    (.ite_of_else (.update (.ite_of_else (.mergeLaunch (.freeResources hs)) .endMemberships)) .dueSuccessors)
    .updLaunch))

theorem CanonicalNext.execBlockRetire {bid} (hs : Canonical s) : CanonicalNext (execBlockRetire bid s) := by
  unfold Machine.execBlockRetire
  refine .event hs fun _ ht => ?_
  split
  · exact ht
  · exact .ite (.retire ht) ht

theorem Canonical.updSuccessor {n f} (hs : Canonical s) : Canonical (s.updSuccessor n f) :=
  .update hs

theorem Canonical.dropSuccessor {n} (hs : Canonical s) : Canonical (s.dropSuccessor n) :=
  .update hs

theorem Canonical.successorRemote {x sel p} (hs : Canonical s) : Canonical (s.successorRemote x sel p) := by
  unfold State.successorRemote
  dsimp only
  split
  · exact .sendPacket hs
  · split
    · exact hs
    · split
      · exact .updSuccessor (.update hs)
      · exact .sendPacket (.dropPacket hs)
      · exact .dropSuccessor (.dropPacket hs)

theorem Canonical.enqueueSuccessor {x p} (hs : Canonical s) : Canonical (s.enqueueSuccessor x p) := by
  unfold State.enqueueSuccessor
  refine .ite (.successorRemote hs) ?_
  dsimp only
  split
  · exact .dropSuccessor hs
  · split
    · exact hs
    next h =>
      split
      · exact .update (.putPacket (.dropSuccessor (.of_some h (.ite (.claimIndex hs) (.some hs)))))
      · exact .updSuccessor (.of_some h (.ite (.claimIndex hs) (.some hs)))

theorem Canonical.judgeSuccessor {x p old} (hs : Canonical s) : Canonical (s.judgeSuccessor x p old) :=
  .ite (.enqueueSuccessor (.updSuccessor hs)) (.ite_of_else (.dropSuccessor hs) .report)

theorem Canonical.countSuccessor {x p} (hs : Canonical s) : Canonical (s.countSuccessor x p) := by
  unfold State.countSuccessor
  split
  · exact .judgeSuccessor hs
  · dsimp only
    split
    · exact .judgeSuccessor (.accept (.updSuccessor (.fresh (.fresh hs))))
    · exact .accept (.updSuccessor (.fresh (.fresh hs)))

theorem Canonical.checkSuccessor {x p} (hs : Canonical s) : Canonical (s.checkSuccessor x p) :=
  .ite (.packetFault (.dropSuccessor hs)) (.ite (.enqueueSuccessor (.updSuccessor hs)) (.countSuccessor (.updSuccessor hs)))

theorem Canonical.stepSuccessor {x} (hs : Canonical s) : Canonical (s.stepSuccessor x) := by
  unfold State.stepSuccessor
  split
  · refine .ite (.enqueueSuccessor hs) ?_
    split
    · exact .judgeSuccessor hs
    · exact hs
  · split
    next h => exact .checkSuccessor (.of_ok_snd h (.engineRead hs))
    · exact .needPeer hs
    · exact hs
    · exact hs
    · exact .checkSuccessor hs

theorem CanonicalNext.execSuccessorEnqueue (hs : Canonical s) : CanonicalNext (execSuccessorEnqueue s) := by
  unfold Machine.execSuccessorEnqueue
  refine .event hs fun _ ht => ?_
  split
  · exact ht
  · exact .ite (.stepSuccessor ht) ht

theorem Canonical.hubAdd {asid va v} (hs : Canonical s) : Canonical (s.hubAdd asid va v) := by
  unfold State.hubAdd
  split
  · exact hs
  · exact .accept (.fresh hs)

theorem Canonical.signalLaunch {l} (hs : Canonical s) : Canonical (s.signalLaunch l) :=
  .ite hs (.hubAdd (.ite hs (.hubAdd hs)))

theorem CanonicalNext.execLaunchCompletionSignal {launch} (hs : Canonical s) :
    CanonicalNext (execLaunchCompletionSignal launch s) := by
  unfold Machine.execLaunchCompletionSignal
  refine .event hs fun _ ht => ?_
  split
  · exact ht
  · split
    · exact ht
    next h => exact .signalLaunch (.update (.of_some h (.ite (.tryMergeLaunch ht) .none)))

theorem CanonicalNext.execQueuePacketTake {asid queue} (hs : Canonical s) :
    CanonicalNext (execQueuePacketTake asid queue s) := by
  unfold Machine.execQueuePacketTake
  refine .event hs fun _ ht => ?_
  split
  · exact ht
  · exact .ite ht (.wakeQueue (.moveSpills (.ctxPut (.update (.fresh ht)))))

/-! ### Contexts, pre-emption and paired blocks -/

theorem Canonical.uncrock {f} (hs : Canonical s) : Canonical (s.uncrock f) :=
  .foldl (.update hs) fun _ _ ht => .pressBins ht

theorem Canonical.dropThread {k t} (hs : Canonical s) : Canonical (s.dropThread k t) :=
  .leaveSlot (.foldl hs fun _ _ ht => .freeMiss ht)

theorem Canonical.discard {f} (hs : Canonical s) : Canonical (s.discard f) :=
  .ite_of_then (.update (.foldl hs fun _ _ ht => .dropThread ht)) fun hu => .foldl (.uncrock hu) fun _ _ ht => .settleUnit ht

theorem Canonical.askResume {k event cycle} (hs : Canonical s) : Canonical (s.askResume k event cycle) := by
  unfold State.askResume
  split
  · exact hs
  · exact .ite hs (.settleAsync (.askPark hs))

theorem Canonical.askAll {event f} (hs : Canonical s) : Canonical (s.askAll event f) :=
  .settleCycle (.foldl (.fresh hs) fun _ _ ht => .askResume ht)

theorem Canonical.emptyUnit {u} (hs : Canonical s) : Canonical (s.emptyUnit u) :=
  .settleCycle (.foldl (.fresh (.setUnit hs)) fun _ _ ht => .askResume ht)

theorem Canonical.finishCopies {bid} (hs : Canonical s) : Canonical (s.finishCopies bid) :=
  .foldl hs fun _ _ ht => .runCopy ht

theorem Canonical.flush {bid} (hs : Canonical s) : Canonical (s.flush bid) := by
  unfold State.flush
  split
  · exact hs
  · extract_lets ended unwalked unqueued left unsigned alone
    have hw : Canonical unwalked := .ite_of_then (.finishCopies (.discard hs)) fun ht => .foldl ht fun _ _ hu => .dropWalk hu
    have hu : Canonical unsigned := .update (.endMemberships (.mergeLaunch (.freeResources (.setArrayQueue hw))))
    refine .settlePre (.leaveCore (.updBlock ?_))
    clear_value unsigned
    unfold alone
    split
    · exact .ite_of_then hu .update
    · exact hu

theorem Canonical.restart {bid core} (hs : Canonical s) : Canonical (s.restart bid core) := by
  unfold State.restart
  split
  · exact hs
  · split
    · exact hs
    · exact .ite hs (.startBlock (.update hs))

theorem CanonicalNext.execFlushedBlockRestart {bid core} (hs : Canonical s) :
    CanonicalNext (execFlushedBlockRestart bid core s) := by
  unfold Machine.execFlushedBlockRestart
  refine .event hs fun _ ht => ?_
  split
  · exact ht
  · split
    · exact ht
    · exact .ite ht (.foldl (.restart ht) fun _ _ hu => .restart hu)

theorem Canonical.startSave {bid} (hs : Canonical s) : Canonical (s.startSave bid) :=
  .askAll (.updBlock hs)

theorem Canonical.recordHeld {bid} (hs : Canonical s) : Canonical (s.recordHeld bid) := by
  unfold State.recordHeld
  refine .foldl hs fun _ _ ht => ?_
  split
  · exact .writeRecord ht
  · exact ht

theorem Canonical.enterImage {bid page pages b c l} (hs : Canonical s) : Canonical (s.enterImage bid page pages b c l) := by
  unfold State.enterImage
  extract_lets dropped x bytes stored mine uncrocked nos settled saved
  have hd : Canonical stored := .ctxStoreUnits (.foldl hs fun _ _ ht => .dropLine ht)
  have hv : Canonical saved := .update (.foldl (.uncrock hd) fun _ _ ht => .setLine ht)
  exact .settlePre (.leaveCore (.wakeEngine (.updBlock (.updCtx (.updCore (.setArrayQueue hv))))))

theorem CanonicalNext.execBlockSaveComplete {bid} (hs : Canonical s) : CanonicalNext (execBlockSaveComplete bid s) := by
  unfold Machine.execBlockSaveComplete
  refine .event hs fun _ ht => ?_
  split
  · exact ht
  · refine .ite ht (.ite (.releaseStash ht) ?_)
    dsimp only
    split
    next h =>
      split
      · exact .enterImage (.recordHeld (.of_some h (.tryMergeLaunch (.releaseStash ht))))
      · exact .wake (.updBlock (.of_some h (.tryMergeLaunch (.releaseStash ht))))
    · exact .releaseStash ht

theorem Canonical.restoreAlloc {bid core x} (hs : Canonical s) : Canonical (s.restoreAlloc bid core x) :=
  .foldl (.updBlock (.initUnits hs)) fun _ _ ht =>
    .ite_of_then (.setLine ht) fun hu => .setLarder hu (wf_spliceMap_span ht.larder _ _ _)

theorem Canonical.restoreMatrix {bid core x} (hs : Canonical s) : Canonical (s.restoreMatrix bid core x) :=
  .setArrayQueue (.foldl (.foldl (.updCore (.foldl hs fun _ _ ht => .grant ht)) fun _ _ ht => .update (.update ht))
    fun _ _ ht => .setBank ht (List.foldlRecOn _ _ ht.bank fun _ hm _ _ => Map.wf_put hm _ _))

theorem CanonicalSome.placeRecords {core l} (hs : Canonical s) : CanonicalSome (State.placeRecords core l s) := by
  induction l generalizing s with
  | nil => exact .some hs
  | cons p l ih =>
    unfold State.placeRecords
    split
    · exact .none
    · exact ih (.syncRecord (.update hs))

theorem CanonicalSome.resumeBlock {bid core b l x} (hs : Canonical s) : CanonicalSome (s.resumeBlock bid core b l x) := by
  unfold State.resumeBlock
  extract_lets bound allocated restored copied woken
  have hr : Canonical restored := .restoreMatrix (.foldl (.bindSet (.updBlock hs)) fun _ _ ht => .restoreAlloc ht)
  have hw : Canonical woken := .wake (.wakeEngine (.releaseSignals (.update hr)))
  split
  · exact .none
  next u hu =>
    have hu : Canonical u := .of_some hu (.placeRecords hw)
    exact .some (.foldl (.foldl hu fun _ _ ht => .enterUnit (.foldl ht fun _ _ hv => .updRecord hv)) fun _ _ ht => .settleUnit ht)

theorem Canonical.freeImage {bid asid x} (hs : Canonical s) : Canonical (s.freeImage bid asid x) :=
  .updCtx (.update hs)

theorem Canonical.restoreFails {bid asid base b l detail page} (hs : Canonical s) :
    Canonical (s.restoreFails bid asid base b l detail page) := by
  unfold State.restoreFails
  refine .ite (.foldl hs fun _ _ ht => ?_) (.report (.updCtx hs))
  split
  · exact .flush (.dropCopies (.freeImage ht))
  · exact .flush ht

theorem CanonicalNext.execBlockRestore {bid core} (hs : Canonical s) : CanonicalNext (execBlockRestore bid core s) := by
  unfold Machine.execBlockRestore
  refine .event hs fun _ ht => ?_
  split
  · split
    · refine .ite ht ?_
      dsimp only
      split
      · refine .restoreFails ?_
        split
        · exact .ite (.logBad ht) ht
        · exact ht
      · exact .getD (.map (.resumeBlock ht) fun _ hu => .freeImage hu) ht
    · exact ht
  · exact ht

theorem Canonical.act {copies a} (hs : Canonical s) : Canonical (s.act copies a) := by
  unfold State.act
  split
  · exact .countPre hs
  · exact .countPre (.foldl hs fun _ _ ht => .updBlock ht)
  · exact .countPre (.foldl hs fun _ _ ht => .flush ht)
  · exact .countPre (.foldl hs fun _ _ ht => .startSave ht)

theorem Canonical.preempt {force all bid} (hs : Canonical s) : Canonical (s.preempt force all bid) := by
  unfold State.preempt
  split
  · exact hs
  · split
    · exact .ite hs (.act (.foldl (.ite (.updCtx hs) hs) fun _ _ ht => .updBlock ht))
    · exact hs

theorem Canonical.writePrectl {v} (hs : Canonical s) : Canonical (s.writePrectl v) :=
  .ite (.update hs) (.ite (.update hs) (.settlePre (.foldl (.update hs) fun _ _ ht => .preempt ht)))

theorem CanonicalNext.execDispatcherPreempt {launch bid} (hs : Canonical s) :
    CanonicalNext (execDispatcherPreempt launch bid s) := by
  unfold Machine.execDispatcherPreempt
  refine .event hs fun _ ht => ?_
  split
  · exact ht
  · exact .ite (.preempt ht) ht

theorem CanonicalNext.execDrainlimExpiry {bid} (hs : Canonical s) : CanonicalNext (execDrainlimExpiry bid s) := by
  unfold Machine.execDrainlimExpiry
  refine .event hs fun _ ht => ?_
  split
  · exact ht
  · split
    · exact .ite ht (.ite (.startSave (.countPre ht)) (.updBlock ht))
    · exact ht

theorem CanonicalNext.execDeferredSave {bid} (hs : Canonical s) : CanonicalNext (execDeferredSave bid s) := by
  unfold Machine.execDeferredSave
  refine .event hs fun _ ht => ?_
  split
  · exact ht
  · exact .ite (.startSave (.countPre ht)) ht

theorem Canonical.create {asid} (hs : Canonical s) : Canonical (s.create asid).2 := by
  unfold State.create
  dsimp only
  split
  · exact hs
  · split
    · exact hs
    · split
      · exact hs
      · exact .failStale (.updCtx (.update hs))

theorem Canonical.completeHeld {asid} (hs : Canonical s) : Canonical (s.completeHeld asid) := by
  unfold State.completeHeld
  refine .foldl hs fun _ _ ht => ?_
  split
  · exact .settleCycle (.parkThread (.updThread ht))
  · exact .updThread ht

theorem Canonical.resumeCtx {asid} (hs : Canonical s) : Canonical (s.resumeCtx asid).2 := by
  unfold State.resumeCtx
  dsimp only
  split
  · exact hs
  · split
    · split
      · exact .completeHeld (.updCtx hs)
      · exact hs
    · split
      · exact hs
      · split
        · exact hs
        · exact .completeHeld (.failStale (.updCtx (.updCtx hs)))

theorem Canonical.killStash {asid} (hs : Canonical s) : Canonical (s.killStash asid) := by
  unfold State.killStash
  refine .foldl hs fun _ _ ht => ?_
  split
  · refine .ite ?_ (.dropLine ht)
    dsimp only
    split
    next h => exact .dropLine (.of_some h (.tryWriteBack ht))
    · exact .hubStore (.dropLine ht)
  · exact .dropLine ht

theorem Canonical.kill {asid} (hs : Canonical s) : Canonical (s.kill asid).2 := by
  unfold State.kill
  split
  · exact hs
  · extract_lets mine bids lids uncaptured discarded unwalked uncopied keep killed
    have hd : Canonical discarded := .discard (.killStash (.foldl (.update hs) fun _ _ ht => .mergeLaunch ht))
    have hu : Canonical uncopied := .dropCopies (.foldl hd fun _ _ ht => .dropWalk ht)
    clear_value uncopied
    have hk : Canonical killed := .update hu
    clear_value killed
    exact Canonical.settlePre hk

theorem Canonical.freeze {asid} (hs : Canonical s) : Canonical (s.freeze asid).2 := by
  unfold State.freeze
  split
  · exact hs
  · exact .askAll (.updCtx hs)

theorem Canonical.thaw {asid} (hs : Canonical s) : Canonical (s.thaw asid).2 := by
  unfold State.thaw
  split
  · exact hs
  · split
    · exact hs
    · exact .wake (.update (.updCtx hs))

theorem Canonical.preemptAll {asid} (hs : Canonical s) : Canonical (s.preemptAll asid).2 := by
  unfold State.preemptAll
  split
  · exact hs
  · exact .foldl (.updCtx hs) fun _ _ ht => .preempt ht

theorem Canonical.writeCtxctl {v} (hs : Canonical s) : Canonical (s.writeCtxctl v) := by
  unfold State.writeCtxctl
  refine .ite (.update hs) (.ite (.update hs) ?_)
  dsimp only
  split
  · exact .update (.create hs)
  · exact .ite (.update (.preemptAll hs)) (.settlePre (.update (.preemptAll hs)))
  · exact .update (.resumeCtx hs)
  · exact .update (.kill hs)
  · exact .update (.freeze hs)
  · exact .update (.thaw hs)
  · exact .update hs

theorem CanonicalNext.ctxStep {action value} (hs : Canonical s) : CanonicalNext (ctxStep action value s) :=
  .event hs fun _ ht => .ite (.writeCtxctl ht) ht

theorem Canonical.noteStalls (hs : Canonical s) : Canonical s.noteStalls :=
  .update hs

theorem CanonicalNext.execQueueDeadlockDetect {asid queue} (hs : Canonical s) :
    CanonicalNext (execQueueDeadlockDetect asid queue s) := by
  unfold Machine.execQueueDeadlockDetect
  refine .event hs fun _ ht => ?_
  split
  · exact .ite (.report (.updCtx ht)) ht
  · exact ht

theorem Canonical.clearPair {bid} (hs : Canonical s) : Canonical (s.clearPair bid) :=
  .updBlock hs

theorem Canonical.testCore {core} (hs : Canonical s) : Canonical (s.testCore core) :=
  .foldl (.update (.fresh hs)) fun _ _ ht => .emptyUnit (.update (.fresh ht))

theorem Canonical.mismatch {first second b p} (hs : Canonical s) : Canonical (s.mismatch first second b p) :=
  .ite_of_then (.flush (.flush (.updBlock (.logArray hs)))) fun ht => .testCore (.testCore (.updLaunch (.update ht)))

theorem CanonicalNext.execPairedCheckPoint {bid lin} (hs : Canonical s) : CanonicalNext (execPairedCheckPoint bid lin s) := by
  unfold Machine.execPairedCheckPoint
  refine .event hs fun _ ht => ?_
  split
  · exact ht
  · split
    · exact ht
    · dsimp only
      split
      · split
        · exact .ite ht
            (.ite (.mismatch ht)
              (.ite_of_then (.updThread (.foldl (.clearPair (.clearPair ht)) fun _ _ hu => .accept hu)) .updThread))
        · exact ht
      · exact ht

end Sys2Proof.Machine
end

section
/-! Stores of bytes in canonical form, 6: the collective engine, repartition, the ports' receiving side and the platform. A start
after a loss of power takes what the stacks hold, and empties the larder and the bank (`startUp`). -/

namespace Sys2Proof.Machine

variable {s : State}

/-! ### The collective engine -/

theorem Canonical.updRun {serial f} (hs : Canonical s) : Canonical (s.updRun serial f) :=
  .update hs

theorem Canonical.threadArrive {asid bid obj req} (hs : Canonical s) : Canonical (s.threadArrive asid bid obj req) := by
  unfold State.threadArrive
  split
  · exact hs
  · refine .ite hs (.ite (.update hs) ?_)
    split
    next h => exact .of_some h (.objArrive hs)
    · exact .report hs

theorem Canonical.answerEnded {asid g} (hs : Canonical s) : Canonical (s.answerEnded asid g) :=
  .foldl (.update hs) fun _ _ ht => .send ht

theorem Canonical.freeGraph {asid g wid} (hs : Canonical s) : Canonical (s.freeGraph asid g wid) :=
  .setIncoming (.updCtx hs)

theorem Canonical.closeRun {r v} (hs : Canonical s) : Canonical (s.closeRun r v) := by
  unfold State.closeRun
  extract_lets closed arrived answered
  have ha : Canonical arrived := by
    unfold arrived
    split
    · exact .threadArrive (.update hs)
    · exact .update hs
  have hw : Canonical answered := .answerEnded (.setIncoming ha)
  split
  · exact .updRun hw
  · split
    · exact .freeGraph hw
    · exact hw

theorem Canonical.failRun {serial node reason pkg ofs} (hs : Canonical s) :
    Canonical (s.failRun serial node reason pkg ofs) := by
  unfold State.failRun
  split
  · exact hs
  · exact .ite hs (.ite (.closeRun (.report hs)) (.updRun hs))

theorem Canonical.endStalled {r record} (hs : Canonical s) : Canonical (s.endStalled r record) :=
  .ite (.closeRun (.report hs)) hs

theorem Canonical.answerNotices {serial} (hs : Canonical s) : Canonical (s.answerNotices serial) := by
  unfold State.answerNotices
  split
  · exact hs
  · refine .ite hs (.foldl hs fun _ _ ht => ?_)
    split
    · exact ht
    · exact .ite ht (.ite (.failRun (.send (.update ht))) (.ite (.send (.updRun (.update ht))) ht))

theorem Canonical.startNode {serial i} (hs : Canonical s) : Canonical (s.startNode serial i) := by
  unfold State.startNode
  split
  · exact hs
  · exact .ite hs (.ite (.failRun hs) (.ite (.failRun hs) (.ite_of_else (.updRun hs) .send)))

theorem Canonical.startReady {serial} (hs : Canonical s) : Canonical (s.startReady serial) := by
  unfold State.startReady
  split
  · exact hs
  · exact .ite hs (.answerNotices (.foldl hs fun _ _ ht => .startNode ht))

theorem Canonical.startRuns (hs : Canonical s) : Canonical s.startRuns :=
  .foldl hs fun _ _ ht => .startReady ht

theorem Canonical.nodeDone {serial i} (hs : Canonical s) : Canonical (s.nodeDone serial i) := by
  unfold State.nodeDone
  split
  · exact hs
  · exact .ite (.startRuns (.closeRun (.updRun hs))) (.startReady (.updRun hs))

theorem WhenOk.collRead {r va n} (hs : Canonical s) : WhenOk (fun r => Canonical r.2) (s.collRead r va n) := by
  unfold State.collRead
  refine .engineRead (.ite hs (.foldl hs fun _ _ ht => ?_))
  split
  · exact .ite (.capturePassing ht) ht
  · exact ht

theorem WhenOk.collWrite {asid bid serial acked bs ps ofs} (hs : Canonical s) :
    WhenOk Canonical (s.collWrite asid bid serial acked bs ps ofs) := by
  induction ps generalizing ofs s with
  | nil => exact .ok hs
  | cons p ps ih =>
    unfold State.collWrite
    split
    · exact .error
    · refine .ite .error (.ite (.ite (ih hs) .error) ?_)
      split
      next h => exact ih (.of_some h (.tryStore hs))
      · exact .error

theorem WhenOk.putElem {r n ofs combine bs} (hs : Canonical s) : WhenOk Canonical (s.putElem r n ofs combine bs) := by
  unfold State.putElem
  dsimp only
  split
  · exact .collWrite hs
  · split
    · exact .error
    next h =>
      split
      · exact .error
      next h1 => exact .ok (.countFor (.of_ok h1 (.collWrite (.of_ok_snd h (.collRead hs)))))

theorem Canonical.forget {serial va n} (hs : Canonical s) : Canonical (s.forget serial va n) :=
  .updRun hs

theorem Canonical.moveNode {serial n data fuel ofs} (hs : Canonical s) :
    Canonical (State.moveNode serial n data fuel ofs s).2.2 := by
  induction fuel generalizing ofs s with
  | zero => exact hs
  | succ fuel ih =>
    unfold State.moveNode
    split
    · exact hs
    next r _ =>
      extract_lets u
      split
      · exact hs
      next input _ =>
        have hi : WhenOk (fun x => Canonical x.2) input := by
          unfold input
          split
          · exact .ok hs
          · exact .collRead hs
        clear_value input
        cases input with
        | error x => exact hs
        | ok p =>
          obtain ⟨bs, t⟩ := p
          have ht : Canonical t := .of_ok_snd rfl hi
          dsimp only
          split
          · exact ht
          next h => exact ih (.forget (.forget (.of_ok h (.putElem ht))))

theorem Canonical.stopNode {serial i ofs x} (hs : Canonical s) : Canonical (s.stopNode serial i ofs x) := by
  unfold State.stopNode
  split
  · exact hs
  · split
    · exact .failRun hs
    · exact .failRun (.logWords hs)
    · exact .updRun (.engineTicket hs)
    · exact .needPeer hs
    · exact .putPeer hs
    · exact .noteWrite hs
    · exact hs
    · exact hs

theorem Canonical.moveStep {r i n} (hs : Canonical s) : Canonical (s.moveStep r i n) := by
  unfold State.moveStep
  dsimp only
  split
  · exact .stopNode (.updRun (.moveNode hs))
  · exact .nodeDone (.updRun (.moveNode hs))

theorem Canonical.drainOne {serial i} (hs : Canonical s) : Canonical (s.drainOne serial i).2 := by
  unfold State.drainOne
  split
  · exact hs
  · split
    · exact hs
    · dsimp only
      split
      · exact .stopNode (.updRun (.moveNode hs))
      · exact .updRun (.moveNode hs)

theorem Canonical.drainStep {serial i fuel} (hs : Canonical s) : Canonical (s.drainStep serial i fuel) := by
  induction fuel generalizing s with
  | zero => exact hs
  | succ fuel ih =>
    unfold State.drainStep
    split
    next h => exact .of_snd h (.drainOne hs)
    next h =>
      have ht := Canonical.of_snd h (.drainOne hs)
      split
      · exact ht
      · exact .ite (.nodeDone ht) (ih ht)

theorem Canonical.gather {serial n fuel bs} (hs : Canonical s) : Canonical (State.gather serial n fuel bs s).2.2 := by
  induction fuel generalizing bs s with
  | zero => exact hs
  | succ fuel ih =>
    unfold State.gather
    split
    · exact hs
    · dsimp only
      split
      · exact hs
      · split
        · exact hs
        next h => exact ih (.forget (.of_ok_snd h (.collRead hs)))

theorem Canonical.withSource {r i n} (hs : Canonical s) {f : List Byte → State → State}
    (hf : ∀ a s, Canonical s → Canonical (f a s)) :
    Canonical (s.withSource r i n f) := by
  unfold State.withSource
  dsimp only
  split
  · exact .stopNode (.updRun (.gather hs))
  · exact hf _ _ (.updRun (.gather hs))

theorem Canonical.sendStep {r i n} (hs : Canonical s) : Canonical (s.sendStep r i n) := by
  unfold State.sendStep
  split
  · exact .withSource hs fun _ _ ht => .ite_of_then (.updRun (.send ht)) .nodeDone
  · exact .ite hs (.nodeDone hs)
  · exact hs

theorem Canonical.contribute {r i n} (hs : Canonical s) : Canonical (s.contribute r i n) :=
  .withSource hs fun _ _ ht => .ite (.send (.updRun ht)) (.send (.updRun ht))

theorem Canonical.nodeStep {serial i} (hs : Canonical s) : Canonical (s.nodeStep serial i) := by
  unfold State.nodeStep
  split
  · exact hs
  · split
    · exact .endStalled hs
    · refine .ite hs ?_
      dsimp only
      split
      · exact .nodeDone hs
      · exact .moveStep hs
      · exact .sendStep hs
      · exact .drainStep hs
      · exact .ite (.contribute hs) (.drainStep hs)
      · exact .moveStep hs

theorem CanonicalNext.execSendNotice {asid graph node pkg run len dt rop} (hs : Canonical s) :
    CanonicalNext (execSendNotice asid graph node pkg run len dt rop s) := by
  unfold Machine.execSendNotice
  split
  · exact .event hs fun _ ht => ht
  · refine .arrival hs fun _ ht => .ite ht ?_
    dsimp only
    split
    · exact .startRuns (.answerNotices (.answerEnded (.update ht)))
    · exact .answerEnded (.update ht)

theorem CanonicalNext.execClearToSend {asid graph run node} (hs : Canonical s) :
    CanonicalNext (execClearToSend asid graph run node s) := by
  unfold Machine.execClearToSend
  refine .arrivalAny hs fun _ ht => ?_
  split
  · exact ht
  · exact .ite (.startRuns (.nodeStep (.updRun ht))) ht

theorem CanonicalNext.execCollectiveData {asid graph run node pkg data} (hs : Canonical s) :
    CanonicalNext (execCollectiveData asid graph run node pkg data s) := by
  unfold Machine.execCollectiveData
  refine .arrival hs fun _ ht => ?_
  split
  · exact ht
  · exact .ite_of_then (.startRuns (.failRun ht)) fun hu => .ite (.ite hu (.startRuns (.nodeStep (.updRun ht)))) ht

theorem Canonical.passTwo {r i n words} (hs : Canonical s) : Canonical (s.passTwo r i n words) :=
  .send (.foldl (.updRun hs) fun _ _ ht => .countFor ht)

theorem Canonical.sredResult {r i n bs} (hs : Canonical s) : Canonical (s.sredResult r i n bs) :=
  .nodeStep (.updRun (.ite_snd (.foldl hs fun _ _ ht => .countFor ht) hs))

theorem CanonicalNext.execSwitchReductionResult {serial node ok data} (hs : Canonical s) :
    CanonicalNext (execSwitchReductionResult serial node ok data s) := by
  unfold Machine.execSwitchReductionResult
  refine .arrivalAny hs fun _ ht => ?_
  split
  · exact ht
  · exact .ite ht (.ite (.startRuns (.failRun ht)) (.ite (.passTwo ht) (.startRuns (.sredResult ht))))

theorem Canonical.collRunBody {i tid h k t} (hs : Canonical s) : Canonical (collRunBody i tid h k t s) := by
  unfold Machine.collRunBody
  dsimp only
  split
  · exact hs
  · refine .ite (.trap hs) ?_
    split
    · exact .trap hs
    · exact .trap hs
    · split
      · exact .answer hs
      · refine .ite (.answer hs) (.ite (.answer hs) ?_)
        split
        next h => exact .of_some h (.waitSlot hs)
        · exact .releasing hs fun _ ht => .startRuns (.update (.updCtx (.fresh (.signRequest (.setThread (.newWid ht))))))

theorem Canonical.collLoadBody {i h k t} (hs : Canonical s) : Canonical (collLoadBody i h k t s) :=
  .ite (.trap hs)
    (.ite (.trap hs) (.ite (.trap hs) (.releasing hs fun _ ht => .update (.fresh (.signRequest (.setThread (.newWid ht)))))))

theorem Canonical.collDropBody {i h k t} (hs : Canonical s) : Canonical (collDropBody i h k t s) := by
  unfold Machine.collDropBody
  refine .ite (.trap hs) ?_
  dsimp only
  split
  · exact .answer hs
  · exact .ite (.answer hs) (.ite (.freeGraph (.setThread (.newWid hs))) (.updCtx (.setThread (.newWid hs))))

theorem Canonical.loadGraph {c nodes} (hs : Canonical s) : Canonical (s.loadGraph c nodes).2 := by
  unfold State.loadGraph
  split
  · exact hs
  · split
    · exact hs
    · split
      · exact hs
      · exact .updCtx hs

theorem Canonical.freeWord {a} (hs : Canonical s) : Canonical (s.freeWord a).2 :=
  .update hs

theorem CanonicalNext.execCollLoadComplete {serial} (hs : Canonical s) : CanonicalNext (execCollLoadComplete serial s) := by
  unfold Machine.execCollLoadComplete
  refine .event hs fun _ ht => ?_
  split
  · exact ht
  · refine .ite ht ?_
    dsimp only
    split
    next h => exact .setIncoming (.update (.loadGraph (.of_ok_snd h (.engineRead ht))))
    · exact .setIncoming (.update (.freeWord (.logWords ht)))
    · exact .update (.engineTicket ht)
    · exact .needPeer ht
    · exact ht

/-! ### Repartition -/

theorem Canonical.setRepartGroup {asid grp g} (hs : Canonical s) : Canonical (s.setRepartGroup asid grp g) :=
  .updCtx hs

theorem Canonical.updIssue {serial f} (hs : Canonical s) : Canonical (s.updIssue serial f) :=
  .update hs

theorem Canonical.closeIssue {serial v} (hs : Canonical s) : Canonical (s.closeIssue serial v) := by
  unfold State.closeIssue
  split
  · exact hs
  · exact .setIncoming (.ite_of_then (.update hs) .threadArrive)

theorem Canonical.acceptDescriptor {asid pkg handle d serial} (hs : Canonical s) :
    Canonical (s.acceptDescriptor asid pkg handle d serial) :=
  .ite (.ite (.closeIssue hs) (.send hs)) (.ite (.updIssue (.setRepartGroup hs)) (.send (.setRepartGroup hs)))

theorem Canonical.stopIssue {r ofs x3} (hs : Canonical s) : Canonical (s.stopIssue r ofs x3) := by
  unfold State.stopIssue
  split
  · exact .updIssue (.engineTicket hs)
  · exact .needPeer hs
  · exact .putPeer hs
  · exact .noteWrite hs
  · exact hs
  · exact hs
  · exact hs
  · exact hs

theorem Canonical.moveAreas {serial fuel} (hs : Canonical s) : Canonical (State.moveAreas serial fuel s) := by
  induction fuel generalizing s with
  | zero => exact hs
  | succ fuel ih =>
    unfold State.moveAreas
    split
    · exact hs
    · split
      · exact hs
      · dsimp only
        split
        next h => exact ih (.updIssue (.of_ok h (.collWrite hs)))
        · exact .ite (ih (.updIssue hs)) (.stopIssue hs)

theorem Canonical.moveEnding {asid grp} (hs : Canonical s) : Canonical (s.moveEnding asid grp) :=
  .ite_of_else (.foldl hs fun _ _ ht => .moveAreas ht) fun hu => .foldl hu fun _ _ ht => .closeIssue ht

theorem Canonical.settleIssue {serial todo fate} (hs : Canonical s) : Canonical (s.settleIssue serial todo fate) :=
  .updIssue hs

theorem Canonical.undefineAreas {r} (hs : Canonical s) : Canonical (s.undefineAreas r) :=
  .settleIssue (.update hs)

theorem Canonical.failRepart {asid grp} (hs : Canonical s) : Canonical (s.failRepart asid grp) :=
  .ite_of_else (.setRepartGroup (.foldl hs fun _ _ ht => .undefineAreas ht)) fun hu => .foldl hu fun _ _ ht => .send ht

theorem Canonical.readInput {serial fuel} (hs : Canonical s) : Canonical (State.readInput serial fuel s).2 := by
  induction fuel generalizing s with
  | zero => exact hs
  | succ fuel ih =>
    unfold State.readInput
    split
    · exact hs
    · dsimp only
      split
      · exact hs
      · split
        · exact hs
        next h => exact ih (.updIssue (.of_ok_snd h (.engineRead hs)))

theorem Canonical.readInputs {l} (hs : Canonical s) : Canonical (s.readInputs l).2 :=
  List.foldlRecOn (motive := fun acc : _ × State => Canonical acc.2) l _ hs fun _ ht _ _ => .readInput ht

theorem Canonical.stopRepart {asid grp r x} (hs : Canonical s) : Canonical (s.stopRepart asid grp r x) := by
  unfold State.stopRepart
  dsimp only
  split
  · exact .failRepart (.ite_of_then (.logWords hs) .send)
  · exact .failRepart (.ite_of_then (.report hs) .send)
  · exact .stopIssue hs

theorem Canonical.startRepart {asid grp g} (hs : Canonical s) : Canonical (s.startRepart asid grp g) := by
  unfold State.startRepart
  refine .ite (.setRepartGroup hs) (.ite hs ?_)
  dsimp only
  split
  next h => exact .foldl (.setRepartGroup (.of_snd h (.readInputs hs))) fun _ _ ht => .foldl ht fun _ _ hu => .send hu
  next h => exact .foldl (.ite_of_else (.of_snd h (.readInputs hs)) .setRepartGroup) fun _ _ ht => .stopRepart ht

theorem CanonicalSome.takeControl {pkg} (hs : Canonical s) : CanonicalSome (s.takeControl pkg) := by
  unfold State.takeControl
  dsimp only
  cases List.findSome? (fun p => State.messageOf s.controlFlits 3 p) _ with
  | none => exact .none
  | some m => exact .some (.update hs)

theorem Canonical.finishRepart {asid grp g} (hs : Canonical s) : Canonical (s.finishRepart asid grp g) := by
  unfold State.finishRepart
  refine .ite hs ?_
  split
  next h =>
    refine .ite (.of_snd h (.readInputs hs)) ?_
    dsimp only
    split
    · exact .stopRepart (.of_snd h (.readInputs hs))
    · exact .setRepartGroup (.foldl (.update (.of_snd h (.readInputs hs))) fun _ _ ht => .settleIssue ht)
  next h => exact .foldl (.of_snd h (.readInputs hs)) fun _ _ ht => .stopRepart ht

theorem CanonicalNext.meeting {pkg} (hs : Canonical s) {f : State → State} (hf : ∀ s, Canonical s → Canonical (f s)) :
    CanonicalNext (State.meeting pkg f s) :=
  .event hs fun _ ht => .getD (.map (.takeControl ht) hf) ht

theorem CanonicalNext.execRepartDescriptorArrival {asid pkg handle descriptor serial} (hs : Canonical s) :
    CanonicalNext (execRepartDescriptorArrival asid pkg handle descriptor serial s) := by
  unfold Machine.execRepartDescriptorArrival
  extract_lets f
  have hf : ∀ t, Canonical t → Canonical (f t) := by
    intro t ht
    refine .ite ht ?_
    dsimp only
    split
    · exact .acceptDescriptor ht
    · exact .ite (.closeIssue ht) (.updIssue ht)
    · exact .ite ht (.acceptDescriptor ht)
    · exact ht
  split
  · exact .event hs hf
  · exact .meeting hs hf

theorem CanonicalNext.execRepartOperationStart {asid grp} (hs : Canonical s) :
    CanonicalNext (execRepartOperationStart asid grp s) := by
  unfold Machine.execRepartOperationStart
  split
  · exact .event hs fun _ ht => ht
  · split
    · refine .event hs fun _ ht => ?_
      dsimp only
      split
      · exact ht
      · exact .ite ht (.ite_of_then (.startRepart ht) fun hv => .foldl hv fun _ _ hu => .send hu)
    · refine .event hs fun _ ht => ?_
      dsimp only
      split
      · exact ht
      next h =>
        have hu := Canonical.of_some h (.takeControl ht)
        exact .ite hu (.ite_of_else (.startRepart hu) .update)

theorem Canonical.repartBody {i h k t} (hs : Canonical s) : Canonical (repartBody i h k t s) := by
  unfold Machine.repartBody
  dsimp only
  split
  · exact hs
  · split
    · exact .trap hs
    · split
      next h => exact .of_some h (.waitSlot hs)
      · split
        · exact .trap hs
        · exact .releasing hs fun _ ht => .ite_of_then (.update (.fresh (.signRequest (.setThread (.newWid ht))))) .send

/-! ### The receiving side of the ports -/

theorem Canonical.nak {n cls reason} (hs : Canonical s) : Canonical (s.nak n cls reason) :=
  .emit hs

theorem Canonical.takeAck {n f} (hs : Canonical s) : Canonical (s.takeAck n f) :=
  .ite hs (.pumpAll (.updPort hs))

theorem Canonical.resend {n c} (hs : Canonical s) : Canonical (s.resend n c) :=
  .ite hs (.foldl (.updPort hs) fun _ _ ht => .emit ht)

theorem Canonical.hears {n} (hs : Canonical s) : Canonical (s.hears n) :=
  .updPort hs

theorem CanonicalSome.takePacket {pkg bs} (hs : Canonical s) : CanonicalSome (s.takePacket pkg bs) :=
  .remoteEnqueue hs

theorem CanonicalSome.deliver {f} (hs : Canonical s) : CanonicalSome (s.deliver f) :=
  .ite (.takePacket hs) (.ite .none (.some (.update hs)))

theorem Canonical.takeFlit {port f room} (hs : Canonical s) : Canonical (s.takeFlit port f room) := by
  unfold State.takeFlit
  refine .ite ?_ (.ite hs (.nak hs))
  split
  · exact .nak hs
  next h => exact .takeAck (.updPort (.of_some h (.ite (.deliver hs) .none)))

theorem Canonical.onFlit {port kind image} (hs : Canonical s) {g : Flit → State → State}
    (hg : ∀ a s, Canonical s → Canonical (g a s)) :
    Canonical (s.onFlit port kind image g) := by
  unfold State.onFlit
  split
  · exact hs
  · exact .ite_of_else (.hears hs) fun ht => hg _ _ ht

theorem CanonicalNext.execPayloadFlit {port image outstanding room} (hs : Canonical s) :
    CanonicalNext (execPayloadFlit port image outstanding room s) := by
  unfold Machine.execPayloadFlit
  refine .event hs fun _ ht => ?_
  split
  · exact .foldl ht fun _ _ hu => .nak hu
  · exact .onFlit ht fun _ _ hu => .takeFlit hu

theorem Canonical.takeNak {port f} (hs : Canonical s) : Canonical (s.takeNak port f) := by
  unfold State.takeNak
  dsimp only
  split
  · exact .resend (.takeAck (.updPort hs))
  · exact .updPort (.takeAck (.updPort hs))
  · exact .takeAck (.updPort hs)

theorem Canonical.laneFails {port lane} (hs : Canonical s) : Canonical (s.laneFails port lane) :=
  .ite hs (.ite (.updPort hs) (.updPort hs))

theorem Canonical.logFailure {level pkg port} (hs : Canonical s) : Canonical (s.logFailure level pkg port) :=
  .update hs

theorem Canonical.lostPeer {p} (hs : Canonical s) : Canonical (s.lostPeer p) := by
  unfold State.lostPeer
  split
  · dsimp only
    split
    · exact .wake (.setLine hs)
    · exact .setLine hs
  · exact .freeMiss hs
  · split
    · exact .evaluateWatch hs
    · exact hs
  · exact hs

theorem Canonical.dropPeers {pkg} (hs : Canonical s) : Canonical (s.dropPeers pkg) :=
  .foldl (.update hs) fun _ _ ht => .lostPeer ht

theorem Canonical.failRuns {pkg} (hs : Canonical s) : Canonical (s.failRuns pkg) := by
  unfold State.failRuns
  refine .startRuns (.update (.foldl hs fun _ _ ht => ?_))
  split
  · exact .failRun ht
  · exact ht

theorem Canonical.failCaptures {pkg} (hs : Canonical s) : Canonical (s.failCaptures pkg) :=
  .foldl hs fun _ _ ht => .ite (.captureFail ht) ht

theorem Canonical.failMembers {pkg} (hs : Canonical s) : Canonical (s.failMembers pkg) :=
  .foldl hs fun _ _ ht => .foldl ht fun _ _ hu => .foldl hu fun _ _ hv => .endMembership hv

theorem Canonical.failReparts {pkg} (hs : Canonical s) : Canonical (s.failReparts pkg) :=
  .foldl hs fun _ _ ht => .ite (.foldl (.foldl ht fun _ _ hu => .undefineAreas hu) fun _ _ hu => .moveEnding hu)
    (.foldl ht fun _ _ hu => .ite_of_else (.ite (.moveEnding (.failRepart hu)) hu) fun ht =>
      .setRepartGroup (.moveEnding (.failRepart (.setRepartGroup ht))))

theorem Canonical.failPackage {level port pkg} (hs : Canonical s) : Canonical (s.failPackage level port pkg) :=
  .ite hs (.failReparts (.failMembers (.failCaptures (.failRuns (.dropPeers (.ite_of_then (.logFailure (.update hs)) .send))))))

theorem Canonical.writeTlmctl {v} (hs : Canonical s) : Canonical (s.writeTlmctl v) :=
  .update hs

/-! ### Reliability and the platform -/

theorem Canonical.addDefect {kind unit loc} (hs : Canonical s) : Canonical (s.addDefect kind unit loc) :=
  .ite hs (.update hs)

theorem Canonical.fenceUnit {u} (hs : Canonical s) : Canonical (s.fenceUnit u) :=
  .ite hs (.setUnit (.emptyUnit (.addDefect (.setUnit hs))))

theorem Canonical.steer {u lane} (hs : Canonical s) : Canonical (s.steer u lane) :=
  .ite hs (.ite_of_else (.addDefect (.setUnit hs)) .fenceUnit)

theorem Canonical.fenceCore {c} (hs : Canonical s) : Canonical (s.fenceCore c) :=
  .ite hs (.foldl (.foldl (.addDefect (.updCore hs)) fun _ _ ht => .startSave ht) fun _ _ ht => .failUnstartable ht)

theorem Canonical.fenceArray {src unit loc} (hs : Canonical s) : Canonical (s.fenceArray src unit loc) := by
  unfold State.fenceArray
  split
  · exact .addDefect hs
  · exact .addDefect hs
  · exact .fenceUnit hs
  · exact .addDefect hs
  · exact .fenceCore (.addDefect hs)
  · exact .addDefect hs
  · exact .addDefect hs
  · exact hs

theorem Canonical.upset {pa loc} (hs : Canonical s) : Canonical (s.upset pa loc) :=
  .update hs

theorem CanonicalNext.execTransferErrorRetry {stack chan pc lane retries write} (hs : Canonical s) :
    CanonicalNext (execTransferErrorRetry stack chan pc lane retries write s) := by
  unfold Machine.execTransferErrorRetry
  refine .event hs fun _ ht => .ite ht ?_
  dsimp only
  split
  · exact .addDefect (.update ht)
  · exact .update ht
  · exact .update ht

theorem Canonical.hostGets {v} (hs : Canonical s) : Canonical (s.hostGets v) :=
  .send hs

theorem Canonical.selftestBody {i x h k t} (hs : Canonical s) : Canonical (selftestBody i x h k t s) :=
  .ite_of_else (.update (.fresh (.setThread (.newWid hs)))) .emptyUnit

theorem Canonical.fenceTested {x sel index} (hs : Canonical s) : Canonical (s.fenceTested x sel index) := by
  unfold State.fenceTested
  split
  · exact .steer hs
  · exact .fenceUnit hs
  · exact .addDefect hs
  · exact .addDefect hs
  · exact .fenceCore hs
  · exact .fenceCore (.addDefect hs)
  · exact .ite (.addDefect hs) (.addDefect hs)
  · exact .addDefect hs
  · exact .laneFails (.addDefect hs)

theorem CanonicalNext.execSelftestComplete {serial outcome index} (hs : Canonical s) :
    CanonicalNext (execSelftestComplete serial outcome index s) := by
  unfold Machine.execSelftestComplete
  refine .event hs fun _ ht => ?_
  split
  · exact ht
  · exact .ite ht (.setIncoming (.ite_of_else (.update (.ite (.fenceTested ht) ht)) .setUnit))

theorem Canonical.writeHbmcfg {v} (hs : Canonical s) : Canonical (s.writeHbmcfg v) :=
  .update hs

theorem CanonicalNext.execHbmcfgTakesEffect (hs : Canonical s) : CanonicalNext (execHbmcfgTakesEffect s) := by
  unfold Machine.execHbmcfgTakesEffect
  refine .event hs fun _ ht => ?_
  split
  · exact .update ht
  · exact ht

theorem Canonical.heat {stack} (hs : Canonical s) : Canonical (s.heat stack) :=
  .ite hs (.foldl (.update hs) fun _ _ ht => .ite ht (.ite (.update ht) (.ite ht (.update (.freeze ht)))))

theorem Canonical.cool {stack} (hs : Canonical s) : Canonical (s.cool stack) :=
  .foldl (.update hs) fun _ _ ht => .ite ht (.thaw ht)

theorem Canonical.writeStitch {v} (hs : Canonical s) : Canonical (s.writeStitch v) :=
  .update hs

theorem Canonical.endRebuild (hs : Canonical s) : Canonical s.endRebuild := by
  unfold State.endRebuild
  split
  · exact hs
  · exact .ite (.update hs) hs

theorem Canonical.writeVmctl {v} (hs : Canonical s) : Canonical (s.writeVmctl v) :=
  .ite (.update hs) (.ite (.update hs) (.update hs))

theorem Canonical.startUp {tier lost} (hs : Canonical s) (ht : Memory.wf tier) : Canonical (s.startUp tier lost) :=
  .update (s := { s with memory := tier, scm := tier, larder := [], bank := [] })
    ⟨ht, hs.hostMemory, ht, Memory.wf_nil, Memory.wf_nil⟩

theorem CanonicalNext.execPowerFail {drained kept} (hs : Canonical s) : CanonicalNext (execPowerFail drained kept s) := by
  refine .event hs fun _ ht => .startUp ht (Map.wf_filter ?_ _)
  refine List.foldlRecOn _ _ (List.foldlRecOn _ _ ht.scm fun _ hm _ _ => Memory.wf_putBytes hm _ _) fun _ hm _ _ => ?_
  split
  · exact Memory.wf_putBytes hm _ _
  · exact hm

end Sys2Proof.Machine
end

section
/-! Stores of bytes in canonical form, 7: issue, the control registers, who moves, the instructions and the step (O6). -/

namespace Sys2Proof.Machine

variable {s : State}

/-! ### Issue -/

theorem Canonical.beginTurn {u g cycle ks} (hs : Canonical s) : Canonical (s.beginTurn u g cycle ks) :=
  .foldl (.updGroup (.setUnit hs)) fun _ _ ht => .updThread ht

theorem Canonical.endTurn {ks cycle} (hs : Canonical s) : Canonical (s.endTurn ks cycle) :=
  .settleCycle (.foldl (.update hs) fun _ _ ht => .settleAsync (.updThread ht))

theorem Canonical.countIssued {ks} (hs : Canonical s) : Canonical (s.countIssued ks) := by
  unfold State.countIssued
  refine .foldl hs fun _ _ ht => ?_
  split
  · exact .updBlock ht
  · exact ht

theorem CanonicalTurn.takeTurn {u} (hs : Canonical s) : CanonicalTurn (s.takeTurn u) := by
  unfold State.takeTurn
  split
  · exact .done hs
  next g _ _ =>
    have hd : ∀ {ks cycle} {due : List (Nat × Nat × OpLog)},
        Canonical (due.foldl (fun s d => s.complete d.1 d.2.1 d.2.2)
          { s.fresh.2.beginTurn u g cycle ks with issuing := some ⟨g, [], cycle, []⟩ }) :=
      .foldl (.update (.beginTurn (.fresh hs))) fun _ _ ht => .complete ht
    dsimp only [State.fresh]
    split
    · exact .done (.endTurn hd)
    · split
      · exact .done (.endTurn (.askCode hd))
      · exact .done (.endTurn (.fetchFault hd))
      · exact .done (.endTurn (.foldl (.update hd) fun _ _ ht => .trap ht))
      · exact .run (.update (.countIssued hd))

theorem Canonical.closeTurn (hs : Canonical s) : Canonical s.closeTurn := by
  unfold State.closeTurn
  split
  · exact hs
  · exact .endTurn hs

/-! ### Control registers -/

theorem Canonical.freePair (hs : Canonical s) : Canonical s.freePair.2 :=
  .update hs

theorem Canonical.readPackage {n} (hs : Canonical s) : Canonical (s.readPackage n).2 := by
  unfold State.readPackage
  dsimp only
  split
  case h_14 | h_15 | h_19 => exact .update hs
  case h_25 =>
    split
    · exact .freePair hs
    · exact hs
  all_goals exact hs

theorem Canonical.readRegister {k t n} (hs : Canonical s) : Canonical (s.readRegister k t n).2 := by
  unfold State.readRegister
  split
  · exact hs
  · exact hs
  · exact hs
  · exact hs
  · exact hs
  · exact hs
  · exact hs
  · exact hs
  · exact .readPackage hs

theorem Canonical.writePackage {n v} (hs : Canonical s) : Canonical (s.writePackage n v) := by
  unfold State.writePackage
  dsimp only
  split
  · exact .writeTlbinv hs
  · exact .writeTres hs
  · exact .ite (.update hs) hs
  · exact .ite (.update hs) hs
  · exact .writeRstctl hs
  · exact .update hs
  · exact .writeCtxctl hs
  · exact .writePrectl hs
  · exact .writeTlmctl hs
  · exact .writeHbmcfg hs
  · exact .update hs
  · exact .writeStitch hs
  · exact .update hs
  · exact .writeVmctl hs
  · exact hs

theorem Canonical.csrrBody {i num h k t} (hs : Canonical s) : Canonical (csrrBody i num h k t s) := by
  unfold Machine.csrrBody
  split
  · exact .trap hs
  · exact .setThread (.readRegister hs)

theorem Canonical.csrwBody {i num h k t} (hs : Canonical s) : Canonical (csrwBody i num h k t s) := by
  unfold Machine.csrwBody
  split
  · exact .trap hs
  · exact .releasing hs fun _ ht => .ite (.updThread (.setThread ht)) (.writePackage (.setThread ht))

/-! ### Who moves -/

theorem Canonical.nextMove (hs : Canonical s) : Canonical s.nextMove.2.2 := by
  unfold State.nextMove
  split <;> exact .update hs

theorem Canonical.later {ns} (hs : Canonical s) : Canonical (s.later ns) :=
  .update hs

theorem Canonical.passes {ns} (hs : Canonical s) : Canonical (s.passes ns) :=
  .ite_of_then (.later (.noteStalls hs)) .ageLarders

/-- Every step of a list is what some instruction means. -/
def AllEvents (l : List DeviceStep) : Prop := ∀ f ∈ l, ∃ i, f = exec i

theorem AllEvents.nil : AllEvents [] := nofun

theorem AllEvents.cons {f : DeviceStep} {l : List DeviceStep} (hf : ∃ i, f = exec i) (hl : AllEvents l) : AllEvents (f :: l) :=
  List.forall_mem_cons.mpr ⟨hf, hl⟩

theorem AllEvents.append {l m : List DeviceStep} (hl : AllEvents l) (hm : AllEvents m) : AllEvents (l ++ m) :=
  List.forall_mem_append.mpr ⟨hl, hm⟩

theorem AllEvents.append_iff {l m : List DeviceStep} : AllEvents (l ++ m) ↔ AllEvents l ∧ AllEvents m :=
  List.forall_mem_append

theorem AllEvents.ite {c : Prop} {_ : Decidable c} {l m : List DeviceStep} (hl : AllEvents l) (hm : AllEvents m) :
    AllEvents (if c then l else m) := by
  split <;> assumption

theorem AllEvents.map {α : Type} {l : List α} {g : α → DeviceStep} (hg : ∀ a, ∃ i, g a = exec i) : AllEvents (l.map g) :=
  List.forall_mem_map.mpr fun a _ => hg a

theorem AllEvents.flatMap {α : Type} {l : List α} {g : α → List DeviceStep} (hg : ∀ a, AllEvents (g a)) : AllEvents (l.flatMap g) :=
  List.forall_mem_flatMap.mpr fun a _ => hg a

theorem AllEvents.filterMap {α : Type} {l : List α} {g : α → Option DeviceStep} (hg : ∀ a f, g a = some f → ∃ i, f = exec i) :
    AllEvents (l.filterMap g) := by
  intro f hf
  obtain ⟨a, -, h⟩ := List.mem_filterMap.mp hf
  exact hg a f h

/-- Steps that are taken where a test holds. -/
theorem AllEvents.filterMap_ite {α : Type} {l : List α} {c : α → Prop} {_ : DecidablePred c} {g : α → DeviceStep}
    (hg : ∀ a, ∃ i, g a = exec i) : AllEvents (l.filterMap fun a => if c a then some (g a) else none) :=
  .filterMap fun a _ h => Option.some.inj (Option.ite_none_right_eq_some.mp h).2 ▸ hg a

theorem AllEvents.threadSteps : AllEvents s.threadSteps := by
  simp only [State.threadSteps, append_iff, and_assoc]
  exact ⟨.map fun _ => ⟨.walkComplete _, rfl⟩,
    .flatMap fun _ => .filterMap fun _ _ h => by
      obtain ⟨_, -, rfl⟩ := Option.map_eq_some_iff.mp h
      exact ⟨.incomingWriteComplete _, rfl⟩,
    .flatMap fun _ => .filterMap_ite fun _ => ⟨.incomingWriteComplete _, rfl⟩,
    .map fun _ => ⟨.missStatusReplay .., rfl⟩,
    .filterMap_ite fun _ => ⟨.pairedCheckPoint .., rfl⟩,
    .map fun _ => ⟨.pendingRegisterPark .., rfl⟩,
    .map fun _ => ⟨.timeEventExpiry .., rfl⟩,
    .map fun _ => ⟨.watchedWordEvaluate .., rfl⟩,
    .map fun _ => ⟨.faultQueueSpace .., rfl⟩⟩

theorem AllEvents.engineSteps : AllEvents s.engineSteps := by
  simp only [State.engineSteps, append_iff, and_assoc]
  exact ⟨.map fun _ => ⟨.lrenewComplete _, rfl⟩,
    .map fun _ => ⟨.sflushComplete _, rfl⟩,
    .map fun _ => ⟨.lfreeUnitsRelease _, rfl⟩,
    .filterMap_ite fun _ => ⟨.stashFetchComplete .., rfl⟩,
    .flatMap fun _ => .map fun _ => ⟨.allocationExpiry .., rfl⟩,
    .flatMap fun _ => .cons ⟨.matrixOpStart _, rfl⟩ (.cons ⟨.mmaKStep _, rfl⟩ (.cons ⟨.matrixOpEnd _, rfl⟩ .nil)),
    .map fun _ => ⟨.copyRequestEnd _, rfl⟩,
    .flatMap fun _ => .cons ⟨.publishSwapStart _, rfl⟩ (.cons ⟨.publishSwapComplete _, rfl⟩ .nil),
    .flatMap fun _ => .cons ⟨.wbqRoomWrite _, rfl⟩ (.cons ⟨.wbqDrainEntry _, rfl⟩ .nil),
    .map fun _ => ⟨.pfenceComplete _, rfl⟩,
    .flatMap fun _ => .cons ⟨.chunkCaptureLagExpiry .., rfl⟩
      (.append (.map fun _ => ⟨.chunkCaptureOnWrite .., rfl⟩) (.map fun _ => ⟨.chunkCaptureComplete .., rfl⟩)),
    .map fun _ => ⟨.digestComplete .., rfl⟩,
    .map fun _ => ⟨.collLoadComplete _, rfl⟩,
    .flatMap fun _ => .map fun _ => ⟨.collectiveNodeComplete .., rfl⟩,
    .filterMap_ite fun _ => ⟨.repartDescriptorArrival .., rfl⟩,
    .flatMap fun _ => .flatMap fun _ =>
      .cons ⟨.repartOperationStart .., rfl⟩ (.cons ⟨.repartOperationEnd .., rfl⟩ .nil),
    .filterMap_ite fun _ => ⟨.repartOperationEnd .., rfl⟩⟩

theorem AllEvents.dispatchSteps : AllEvents s.dispatchSteps := by
  simp only [State.dispatchSteps, append_iff, and_assoc]
  exact ⟨.flatMap fun _ => .ite .nil (.map fun _ => ⟨.groupAdmission .., rfl⟩),
    .flatMap fun _ => .ite .nil (.map fun _ => ⟨.groupAdmission .., rfl⟩),
    .flatMap fun _ => .map fun _ => ⟨.crockTimerExpiry .., rfl⟩,
    .flatMap fun _ => .cons ⟨.blockRetire _, rfl⟩ (.cons ⟨.blockSaveComplete _, rfl⟩
      (.cons ⟨.deferredSave _, rfl⟩ (.cons ⟨.drainlimExpiry _, rfl⟩ .nil))),
    .cons ⟨.successorEnqueue, rfl⟩ .nil,
    .map fun _ => ⟨.launchCompletionSignal _, rfl⟩,
    .flatMap fun _ => .cons ⟨.launchPacketGrid _, rfl⟩ (.cons ⟨.launchPacketMask _, rfl⟩
      (.cons ⟨.taskRecord _, rfl⟩ (.cons ⟨.queueCopy _, rfl⟩ .nil))),
    .flatMap fun _ => .ite (.map fun _ => ⟨.flushedBlockRestart .., rfl⟩) .nil,
    .flatMap fun _ => .map fun _ => ⟨.blockRestore .., rfl⟩,
    .flatMap fun _ => .ite .nil (.ite (.map fun _ => ⟨.blockStart .., rfl⟩) (.map fun _ => ⟨.blockStart .., rfl⟩)),
    .flatMap fun _ => .ite .nil (.map fun _ => ⟨.dispatcherPreempt .., rfl⟩),
    .flatMap fun _ => .flatMap fun _ =>
      .cons ⟨.queuePacketTake .., rfl⟩ (.cons ⟨.queueDeadlockDetect .., rfl⟩ .nil),
    .filterMap_ite fun _ => ⟨.powerGatedCoreWake _, rfl⟩⟩

theorem AllEvents.hubSteps : AllEvents s.hubSteps := by
  simp only [State.hubSteps, append_iff, and_assoc]
  exact ⟨.cons ⟨.tlbinvComplete, rfl⟩ (.cons ⟨.restoreComplete, rfl⟩
      (.cons ⟨.stitchComplete, rfl⟩ (.cons ⟨.hbmcfgTakesEffect, rfl⟩ .nil))),
    .map fun _ => ⟨.selftestComplete .., rfl⟩,
    .flatMap fun _ => .flatMap fun _ => .append
      (.append (.ite (.cons ⟨.ackOnlyTimeout .., rfl⟩ .nil) .nil) (.ite (.cons ⟨.busyResend .., rfl⟩ .nil) .nil))
      (.ite .nil (.cons ⟨.replayTimeout .., rfl⟩ .nil)),
    .filterMap_ite fun _ => ⟨.retrainComplete _, rfl⟩,
    .flatMap fun _ =>
      .cons ⟨.portSilent .., rfl⟩ (.cons ⟨.switchGroupTimeout _, rfl⟩ (.cons ⟨.domainTimeout _, rfl⟩ .nil))⟩

/-- The device's own pending steps are instructions of the model like those the agenda names. -/
theorem AllEvents.pendingSteps : AllEvents s.pendingSteps :=
  .append (.append (.append .threadSteps .engineSteps) .dispatchSteps) .hubSteps

/-- A move that means what the agenda can name: the step of the package's own, if it is one, is that of an instruction. -/
inductive KnownMove : Mover → Prop
  | act (a : Act) : KnownMove (.act a)
  | step (i : Instr) : KnownMove (.step (exec i))
  | nobody : KnownMove .nobody

theorem KnownMove.of_nextIssue {m : Mover} (h : s.nextIssue = some m) : KnownMove m := by
  obtain ⟨u, -, rfl⟩ := Option.map_eq_some_iff.mp h
  exact .act _

theorem KnownMove.of_nextDue {m : Mover} (h : s.nextDue = some m) : KnownMove m := by
  obtain ⟨f, hf, rfl⟩ := Option.map_eq_some_iff.mp h
  obtain ⟨i, rfl⟩ := AllEvents.pendingSteps f (List.mem_of_find?_eq_some hf)
  exact .step i

/-- The first of two moves that there is, or nobody's. -/
theorem KnownMove.orElse {o p : Option Mover} (ho : ∀ m, o = some m → KnownMove m) (hp : ∀ m, p = some m → KnownMove m) :
    KnownMove ((o <|> p).getD .nobody) := by
  cases o with
  | some m => exact ho m rfl
  | none =>
    cases p with
    | some m => exact hp m rfl
    | none => exact .nobody

theorem KnownMove.nextMove : KnownMove s.nextMove.1 := by
  unfold State.nextMove
  split
  · exact .act _
  · dsimp only
    split
    · exact .orElse (fun _ => .of_nextIssue) fun _ => .of_nextDue
    · exact .orElse (fun _ => .of_nextDue) fun _ => .of_nextIssue

/-! ### The instructions -/

/-- Every instruction, and every step of the device, by what its meaning is made of. -/
theorem CanonicalNext.exec {i} (hs : Canonical s) : CanonicalNext (exec i s) := by
  unfold Machine.exec
  cases i with
  | bra | brz | brnz => exact .perLane hs fun _ _ _ _ ht => .branchBody ht
  | jmp | ret => exact .perLane hs fun _ _ _ _ ht => .jumpBody ht
  | call => exact .perLane hs fun _ _ _ _ ht => .callBody ht
  | yield => exact .perLane hs fun _ _ _ _ ht => .updGroup (.setThread ht)
  | exit => exact .perLane hs fun _ _ _ _ ht => .endThread ht
  | exitWithSuccessors => exact .perLane hs fun _ _ _ _ ht => .exitSuccBody ht
  | repeatLoop => exact .execRepeatLoop hs
  | trap => exact .perLane hs fun _ _ _ _ ht => .trap ht
  | eret => exact .perLane hs fun _ _ _ _ ht => .eretBody ht
  | csrr => exact .perLane hs fun _ _ _ _ ht => .csrrBody ht
  | csrw => exact .perLanePark hs fun _ _ _ _ ht => .csrwBody ht
  | selftestLane | selftestRf => exact .perLanePark hs fun _ _ _ _ ht => .selftestBody ht
  | selftestLar | selftestDrw | selftestArr | selftestBank | selftestHbm | selftestScm | selftestLink =>
    exact .perLane hs fun _ _ _ _ ht => .selftestBody ht
  | selftestComplete => exact .execSelftestComplete hs
  | nop | pref => exact .perLane hs fun _ _ _ _ ht => .setThread ht
  | shfl | vote | elect | matchLanes => exact .laneOp hs
  | lred => exact .execLred hs
  | parkNow => exact .perLanePark hs fun _ _ _ _ ht => .parkNowBody ht
  | parkUntil => exact .perLanePark hs fun _ _ _ _ ht => .parkUntilBody ht
  | parkNe => exact .perLanePark hs fun _ _ _ _ ht => .parkNeBody ht
  | spawn => exact .perLane hs fun _ _ _ _ ht => .spawnBody ht
  | add | sub | addc | subc | mul | mulhi | mulw | mad | min | max | abs | cmp | sel | lea | and | or | xor | andn | not
    | shl | shr | sar | rol | ror | bfe | bfi | popc | clz | ctz | brev | mov | movi | sext | zext | add64 | sub64 | mul64
    | shl64 | shr64 | sar64 | cmp64 | min64 | max64 | fadd | fsub | fmul | fma | fmin | fmax | fcmp | fclass | fround
    | fscale | fadd2 | fmul2 | fma2 | fmin2 | fmax2 | frcp | frsq | fsqrt | fexp2 | flog2 | fsin | fcos | ftanh | cvt | pack
    | unpack | rand =>
    exact .alu hs
  | cntflush => exact .execCntflush hs
  | lalloc => exact .perLane hs fun _ _ _ _ ht => .lallocBody ht
  | lfree => exact .perLane hs fun _ _ _ _ ht => .onAlloc ht fun _ _ _ _ _ _ hu => .updThread (.endAlloc hu)
  | luseby => exact .perLane hs fun _ _ _ _ ht => .onAlloc ht fun _ _ _ _ _ _ hu => .lusebyBody hu
  | lrenew => exact .perLane hs fun _ _ _ _ ht => .onRange ht fun _ _ _ _ _ _ hu => .lrenewBody hu
  | ldl => exact .execLdl hs
  | stl => exact .execStl hs
  | setempty | setfull => exact .perLane hs fun _ _ _ _ ht => .onRange ht fun _ _ _ _ _ _ hu => .setBody hu
  | lstateLine | lstateAlloc => exact .perLane hs fun _ _ _ _ ht => .lstateBody ht
  | lstateRet | lstateFree => exact .perLane hs fun _ _ _ _ ht => .answer ht
  | smap => exact .perLane hs fun _ _ _ _ ht => .onAlloc ht fun _ _ _ _ _ _ hu => .smapBody hu
  | sunmap => exact .perLane hs fun _ _ _ _ ht => .onAlloc ht fun _ _ _ _ _ _ hu => .sunmapBody hu
  | sflush => exact .perLane hs fun _ _ _ _ ht => .onRange ht fun _ _ _ _ _ _ hu => .sflushBody hu
  | binit => exact .perLane hs fun _ _ _ _ ht => .onObj ht fun _ _ _ _ _ _ _ hu => .binitBody hu
  | barr => exact .perLane hs fun _ _ _ _ ht => .onObj ht fun _ _ _ _ _ _ _ hu => .barrBody hu
  | bwait => exact .perLanePark hs fun _ _ _ _ ht => .onObj ht fun _ _ _ _ _ _ _ hu => .bwaitBody hu
  | barrw => exact .perLanePark hs fun _ _ _ _ ht => .onObj ht fun _ _ _ _ _ _ _ hu => .barrwBody hu
  | bbytes => exact .perLane hs fun _ _ _ _ ht => .onObj ht fun _ _ _ _ _ _ _ hu => .bbytesBody hu
  | hjoin | hleave => exact .perLane hs fun _ _ _ _ ht => .memberBody ht
  | harr => exact .perLane hs fun _ _ _ _ ht => .harrBody ht
  | hwait => exact .perLanePark hs fun _ _ _ _ ht => .hwaitBody ht
  | hsig => exact .perLane hs fun _ _ _ _ ht => .hsigBody ht
  | ldg | stg | ldc | atom | red => exact .globalAccess hs
  | fence => exact .perLane hs fun _ _ _ _ ht => .fenceBody ht
  | copy => exact .perLanePark hs fun _ _ _ _ ht => .kickCopy ht
  | enq => exact .perLanePark hs fun _ _ _ _ ht => .enqBody ht
  | publish => exact .perLane hs fun _ _ _ _ ht => .publishBody ht
  | collRun => exact .perLane hs fun _ _ _ _ ht => .collRunBody ht
  | collLoad => exact .perLane hs fun _ _ _ _ ht => .collLoadBody ht
  | collDrop => exact .perLane hs fun _ _ _ _ ht => .collDropBody ht
  | repart => exact .perLane hs fun _ _ _ _ ht => .repartBody ht
  | pfenceDie | pfencePkg => exact .perLane hs fun _ _ _ _ ht => .pfenceBody ht
  | steptag => exact .perLane hs fun _ _ _ _ ht => .steptagBody ht
  | snapStat => exact .perLane hs fun _ _ _ _ ht => .snapBody ht fun _ _ _ _ hu => hu
  | snapGo => exact .execSnapGo hs
  | snapAbort => exact .execSnapAbort hs
  | digest => exact .perLane hs fun _ _ _ _ ht => .digestBody ht
  | mma | mmscl => exact .perLane hs fun _ _ _ _ ht => .blockOpBody ht
  | mmwait => exact .perLanePark hs fun _ _ _ _ ht => .onObj ht fun _ _ _ _ _ _ _ hu => .mmwaitBody hu
  | mmrd => exact .perLane hs fun _ _ _ _ ht => .mmrdBody ht
  | mmclrAcc => exact .perLane hs fun _ _ _ _ ht => .mmclrAccBody ht
  | mmclrClaim => exact .perLane hs fun _ _ _ _ ht => .mmclrClaimBody ht
  | mmclrFree => exact .perLane hs fun _ _ _ _ ht => .mmclrFreeBody ht
  | mmstBank | mmstAcc => exact .perLane hs fun _ _ _ _ ht => .mmstBody ht
  | pendingRegisterPark => exact .event hs fun _ ht => .settleCycle (.foldl (.fresh ht) fun _ _ hu => .parkPending hu)
  | missStatusReplay => exact .event hs fun _ ht => .foldl ht fun _ _ hu => .updThread hu
  | incomingWriteComplete =>
    exact .event hs fun _ ht => .ite ht (.freeMiss (.foldl (.update ht) fun _ _ hu => .settleUnit (.syncRecord hu)))
  | crockTimerExpiry => exact .event hs fun _ ht => .ite (.pressBins (.launchBin ht)) ht
  | groupAdmission => exact .execGroupAdmission hs
  | timeEventExpiry => exact .execTimeEventExpiry hs
  | watchedWordEvaluate => exact .execWatchedWordEvaluate hs
  | blockStart => exact .execBlockStart hs
  | blockRetire => exact .execBlockRetire hs
  | successorEnqueue => exact .execSuccessorEnqueue hs
  | launchCompletionSignal => exact .execLaunchCompletionSignal hs
  | queuePacketTake => exact .execQueuePacketTake hs
  | launchPacketGrid | launchPacketMask | taskRecord => exact .packetStep hs
  | queueCopy => exact .execQueueCopy hs
  | queueDeadlockDetect => exact .execQueueDeadlockDetect hs
  | faultQueueSpace => exact .event hs fun _ ht => .runDumps (.foldl (.flushReports ht) fun _ _ hu => .ite (.retryReport hu) hu)
  | larderRenewal =>
    exact .event hs fun _ ht => .foldl ht fun _ _ hu => .ite (.foldl hu fun _ _ hv => .foldl hv fun _ _ hw => .renewVisit hw) hu
  | lretUpdate => exact .event hs fun _ ht => .ite (.ageLarders (.updCore ht)) ht
  | allocationExpiry => exact .execAllocationExpiry hs
  | stashFetchComplete => exact .execStashFetchComplete hs
  | stashLineAgeOut => exact .event hs fun _ ht => .ite (.dropLine ht) ht
  | stashRemoteReadRecall => exact .execStashRemoteReadRecall hs
  | stashRemoteWriteRecall => exact .execStashRemoteWriteRecall hs
  | lfreeUnitsRelease => exact .execLfreeUnitsRelease hs
  | lrenewComplete => exact .event hs fun _ ht => .update (.resultReady ht)
  | sflushComplete => exact .execSflushComplete hs
  | hsigApply => exact .arrivalAny hs fun _ ht => .applySignal ht
  | harnessArrivalMessage =>
    exact .arrival hs fun _ ht => .ite (.ite (.countArrival ht) ht) (.ite ht (.wakeHarness (.setHgroup ht)))
  | harnessMembershipMessage => exact .execHarnessMembershipMessage hs
  | walkComplete => exact .execWalkComplete hs
  | tlbinv => exact .event hs fun _ ht => .writeTlbinv ht
  | tlbinvComplete => exact .event hs fun _ ht => .ite (.update ht) ht
  | tres => exact .event hs fun _ ht => .writeTres ht
  | tepcWrite => exact .event hs fun _ ht => .updThread ht
  | hostBar2Read => exact .event hs fun _ ht => .ite (.outsideOp ht) (.send ht)
  | hostBar2Write => exact .event hs fun _ ht => .ite ht (.outsideOp ht)
  | peerMemoryRequest => exact .arrival hs fun _ ht => .peerRequest ht
  | peerMemoryResponse => exact .execPeerMemoryResponse hs
  | copyRequestEnd => exact .execCopyRequestEnd hs
  | publishSwapStart => exact .execPublishSwapStart hs
  | publishSwapComplete => exact .execPublishSwapComplete hs
  | matrixOpStart => exact .execMatrixOpStart hs
  | mmaKStep => exact .execMmaKStep hs
  | matrixOpEnd => exact .execMatrixOpEnd hs
  | wbqDrainEntry => exact .execWbqDrainEntry hs
  | wbqRoomWrite => exact .event hs fun _ ht => .getD (.findSome? fun _ => .tryOp ht) ht
  | energyReserveMeasure => exact .event hs fun _ ht => .update ht
  | powerFail => exact .execPowerFail hs
  | pfenceComplete => exact .execPfenceComplete hs
  | chunkCaptureLagExpiry => exact .execChunkCaptureLagExpiry hs
  | chunkCaptureOnWrite => exact .execChunkCaptureOnWrite hs
  | stripeFragmentsDurable => exact .execStripeFragmentsDurable hs
  | fragmentStoreWrite => exact .arrivalAny hs fun _ ht => .ite (.update ht) (.update ht)
  | digestComplete => exact .execDigestComplete hs
  | rstctl => exact .event hs fun _ ht => .writeRstctl ht
  | restoreComplete => exact .event hs fun _ ht => .ite ht (.ite (.endRestore ht) (.endRestore (.update (.restoreRun ht))))
  | payloadFlit => exact .execPayloadFlit hs
  | acknowledgementFlit => exact .event hs fun _ ht => .onFlit ht fun _ _ hu => .takeAck hu
  | negativeAcknowledgement => exact .event hs fun _ ht => .onFlit ht fun _ _ hu => .takeNak hu
  | retrainMarker => exact .event hs fun _ ht => .onFlit ht fun _ _ hu => .updPort hu
  | ackOnlyTimeout => exact .event hs fun _ ht => .ite (.emit ht) ht
  | busyResend | replayTimeout => exact .event hs fun _ ht => .ite (.resend ht) ht
  | laneFailure => exact .event hs fun _ ht => .laneFails ht
  | retrainComplete => exact .event hs fun _ ht => .ite ht (.pumpAll (.foldl (.updPort ht) fun _ _ hu => .resend hu))
  | portSilent => exact .event hs fun _ ht => .ite ht (.failPackage (.updPort ht))
  | switchGroupTimeout | domainTimeout => exact .event hs fun _ ht => .ite (.failPackage ht) ht
  | failureNotice => exact .arrivalAny hs fun _ ht => .failPackage ht
  | sendNotice => exact .execSendNotice hs
  | clearToSend => exact .execClearToSend hs
  | collectiveData => exact .execCollectiveData hs
  | collectiveNodeComplete => exact .event hs fun _ ht => .startRuns (.nodeStep (.startRuns ht))
  | switchReductionResult => exact .execSwitchReductionResult hs
  | collLoadComplete => exact .execCollLoadComplete hs
  | repartOperationStart => exact .execRepartOperationStart hs
  | repartOperationEnd =>
    exact .event hs fun _ ht =>
      .moveEnding (.ite (.getD (.map (.takeControl ht) fun _ hu => .failRepart hu) ht) (.ite ht (.finishRepart ht)))
  | tlmctlGo => exact .event hs fun _ ht => .ite (.writeTlmctl ht) ht
  | marginMeasurementComplete | voltageMarginComplete | clockStepChange => exact .event hs fun _ ht => .ite ht (.update ht)
  | ctxCreate | ctxPreemptAll | ctxResume | ctxKill | ctxFreeze | ctxThaw => exact .ctxStep hs
  | ctxReservedAction => exact .event hs fun _ ht => .ite (.writeCtxctl ht) ht
  | prectlGo => exact .event hs fun _ ht => .writePrectl ht
  | dispatcherPreempt => exact .execDispatcherPreempt hs
  | drainlimExpiry => exact .execDrainlimExpiry hs
  | deferredSave => exact .execDeferredSave hs
  | blockSaveComplete => exact .execBlockSaveComplete hs
  | flushedBlockRestart => exact .execFlushedBlockRestart hs
  | blockRestore => exact .execBlockRestore hs
  | laneSteering => exact .event hs fun _ ht => .ite ht (.ite_of_else (.ite ht (.emptyUnit ht)) fun hu => .setUnit (.steer hu))
  | pairedCheckPoint => exact .execPairedCheckPoint hs
  | targetedSelfTest => exact .event hs fun _ ht => .ite ht (.ite_of_then (.logArray ht) .fenceArray)
  | transferErrorRetry => exact .execTransferErrorRetry hs
  | arrlogRead | xfrlogRead | faillogRead => exact .event hs fun _ ht => .hostGets (.update ht)
  | hbmcfgWrite => exact .event hs fun _ ht => .writeHbmcfg ht
  | channelTemperatureMeasure =>
    exact .event hs fun _ ht => .ite ht (.ite (.heat (.update ht)) (.ite_of_else (.update ht) .cool))
  | stitch => exact .event hs fun _ ht => .writeStitch ht
  | stitchComplete => exact .event hs fun _ ht => .ite ht (.ite (.endRebuild ht) (.endRebuild (.update (.restoreRun ht))))
  | vmctlGo => exact .event hs fun _ ht => .ite (.writeVmctl ht) ht
  | moduleReset => exact .event hs fun _ ht => .startUp ht (Map.wf_filter ht.memory _)
  | bootStageAdvance => exact .event hs fun _ ht => .ite ht (.ite (.update ht) (.update ht))
  | attestationRequest => exact .event hs fun _ ht => .ite ht (.send ht)
  | registerWrite => exact .event hs fun _ ht => .ite (.writePackage ht) ht
  | chunkCaptureComplete => exact .execChunkCaptureComplete hs
  | engineByteCountPiece => exact .event hs fun _ ht => .runCopy ht
  | repartDescriptorArrival => exact .execRepartDescriptorArrival hs
  | hbmcfgTakesEffect => exact .execHbmcfgTakesEffect hs
  | powerGatedCoreWake => exact .event hs fun _ ht => .ite (.foldl (.updCore ht) fun _ _ hu => .releaseSignals hu) ht

/-! ### The step -/

theorem CanonicalNext.issueStep {u} (hs : Canonical s) : CanonicalNext (issueStep u s) := by
  unfold Machine.issueStep
  split
  next h => exact .next (.of_done h (.takeTurn hs))
  next i t h =>
    have ht : CanonicalNext (Machine.exec i t) := .exec (.of_run h (.takeTurn hs))
    split
    next h => exact .next (.closeTurn (.of_next h ht))
    · exact ht

theorem CanonicalNext.eventStep {i} (hs : Canonical s) : CanonicalNext (eventStep i s) := by
  unfold Machine.eventStep
  split
  · exact .exec hs
  · exact .next hs

theorem CanonicalNext.moveStep {a : Mover} (ha : KnownMove a) (hs : Canonical s) : CanonicalNext (Machine.moveStep a s) := by
  cases ha with
  | nobody => exact .next hs
  | step i => exact .exec hs
  | act a =>
    cases a with
    | issue c u => exact .issueStep hs
    | event i => exact .eventStep hs
    | upset pa loc => exact .next (.upset hs)
    | gate core => exact .next (.updCore hs)

theorem CanonicalNext.step (hs : Canonical s) : CanonicalNext (Machine.step s) := by
  have hm : CanonicalNext (Machine.moveStep s.nextMove.1 s.nextMove.2.2) := .moveStep .nextMove hs.nextMove
  unfold Machine.step
  dsimp only
  split
  next h => exact .next (.passes (.of_next h hm))
  · exact hm

/-- Settles O6: every function that `step` runs keeps the five stores in canonical form. -/
theorem stepKeepsMemoryCanonical : Obligations.StepKeepsMemoryCanonical := by
  unfold Obligations.StepKeepsMemoryCanonical
  exact fun _ _ hs h => .of_next h (.step hs)

end Sys2Proof.Machine
end

section
/-! Register instructions whose meaning is `alu` (rows 0x2 to 0x4): patterns as bit vectors, the range of every operand, and the step
from a function's value to the state it leaves. -/

namespace Sys2Proof.Machine

/-! ### From a result to a state -/

/-- An instruction whose meaning is `alu` leaves the value of its function in the one thread that runs it. -/
theorem exec_alu_eq {i : Instr} {h : Head} {s : State} {k : Nat} {t : Thread} {tid : Nat} {f : Head → Thread → Res} {r : Res}
    (hr : Runs i h s k t) (hi : exec i s = alu i tid f s) (hf : f h t = r) : exec i s = .next (wrote i h tid r s k t) := by
  rw [hi, alu_runs hr, hf]

/-! ### Patterns as bit vectors (R37) -/

theorem wrap_eq_emod (x : Int) (n : Nat) : wrap x n = (x % 2 ^ n).toNat := by
  simp [wrap]

theorem wrap_eq_ofInt (x : Int) (n : Nat) : wrap x n = (BitVec.ofInt n x).toNat := by
  simp [wrap]

theorem wrap_lt (x : Int) (n : Nat) : wrap x n < 2 ^ n := by
  rw [wrap_eq_ofInt]
  exact (BitVec.ofInt n x).isLt

theorem toInt_eq_toInt_ofNat (v n : Nat) : toInt v n = (BitVec.ofNat n v).toInt := by
  cases n with
  | zero => simp [toInt, Nat.mod_one, BitVec.eq_nil (BitVec.ofNat 0 v)]
  | succ n =>
    rw [toInt, BitVec.toInt_eq_toNat_cond, BitVec.toNat_ofNat, Nat.add_sub_cancel]
    have hp : 2 ^ (n + 1) = 2 * 2 ^ n := Nat.pow_succ'
    exact ite_congr (propext (by omega)) (fun _ => rfl) fun _ => by push_cast; rfl

theorem sx_eq_signExtend (v w n : Nat) : sx v w n = ((BitVec.ofNat w v).signExtend n).toNat := by
  rw [sx, toInt_eq_toInt_ofNat, wrap_eq_ofInt, BitVec.signExtend]

theorem bit_zero_eq_true (n : Nat) : bit n 0 = true ↔ n % 2 = 1 := by
  simp [bit]

/-! ### What a source operand can hold (R23, R27) -/

theorem thirtyTwo_dvd_regWidth (ty : Ty) : 32 ∣ ty.regWidth := by
  cases ty <;> decide

theorem regWidth_eq_width {ty : Ty} (h : 32 ≤ ty.width) : ty.regWidth = ty.width := by
  rw [Ty.regWidth]
  split <;> omega

theorem thirtyTwo_le_width_of_b32_or_b64 {ty : Ty} (h : ty = .b32 ∨ ty = .b64) : 32 ≤ ty.width := by
  rcases h with rfl | rfl <;> decide

theorem regs32_lt (t : Thread) (n words : Nat) : t.regs32 n words < 2 ^ (32 * words) := by
  induction words generalizing n with
  | zero => exact Nat.one_pos
  | succ words ih =>
    have hlow := (t.reg n).isLt
    have hhigh := ih (n + 1)
    rw [Thread.regs32, Nat.mul_succ, Nat.add_comm (32 * words), Nat.pow_add]
    calc (t.reg n).toNat + 2 ^ 32 * t.regs32 (n + 1) words
        < 2 ^ 32 * (t.regs32 (n + 1) words + 1) := by omega
      _ ≤ 2 ^ 32 * 2 ^ (32 * words) := Nat.mul_le_mul_left _ hhigh

theorem readReg_lt (t : Thread) (n : Nat) {w : Nat} (hw : 32 ∣ w) : t.readReg n w < 2 ^ w := by
  obtain ⟨words, rfl⟩ := hw
  have hwords : regWords (32 * words) = words := by
    unfold regWords
    omega
  rw [Thread.readReg, hwords]
  split
  · exact Nat.two_pow_pos _
  · exact regs32_lt t n words

theorem latchVal_lt (t : Thread) (n w : Nat) : t.latchVal n w < 2 ^ w := by
  unfold Thread.latchVal
  cases t.window[n - 1]? with
  | none => exact Nat.two_pow_pos w
  | some l => exact Nat.mod_lt _ (Nat.two_pow_pos w)

theorem rd_lt (t : Thread) (o : Opnd) {w : Nat} (hw : 32 ∣ w) : t.rd o w < 2 ^ w := by
  cases o with
  | reg n => exact readReg_lt t n hw
  | latch n => exact latchVal_lt t n w

theorem rdB_lt (t : Thread) (b : BOpnd) {w : Nat} (hw : 32 ∣ w) : t.rdB b w < 2 ^ w := by
  cases b with
  | src o => exact rd_lt t o hw
  | imm22 v => exact wrap_lt _ w
  | lit v => exact Nat.mod_lt _ (Nat.two_pow_pos w)

/-- A source operand at width w as a bit vector. -/
def Thread.bits (t : Thread) (o : Opnd) (w : Nat) : BitVec w := BitVec.ofNat w (t.rd o w)

/-- Operand B at width w as a bit vector. -/
def Thread.bitsB (t : Thread) (b : BOpnd) (w : Nat) : BitVec w := BitVec.ofNat w (t.rdB b w)

theorem toNat_bits (t : Thread) (o : Opnd) {w : Nat} (hw : 32 ∣ w) : (t.bits o w).toNat = t.rd o w :=
  (BitVec.toNat_ofNat _ _).trans (Nat.mod_eq_of_lt (rd_lt t o hw))

theorem toNat_bits_regWidth (t : Thread) (o : Opnd) (ty : Ty) : (t.bits o ty.regWidth).toNat = t.rd o ty.regWidth :=
  toNat_bits t o (thirtyTwo_dvd_regWidth ty)

theorem toNat_bitsB_regWidth (t : Thread) (b : BOpnd) (ty : Ty) : (t.bitsB b ty.regWidth).toNat = t.rdB b ty.regWidth :=
  (BitVec.toNat_ofNat _ _).trans (Nat.mod_eq_of_lt (rdB_lt t b (thirtyTwo_dvd_regWidth ty)))

end Sys2Proof.Machine
end

section
/-! Integer sums, products and carry chains (R83, R84; O9). -/

namespace Sys2Proof.Machine

theorem intRes_eq (ty : Ty) (sat : Bool) (x : Int) :
    intRes ty sat x =
      if sat then ⟨intOut ty (clampInt x ty), none, if clampInt x ty ≠ x then .oneSat else .none⟩
      else ⟨intOut ty x, none, .none⟩ := by
  simp only [intRes, Events.ifSat, decide_eq_true_eq]

theorem mulhiRes_eq (h : Head) (t : Thread) : mulhiRes h t = ⟨(aInt h t * bInt h t / 2 ^ 32 % 2 ^ 32).toNat, none, .none⟩ := by
  rw [mulhiRes, wrap_eq_emod]

theorem mulwRes_eq (h : Head) (t : Thread) : mulwRes h t = ⟨(aInt h t * bInt h t % 2 ^ 64).toNat, none, .none⟩ := by
  rw [mulwRes, wrap_eq_emod]

/-- The sum of addc is taken on naturals; on integers it is the same. -/
theorem addcRes_eq (h : Head) (t : Thread) :
    let x : Int := (t.rd h.a 32 : Int) + t.rdB h.b 32 + (t.rd h.c 32 % 2 : Nat)
    addcRes h t = ⟨(x % 2 ^ 32).toNat, some (if 2 ^ 32 ≤ x then 1 else 0), .none⟩ := by
  intro x
  have hx : x = ((t.rd h.a 32 + t.rdB h.b 32 + t.rd h.c 32 % 2 : Nat) : Int) := by
    push_cast
    rfl
  have hv : (x % 2 ^ 32).toNat = (t.rd h.a 32 + t.rdB h.b 32 + t.rd h.c 32 % 2) % 2 ^ 32 := by omega
  have hc : 2 ^ 32 ≤ x ↔ 2 ^ 32 ≤ t.rd h.a 32 + t.rdB h.b 32 + t.rd h.c 32 % 2 := by omega
  simp only [addcRes, b2n, decide_eq_true_eq, hv, hc]

theorem subcRes_eq (h : Head) (t : Thread) :
    let x : Int := (t.rd h.a 32 : Int) - t.rdB h.b 32 - (t.rd h.c 32 % 2 : Nat)
    subcRes h t = ⟨(x % 2 ^ 32).toNat, some (if x < 0 then 1 else 0), .none⟩ := by
  simp only [subcRes, b2n, decide_eq_true_eq, wrap_eq_emod]

/-- Settles O9: each operation is `alu` of its result function, whose value the lemmas above give. -/
theorem integerArithmetic : Obligations.IntegerArithmetic := by
  unfold Obligations.IntegerArithmetic
  intro s k t h m a b c ua ub c0 out
  have sum (x : Int) : intRes h.ty m.sat x = out x := intRes_eq h.ty m.sat x
  exact ⟨fun hr => exec_alu_eq hr rfl (sum (a + b)), fun hr => exec_alu_eq hr rfl (sum (a - b)),
    fun hr => exec_alu_eq hr rfl (sum (a * b)), fun hr => exec_alu_eq hr rfl (sum (a * b + c)),
    fun hr => exec_alu_eq hr rfl (sum (a + b)), fun hr => exec_alu_eq hr rfl (sum (a - b)),
    fun hr => exec_alu_eq hr rfl (sum (a * b)), fun hr => exec_alu_eq hr rfl (mulhiRes_eq h t),
    fun hr => exec_alu_eq hr rfl (mulwRes_eq h t), fun hr => exec_alu_eq hr rfl (addcRes_eq h t),
    fun hr => exec_alu_eq hr rfl (subcRes_eq h t)⟩

end Sys2Proof.Machine
end

section
/-! Comparison, selection and addresses (R85, R86; O10). -/

namespace Sys2Proof.Machine

theorem absRes_eq (m : ModA) (h : Head) (t : Thread) :
    absRes m h t = intRes h.ty m.sat (if 0 ≤ aInt h t then aInt h t else -aInt h t) := by
  have habs : ((aInt h t).natAbs : Int) = if 0 ≤ aInt h t then aInt h t else -aInt h t := by
    split <;> omega
  rw [absRes, habs]

theorem selRes_eq (h : Head) (t : Thread) :
    selRes h t = ⟨if t.rd h.c 32 % 2 = 1 then aPat h t else bPat h t, none, .none⟩ := by
  simp only [selRes, bit_zero_eq_true]

theorem leaIndex_eq (h : Head) (t : Thread) :
    leaIndex h t = if h.ty = .s32 then (BitVec.ofNat 32 (t.rdB h.b 32)).toInt else t.rdB h.b 32 := by
  rw [leaIndex, toInt_eq_toInt_ofNat]
  rfl

theorem leaRes_eq (sh : Nat) (h : Head) (t : Thread) :
    leaRes sh h t = ⟨((t.rd h.a 64 + leaIndex h t * 2 ^ sh) % 2 ^ 64).toNat, none, .none⟩ := by
  rw [leaRes, wrap_eq_emod]

/-- Settles O10: each operation is `alu` of its result function, whose value the lemmas above give. -/
theorem integerCompareSelect : Obligations.IntegerCompareSelect := by
  unfold Obligations.IntegerCompareSelect
  intro s k t h m cond sh a b pick holds x index
  have hcmp : cmpRes cond h t = ⟨if holds then 1 else 0, none, .none⟩ := by
    cases cond <;> rfl
  have hlea : leaRes sh h t = ⟨((t.rd h.a 64 + index * 2 ^ sh) % 2 ^ 64).toNat, none, .none⟩ := by
    rw [leaRes_eq, leaIndex_eq]
  exact ⟨fun hr => exec_alu_eq hr rfl (f := minRes) rfl, fun hr => exec_alu_eq hr rfl (f := maxRes) rfl,
    fun hr => exec_alu_eq hr rfl (f := minRes) rfl, fun hr => exec_alu_eq hr rfl (f := maxRes) rfl,
    fun hr => exec_alu_eq hr rfl ((absRes_eq m h t).trans (intRes_eq h.ty m.sat x)),
    fun hr => exec_alu_eq hr rfl hcmp, fun hr => exec_alu_eq hr rfl hcmp,
    fun hr => exec_alu_eq hr rfl (selRes_eq h t), fun hr => exec_alu_eq hr rfl hlea⟩

end Sys2Proof.Machine
end

section
/-! Bitwise operations, shifts and rotations (R87; O11). -/

namespace Sys2Proof.Machine

/-! ### Bit by bit -/

theorem andRes_eq (h : Head) (t : Thread) :
    andRes h t = ⟨(t.bits h.a h.ty.regWidth &&& t.bitsB h.b h.ty.regWidth).toNat, none, .none⟩ := by
  rw [BitVec.toNat_and, toNat_bits_regWidth, toNat_bitsB_regWidth]
  rfl

theorem orRes_eq (h : Head) (t : Thread) :
    orRes h t = ⟨(t.bits h.a h.ty.regWidth ||| t.bitsB h.b h.ty.regWidth).toNat, none, .none⟩ := by
  rw [BitVec.toNat_or, toNat_bits_regWidth, toNat_bitsB_regWidth]
  rfl

theorem xorRes_eq (h : Head) (t : Thread) :
    xorRes h t = ⟨(t.bits h.a h.ty.regWidth ^^^ t.bitsB h.b h.ty.regWidth).toNat, none, .none⟩ := by
  rw [BitVec.toNat_xor, toNat_bits_regWidth, toNat_bitsB_regWidth]
  rfl

/-- The patterns that andn and not complement have the width of the operand, for a type of 32 bits or more. -/
theorem andnRes_eq (h : Head) (t : Thread) (hw : 32 ≤ h.ty.width) :
    andnRes h t = ⟨(t.bits h.a h.ty.regWidth &&& ~~~t.bitsB h.b h.ty.regWidth).toNat, none, .none⟩ := by
  have hb : bPat h t < 2 ^ h.ty.regWidth := rdB_lt t h.b (thirtyTwo_dvd_regWidth _)
  rw [BitVec.toNat_and, BitVec.toNat_not, toNat_bits_regWidth,
    toNat_bitsB_regWidth, andnRes, ← regWidth_eq_width hw, Nat.mod_eq_of_lt hb]
  rfl

theorem notRes_eq (h : Head) (t : Thread) (hw : 32 ≤ h.ty.width) :
    notRes h t = ⟨(~~~t.bits h.a h.ty.regWidth).toNat, none, .none⟩ := by
  have ha : aPat h t < 2 ^ h.ty.regWidth := rd_lt t h.a (thirtyTwo_dvd_regWidth _)
  rw [BitVec.toNat_not, toNat_bits_regWidth, notRes, ← regWidth_eq_width hw, Nat.mod_eq_of_lt ha]
  rfl

/-! ### Shifts -/

theorem toNat_shiftLeft_eq_ite {w : Nat} (x : BitVec w) (n : Nat) :
    (x <<< n).toNat = if n < w then x.toNat * 2 ^ n % 2 ^ w else 0 := by
  split
  · rw [BitVec.toNat_shiftLeft, Nat.shiftLeft_eq]
  next hn => rw [BitVec.shiftLeft_eq_zero (Nat.not_lt.mp hn), BitVec.toNat_zero]

theorem toNat_ushiftRight_eq_ite {w : Nat} (x : BitVec w) (n : Nat) :
    (x >>> n).toNat = if n < w then x.toNat / 2 ^ n else 0 := by
  split
  · rw [BitVec.toNat_ushiftRight, Nat.shiftRight_eq_div_pow]
  next hn => rw [BitVec.ushiftRight_eq_zero (Nat.not_lt.mp hn), BitVec.toNat_zero]

/-- Past the sign bit an arithmetic shift changes nothing more. -/
theorem toInt_div_two_pow_min {w : Nat} (x : BitVec w) (n : Nat) : x.toInt / 2 ^ min n (w - 1) = x.toInt / 2 ^ n := by
  rcases Nat.le_total n (w - 1) with hn | hn
  · rw [Nat.min_eq_left hn]
  · have hlow : -2 ^ (w - 1) ≤ x.toInt := BitVec.le_toInt x
    have hhigh : x.toInt < 2 ^ (w - 1) := BitVec.toInt_lt
    have hp : (2 : Int) ^ (w - 1) ≤ 2 ^ n := by
      exact_mod_cast Nat.pow_le_pow_right (by decide : 0 < 2) hn
    rw [Nat.min_eq_right hn]
    rcases Int.lt_or_le x.toInt 0 with h0 | h0
    · rw [Int.ediv_eq_neg_one_of_neg_of_le h0 (by omega), Int.ediv_eq_neg_one_of_neg_of_le h0 (by omega)]
    · rw [Int.ediv_eq_zero_of_lt h0 hhigh, Int.ediv_eq_zero_of_lt h0 (by omega)]

theorem toNat_sshiftRight_eq_wrap {w : Nat} (x : BitVec w) (n : Nat) :
    (x.sshiftRight n).toNat = wrap (x.toInt / 2 ^ min n (w - 1)) w := by
  rw [BitVec.sshiftRight_eq, wrap_eq_ofInt, toInt_div_two_pow_min, Int.shiftRight_eq_div_pow]
  norm_cast

theorem shlRes_eq {w : Nat} (hw : 32 ∣ w) (h : Head) (t : Thread) :
    shlRes w h t = ⟨(t.bits h.a w <<< shiftCount h t).toNat, none, .none⟩ := by
  rw [toNat_shiftLeft_eq_ite, toNat_bits _ _ hw, shlRes]

theorem shrRes_eq {w : Nat} (hw : 32 ∣ w) (h : Head) (t : Thread) :
    shrRes w h t = ⟨(t.bits h.a w >>> shiftCount h t).toNat, none, .none⟩ := by
  rw [toNat_ushiftRight_eq_ite, toNat_bits _ _ hw, shrRes]

theorem sarRes_eq (w : Nat) (h : Head) (t : Thread) :
    sarRes w h t = ⟨((t.bits h.a w).sshiftRight (shiftCount h t)).toNat, none, .none⟩ := by
  rw [toNat_sshiftRight_eq_wrap, sarRes, toInt_eq_toInt_ofNat]
  rfl

/-! ### Rotations -/

/-- The two parts of a rotated pattern share no bit, so their sum is the pattern that joins them. -/
theorem rotated_add_eq_or {w j : Nat} (a : Nat) (ha : a < 2 ^ w) (hj : j ≤ w) :
    (a * 2 ^ j + a / 2 ^ (w - j)) % 2 ^ w = a <<< j % 2 ^ w ||| a >>> (w - j) := by
  have hw : 2 ^ w = 2 ^ (w - j) * 2 ^ j := by rw [← Nat.pow_add, Nat.sub_add_cancel hj]
  have hlow : a / 2 ^ (w - j) < 2 ^ j := Nat.div_lt_of_lt_mul (hw ▸ ha)
  have hhigh : a % 2 ^ (w - j) < 2 ^ (w - j) := Nat.mod_lt _ (Nat.two_pow_pos _)
  have htop : a * 2 ^ j % 2 ^ w = (a % 2 ^ (w - j)) * 2 ^ j := by rw [hw, Nat.mul_mod_mul_right]
  have hfit : (a % 2 ^ (w - j)) * 2 ^ j + a / 2 ^ (w - j) < 2 ^ w :=
    calc (a % 2 ^ (w - j)) * 2 ^ j + a / 2 ^ (w - j)
        < (a % 2 ^ (w - j) + 1) * 2 ^ j := by rw [Nat.succ_mul]; omega
      _ ≤ 2 ^ w := hw ▸ Nat.mul_le_mul_right _ hhigh
  rw [Nat.shiftLeft_eq, Nat.shiftRight_eq_div_pow, ← Nat.mod_add_mod, htop, Nat.mod_eq_of_lt hfit,
    ← Nat.shiftLeft_eq, Nat.shiftLeft_add_eq_or_of_lt hlow]

theorem rolRes_eq (h : Head) (t : Thread) :
    rolRes h t = ⟨((t.bits h.a 32).rotateLeft (shiftCount h t % 32)).toNat, none, .none⟩ := by
  rw [BitVec.toNat_rotateLeft, Nat.mod_mod, toNat_bits _ _ (Nat.dvd_refl 32), rolRes,
    ← rotated_add_eq_or _ (rd_lt t h.a (Nat.dvd_refl 32)) (Nat.le_of_lt (Nat.mod_lt _ (by decide)))]

/-- Rotating right by k is rotating left by 32 − k. -/
theorem rorRes_eq (h : Head) (t : Thread) :
    rorRes h t = ⟨((t.bits h.a 32).rotateRight (shiftCount h t % 32)).toNat, none, .none⟩ := by
  have hk : 32 - (32 - shiftCount h t % 32) = shiftCount h t % 32 := by omega
  have hrot := rotated_add_eq_or _ (rd_lt t h.a (Nat.dvd_refl 32)) (Nat.sub_le 32 (shiftCount h t % 32))
  rw [hk] at hrot
  rw [BitVec.toNat_rotateRight, Nat.mod_mod, toNat_bits _ _ (Nat.dvd_refl 32), rorRes, Nat.add_comm, hrot, Nat.or_comm]

/-- Settles O11: each operation is `alu` of its result function, which the lemmas above give on bit vectors. -/
theorem logicAndShifts : Obligations.LogicAndShifts := by
  unfold Obligations.LogicAndShifts
  intro s k t h m w a b x y n res
  refine ⟨fun hty => ?_, fun hr => exec_alu_eq hr rfl (shlRes_eq (Nat.dvd_refl 32) h t),
    fun hr => exec_alu_eq hr rfl (shrRes_eq (Nat.dvd_refl 32) h t), fun hr => exec_alu_eq hr rfl (sarRes_eq 32 h t),
    fun hr => exec_alu_eq hr rfl (rolRes_eq h t), fun hr => exec_alu_eq hr rfl (rorRes_eq h t),
    fun hr => exec_alu_eq hr rfl (shlRes_eq ⟨2, rfl⟩ h t), fun hr => exec_alu_eq hr rfl (shrRes_eq ⟨2, rfl⟩ h t),
    fun hr => exec_alu_eq hr rfl (sarRes_eq 64 h t)⟩
  have hw : 32 ≤ h.ty.width := thirtyTwo_le_width_of_b32_or_b64 hty
  exact ⟨fun hr => exec_alu_eq hr rfl (andRes_eq h t), fun hr => exec_alu_eq hr rfl (orRes_eq h t),
    fun hr => exec_alu_eq hr rfl (xorRes_eq h t), fun hr => exec_alu_eq hr rfl (andnRes_eq h t hw),
    fun hr => exec_alu_eq hr rfl (notRes_eq h t hw)⟩

end Sys2Proof.Machine
end

section
/-! Bit fields, counts, moves and extensions (R88 to R91; O12). -/

namespace Sys2Proof.Machine

/-! ### Fields and extensions -/

theorem bfeRes_eq (h : Head) (t : Thread) :
    let f := b32 h t
    let v := (t.bits h.a 32 >>> (f % 256)).toNat % 2 ^ bfWidth f
    bfeRes h t =
      ⟨if bfWidth f = 0 then 0 else if h.ty = .s32 then ((BitVec.ofNat (bfWidth f) v).signExtend 32).toNat else v, none, .none⟩ := by
  simp only [bfeRes, BitVec.toNat_ushiftRight, Nat.shiftRight_eq_div_pow, toNat_bits _ _ (Nat.dvd_refl 32), sx_eq_signExtend]

/-- The field of bfe and bfi ends at bit 31 or below. -/
theorem fieldMask_lt (f : Nat) : (2 ^ bfWidth f - 1) * 2 ^ (f % 256) < 2 ^ 32 := by
  by_cases hp : 32 ≤ f % 256
  · simp [bfWidth, hp]
  · have hfit : bfWidth f + f % 256 ≤ 32 := by
      have hcut : bfWidth f ≤ 32 - f % 256 := by
        rw [bfWidth, if_neg hp]
        exact Nat.min_le_right _ _
      omega
    calc (2 ^ bfWidth f - 1) * 2 ^ (f % 256)
        < 2 ^ bfWidth f * 2 ^ (f % 256) :=
          Nat.mul_lt_mul_of_pos_right (Nat.sub_lt (Nat.two_pow_pos _) Nat.one_pos) (Nat.two_pow_pos _)
      _ = 2 ^ (bfWidth f + f % 256) := (Nat.pow_add _ _ _).symm
      _ ≤ 2 ^ 32 := Nat.pow_le_pow_right (by decide) hfit

theorem bfiRes_eq (h : Head) (t : Thread) :
    let f := b32 h t
    let mask := BitVec.ofNat 32 ((2 ^ bfWidth f - 1) * 2 ^ (f % 256))
    bfiRes h t = ⟨((t.bits h.c 32 &&& ~~~mask) ||| ((t.bits h.a 32 <<< (f % 256)) &&& mask)).toNat, none, .none⟩ := by
  intro f mask
  have hmask : mask.toNat = (2 ^ bfWidth f - 1) * 2 ^ (f % 256) :=
    (BitVec.toNat_ofNat _ _).trans (Nat.mod_eq_of_lt (fieldMask_lt f))
  rw [BitVec.toNat_or, BitVec.toNat_and, BitVec.toNat_and, BitVec.toNat_not, BitVec.toNat_shiftLeft, Nat.shiftLeft_eq,
    toNat_bits _ _ (Nat.dvd_refl 32), toNat_bits _ _ (Nat.dvd_refl 32), hmask]
  rfl

theorem sextRes_eq (h : Head) (t : Thread) :
    sextRes h t = ⟨((BitVec.ofNat (extWidth h t) (t.rd h.a 32)).signExtend h.ty.width).toNat, none, .none⟩ := by
  rw [sextRes, sx_eq_signExtend]

/-! ### Counts and reversal -/

theorem popcount_eq_countP (n v : Nat) : popcount n v = (List.range n).countP v.testBit := by
  induction n generalizing v with
  | zero => rfl
  | succ n ih =>
    have htail : v.testBit ∘ Nat.succ = (v / 2).testBit := by
      funext i
      exact Nat.testBit_succ v i
    rw [popcount, ih, List.range_succ_eq_map, List.countP_cons, List.countP_map, htail, Nat.testBit_zero]
    rcases Nat.mod_two_eq_zero_or_one v with hv | hv <;> simp [hv, Nat.add_comm]

theorem reverseBits_lt (n v : Nat) : reverseBits n v < 2 ^ n := by
  induction n generalizing v with
  | zero => exact Nat.one_pos
  | succ n ih =>
    have hlow := ih (v / 2)
    have hbit : v % 2 * 2 ^ n ≤ 1 * 2 ^ n := Nat.mul_le_mul_right _ (by omega)
    rw [reverseBits]
    omega

/-- Bit `i` of the reversed pattern is bit `n - 1 - i` of the pattern; bit 0 goes to the top. -/
theorem testBit_reverseBits (n v i : Nat) :
    (reverseBits n v).testBit i = (decide (i < n) && v.testBit (n - 1 - i)) := by
  induction n generalizing v with
  | zero => simp [reverseBits]
  | succ n ih =>
    rw [reverseBits, Nat.mul_comm, Nat.testBit_two_pow_mul_add _ (reverseBits_lt n (v / 2))]
    rcases Nat.lt_trichotomy i n with hi | rfl | hi
    · rw [if_pos hi, ih, ← Nat.testBit_succ, show (n - 1 - i).succ = n + 1 - 1 - i by omega]
      simp [hi, Nat.lt_succ_of_lt hi]
    · simp
    · have hbit : v % 2 < 2 ^ (i - n) :=
        Nat.lt_of_lt_of_le (Nat.mod_lt v (by decide)) (Nat.le_self_pow (Nat.sub_ne_zero_of_lt hi) 2)
      simp [Nat.not_lt_of_gt hi, Nat.testBit_lt_two_pow hbit, show ¬i < n + 1 by omega]

theorem reverseBits_eq_reverse (n v : Nat) : reverseBits n v = (BitVec.ofNat n v).reverse.toNat := by
  refine Nat.eq_of_testBit_eq fun i => ?_
  rw [testBit_reverseBits, BitVec.testBit_toNat, BitVec.getLsbD_reverse, BitVec.getMsbD, BitVec.getLsbD_ofNat]
  by_cases hi : i < n
  · simp [hi, show n - 1 - i < n by omega]
  · simp [hi]

/-- The number of zeros above the highest one is the width less one less the logarithm. -/
theorem clz_eq_sub_log2 {w : Nat} (x : BitVec w) : x.clz.toNat = if x.toNat = 0 then w else w - 1 - log2 x.toNat := by
  split
  next h0 =>
    rw [BitVec.clz_eq_iff_eq_zero.mpr (BitVec.eq_of_toNat_eq (by simpa using h0))]
    simp [Nat.mod_eq_of_lt Nat.lt_two_pow_self]
  next h0 =>
    have hx : x ≠ 0#w := fun h => h0 (by simp [h])
    have hclz : x.clz.toNat < w := by
      have := BitVec.clz_lt_iff_ne_zero.mpr hx
      simpa [BitVec.lt_def, Nat.mod_eq_of_lt Nat.lt_two_pow_self] using this
    have hlog : log2 x.toNat = w - 1 - x.clz.toNat := by
      refine (Nat.log2_eq_iff h0).mpr ⟨BitVec.two_pow_sub_clz_le_toNat_of_ne_zero (by omega) hx, ?_⟩
      rw [show w - 1 - x.clz.toNat + 1 = w - x.clz.toNat by omega]
      exact BitVec.toNat_lt_two_pow_sub_clz
    omega

/-- The lowest one of a pattern is at `j` when the bits below `j` are 0 and bit `j`, if it is within the width, is 1. -/
theorem lowestOne_eq (n i : Nat) {v j : Nat} (hj : j ≤ n) (hone : j < n → v.testBit j = true)
    (hzero : ∀ l < j, v.testBit l = false) : (lowestOne n i v).getD (i + n) = i + j := by
  induction n generalizing i v j with
  | zero => simp [lowestOne, Nat.le_zero.mp hj]
  | succ n ih =>
    rw [lowestOne]
    cases j with
    | zero =>
      have : v % 2 = 1 := by simpa using hone (Nat.succ_pos n)
      simp [this]
    | succ j =>
      have : v % 2 ≠ 1 := by simpa using hzero 0 (Nat.succ_pos j)
      rw [if_neg this, show i + (n + 1) = i + 1 + n by omega, show i + (j + 1) = i + 1 + j by omega]
      refine ih (i + 1) (Nat.le_of_succ_le_succ hj) (fun h => ?_) fun l hl => ?_
      · rw [← Nat.testBit_succ]
        exact hone (Nat.succ_lt_succ h)
      · rw [← Nat.testBit_succ]
        exact hzero _ (Nat.succ_lt_succ hl)

theorem lowestOne_eq_ctz {w : Nat} (x : BitVec w) : (lowestOne w 0 x.toNat).getD w = x.ctz.toNat := by
  have hle : x.ctz.toNat ≤ w := by
    have := @BitVec.clz_le w x.reverse
    simpa [BitVec.ctz_eq_reverse_clz, BitVec.le_def, Nat.mod_eq_of_lt Nat.lt_two_pow_self] using this
  have hone (h : x.ctz.toNat < w) : x.toNat.testBit x.ctz.toNat = true := by
    refine BitVec.getLsbD_true_ctz_of_ne_zero (BitVec.ctz_lt_iff_ne_zero.mp ?_)
    simpa [BitVec.lt_def, Nat.mod_eq_of_lt Nat.lt_two_pow_self] using h
  have := lowestOne_eq w 0 hle hone fun l hl => BitVec.getLsbD_false_of_lt_ctz hl
  simpa using this

theorem popcRes_eq (h : Head) (t : Thread) (hw : 32 ≤ h.ty.width) :
    popcRes h t = ⟨(List.range h.ty.regWidth).countP fun i => (t.bits h.a h.ty.regWidth).getLsbD i, none, .none⟩ := by
  have ha : (t.bits h.a h.ty.regWidth).toNat = aPat h t := toNat_bits_regWidth t h.a h.ty
  simp only [popcRes, popcount_eq_countP, BitVec.getLsbD, ha, regWidth_eq_width hw]

theorem clzRes_eq (h : Head) (t : Thread) (hw : 32 ≤ h.ty.width) :
    clzRes h t = ⟨(t.bits h.a h.ty.regWidth).clz.toNat, none, .none⟩ := by
  rw [clz_eq_sub_log2, toNat_bits_regWidth, clzRes, ← regWidth_eq_width hw]
  rfl

theorem ctzRes_eq (h : Head) (t : Thread) (hw : 32 ≤ h.ty.width) :
    ctzRes h t = ⟨(t.bits h.a h.ty.regWidth).ctz.toNat, none, .none⟩ := by
  rw [← lowestOne_eq_ctz, toNat_bits_regWidth, ctzRes, ← regWidth_eq_width hw]
  rfl

theorem brevRes_eq (h : Head) (t : Thread) (hw : 32 ≤ h.ty.width) :
    brevRes h t = ⟨(t.bits h.a h.ty.regWidth).reverse.toNat, none, .none⟩ := by
  rw [brevRes, ← regWidth_eq_width hw, reverseBits_eq_reverse]
  rfl

/-- Settles O12: each operation is `alu` of its result function, which the lemmas above give on bit vectors. -/
theorem fieldsCountsMoves : Obligations.FieldsCountsMoves := by
  unfold Obligations.FieldsCountsMoves
  intro s k t h m w a x c f p n v mask e res
  refine ⟨fun _ => ⟨fun hr => exec_alu_eq hr rfl (bfeRes_eq h t), fun hr => exec_alu_eq hr rfl (bfiRes_eq h t)⟩, fun hty => ?_,
    fun hr => exec_alu_eq hr rfl (f := movRes) rfl, fun hr => exec_alu_eq hr rfl (f := moviRes) rfl,
    fun hr => exec_alu_eq hr rfl (sextRes_eq h t), fun hr => exec_alu_eq hr rfl (f := zextRes) rfl⟩
  have hw : 32 ≤ h.ty.width := thirtyTwo_le_width_of_b32_or_b64 hty
  exact ⟨fun hr => exec_alu_eq hr rfl (popcRes_eq h t hw), fun hr => exec_alu_eq hr rfl (clzRes_eq h t hw),
    fun hr => exec_alu_eq hr rfl (ctzRes_eq h t hw), fun hr => exec_alu_eq hr rfl (brevRes_eq h t hw)⟩

end Sys2Proof.Machine
end

section
/-! The state at reset (O5). -/

namespace Sys2Proof.Machine

theorem Canonical.reset : Canonical State.reset :=
  ⟨Memory.wf_nil, Memory.wf_nil, Memory.wf_nil, Memory.wf_nil, Memory.wf_nil⟩

/-- Settles O5: every store of bytes is empty at reset, and so is what else the statement names. -/
theorem resetIsAsSpecified : Obligations.ResetIsAsSpecified := by
  unfold Obligations.ResetIsAsSpecified
  exact ⟨Canonical.reset, rfl, rfl, rfl, rfl, rfl, rfl, rfl, rfl, rfl, rfl, rfl⟩

end Sys2Proof.Machine
end

section
/-! Incoming writes as they land, parks before an instruction issues, and replays (R71, R72, R129, R131, R209, R214; O48). -/

namespace Sys2Proof.Machine

/-! ### Registers that an incoming write still writes -/

/-- What register `x` reads as once one word has come for register `n`, which it enters if `n` is in `live`. -/
theorem lookD_landOne {m : Map Word} (hm : Map.wf 0 m) (live : List Nat) (n x : Nat) (b : Word) :
    (if live.contains n then Map.put 0 m n b else m).lookD x 0 = if x ∈ live ∧ x = n then b else m.lookD x 0 := by
  by_cases hx : x = n
  · subst hx
    by_cases hl : x ∈ live
    · rw [if_pos (by simpa using hl), if_pos ⟨hl, rfl⟩, Map.lookD_put_self hm]
    · rw [if_neg (by simpa using hl), if_neg fun h => hl h.1]
  · rw [if_neg (c := x ∈ live ∧ x = n) fun h => hx h.2]
    split
    · exact Map.lookD_put_ne 0 m n x b hx
    · rfl

/-- What register `x` reads as once the words of `v` have come for register `n` and those after it, which they enter where they are
in `live`. -/
theorem lookD_landRegs {m : Map Word} (hm : Map.wf 0 m) (live : List Nat) (n words v x : Nat) :
    (landRegs m live n words v).lookD x 0 =
      if x ∈ live ∧ n ≤ x ∧ x < n + words then BitVec.ofNat 32 (v / 2 ^ (32 * (x - n))) else m.lookD x 0 := by
  induction words generalizing m n v with
  | zero => rw [landRegs, if_neg fun ⟨_, hlow, hhigh⟩ => by omega]
  | succ words ih =>
    have hput : Map.wf 0 (if live.contains n then Map.put 0 m n (BitVec.ofNat 32 v) else m) := by
      split
      · exact Map.wf_put hm _ _
      · exact hm
    rw [landRegs, ih hput, lookD_landOne hm]
    rcases Nat.lt_trichotomy x n with hx | rfl | hx
    · rw [if_neg fun h => by omega, if_neg fun h => by omega, if_neg fun h => by omega]
    · rw [if_neg fun h => by omega]
      exact ite_congr (propext (by simp)) (fun _ => by simp) fun _ => rfl
    · have hdiv : v / 2 ^ 32 / 2 ^ (32 * (x - (n + 1))) = v / 2 ^ (32 * (x - n)) := by
        rw [Nat.div_div_eq_div_mul, ← Nat.pow_add, show 32 + 32 * (x - (n + 1)) = 32 * (x - n) by omega]
      have hrange : (n + 1 ≤ x ∧ x < n + 1 + words) ↔ (n ≤ x ∧ x < n + (words + 1)) := by omega
      rw [hdiv]
      exact ite_congr (propext (and_congr_right fun _ => hrange)) (fun _ => rfl) fun _ => if_neg fun h => by omega

/-- The first of the entries that satisfy a test, where just one does. -/
theorem find?_of_filter_eq_singleton {α : Type} {p : α → Bool} {l : List α} {a : α} (h : l.filter p = [a]) :
    l.find? p = some a := by
  rw [← List.head?_filter, h]
  rfl

theorem Thread.land_eq {t : Thread} {wid v : Nat} {x : Incoming} (hx : t.incoming.filter (fun x => x.wid = wid) = [x])
    (hv : x.data = some v) :
    t.land wid = { t with regs := landRegs t.regs x.live x.reg (regWords x.width) v
                          incoming := t.incoming.filter fun x => x.wid ≠ wid } := by
  rw [Thread.land, find?_of_filter_eq_singleton hx]
  simp only [hv]

theorem Record.land_eq {r : Record} {wid v : Nat} {x : Incoming} (hx : r.incoming.filter (fun x => x.wid = wid) = [x])
    (ha : r.awaits x = true) (hv : x.data = some v) :
    r.land wid = { r with regs := landRegs r.regs (x.live.filter fun n => n ≤ r.keep) x.reg (regWords x.width) v
                          landed := r.landed ++ [wid] } := by
  have hfind : (r.incoming.find? fun i => i.wid = wid && r.awaits i) = some x := by
    refine find?_of_filter_eq_singleton ?_
    have : (r.incoming.filter (fun x => x.wid = wid)).filter r.awaits = [x] := by simp [hx, ha]
    simpa [List.filter_filter, Bool.and_comm] using this
  rw [Record.land, hfind]
  simp only [hv]

theorem not_mem_wids_freeMiss (s : State) (key : Nat) : ∀ e ∈ (s.freeMiss key).misses, key ∉ e.wids := by
  intro e he
  obtain ⟨e₀, -, rfl⟩ := List.mem_map.mp (List.mem_filter.mp he).1
  simp

/-! ### The step of an incoming write -/

/-- While a thread still waits for the data of an incoming write, the step changes nothing. -/
theorem execIncomingWriteComplete_waits {s : State} {wid : Nat}
    (h : ∃ p ∈ s.threads, ∃ x ∈ p.2.incoming, x.wid = wid ∧ x.data = none) :
    execIncomingWriteComplete wid s = .next s.settleOps := by
  have hany : (s.threads.any fun p => p.2.incoming.any fun i => i.wid = wid && i.data.isNone) = true := by
    simpa using h
  simp only [execIncomingWriteComplete, event, hany, Bool.true_or, if_true]

/-- Once the data is there, it lands in every thread and record, and units of records that awaited it may become ready (R135). -/
theorem execIncomingWriteComplete_lands {s : State} {wid : Nat}
    (ht : ∀ p ∈ s.threads, ∀ x ∈ p.2.incoming, ¬(x.wid = wid ∧ x.data = none))
    (hr : ∀ p ∈ s.records, ∀ x ∈ p.2.incoming, ¬(x.wid = wid ∧ x.data = none)) :
    execIncomingWriteComplete wid s = .next
      (((s.records.filter fun p => p.2.incoming.any fun x => x.wid = wid && p.2.awaits x).foldl
        (fun (u : State) p => (u.syncRecord p.1).settleUnit p.2.unit)
        { s with threads := s.threads.map fun p => (p.1, p.2.land wid), records := s.records.map fun p => (p.1, p.2.land wid) }).freeMiss
          wid).settleOps := by
  have hthreads : (s.threads.any fun p => p.2.incoming.any fun i => i.wid = wid && i.data.isNone) = false := by
    simpa using ht
  have hrecords : (s.records.any fun p => p.2.incoming.any fun i => i.wid = wid && i.data.isNone) = false := by
    simpa using hr
  simp only [execIncomingWriteComplete, event, hthreads, hrecords, Bool.or_false, Bool.false_eq_true, if_false]

theorem incomingWrites : Claim.IncomingWrites := by
  unfold Claim.IncomingWrites
  intro s wid v waits got hit landed
  refine ⟨execIncomingWriteComplete_waits, execIncomingWriteComplete_lands, fun t x hm hx hv => ?_,
    fun r x hm hx ha hv => ?_, not_mem_wids_freeMiss s wid⟩
  · rw [Thread.land_eq hx hv]
    refine ⟨rfl, fun n => ?_⟩
    rw [lookD_landRegs hm]
    exact ite_congr (propext (by simp)) (fun _ => rfl) fun _ => rfl
  · rw [Record.land_eq hx ha hv]
    refine ⟨rfl, fun n => ?_⟩
    rw [lookD_landRegs hm]
    exact ite_congr (propext (by simp [and_assoc])) (fun _ => rfl) fun _ => rfl

/-! ### Parks before an instruction, and replays -/

/-- A thread that waits for a register, with no access in translation, parks with MODE 0 (R71). -/
theorem parkPending_register {s : State} {k cycle : Nat} {t : Thread} {i : Instr} (ht : s.thread? k = some t)
    (hh : t.hold = .none) (hp : t.priv = false) (hi : s.instrAt k t = some i) (hw : t.walk = none)
    (hs : ∃ r ∈ i.sources, r ∈ t.awaited) :
    s.parkPending k cycle = s.parkThread k ⟨0, 0x4 * 2 ^ 60, s.regCount k - 1, t.pc.toNat, none, 0, true, cycle⟩ := by
  have hany : i.sources.any t.awaited.contains = true := by simpa using hs
  simp [State.parkPending, ht, hh, hp, hi, hw, hany, eventKey]

/-- A thread held by an access that awaits translation parks on the ticket of its walk (R214). -/
theorem parkPending_walk {s : State} {k cycle n : Nat} {t : Thread} {i : Instr} {w : Walk} (ht : s.thread? k = some t)
    (hh : t.hold = .none) (hp : t.priv = false) (hi : s.instrAt k t = some i) (hn : t.walk = some n)
    (hw : (s.walks.find? fun x => x.x.no = n) = some w)
    (hs : (∃ r ∈ i.sources, r ∈ t.awaited) ∨ heldByWalk i = true) :
    s.parkPending k cycle = s.parkWalk k cycle t w := by
  have hany : (i.sources.any t.awaited.contains || heldByWalk i) = true := by simpa using hs
  simp only [State.parkPending, ht, hh, hp, hi, hn, hw, hany, Option.bind_some, ne_eq, not_true_eq_false, decide_false,
    Bool.or_self, Bool.false_eq_true, if_false, if_true]

/-- A thread in privileged mode stays in its slot (R358). -/
theorem parkPending_priv {s : State} {k cycle : Nat} {t : Thread} (ht : s.thread? k = some t) (hp : t.priv = true) :
    s.parkPending k cycle = s := by
  simp [State.parkPending, ht, hp]

/-- PENDING_REGISTER_PARK for one thread takes a fresh cycle, and settles it after the park. -/
theorem execPendingRegisterPark_one (group lane : Nat) (s : State) :
    execPendingRegisterPark group [lane] s =
      .next (((s.fresh.2.parkPending (threadNo group lane) s.serial).settleCycle s.serial)).settleOps := rfl

theorem execMissStatusReplay_one {group lane : Nat} {s : State} {t : Thread} (ht : s.thread? (threadNo group lane) = some t) :
    execMissStatusReplay group [lane] s =
      .next (s.setThread (threadNo group lane) (if t.hold = .replay then { t with hold := .none } else t)).settleOps := by
  have hlook : s.threads.look (threadNo group lane) = some t := ht
  simp only [execMissStatusReplay, event, List.foldl_cons, List.foldl_nil, State.updThread, Map.adjust, hlook, State.setThread]

theorem pendingParksAndReplays : Claim.PendingParksAndReplays := by
  unfold Claim.PendingParksAndReplays
  intro s group lane t i w k n ht
  have hn : n.thread? k = some t := ht
  have hpark {u : State} (hu : n.parkPending k s.serial = u) :
      exec (.pendingRegisterPark group [lane]) s = .next (u.settleCycle s.serial).settleOps :=
    hu ▸ execPendingRegisterPark_one group lane s
  have hreplay : exec (.missStatusReplay group [lane]) s =
      .next (s.setThread k (if t.hold = .replay then { t with hold := .none } else t)).settleOps := execMissStatusReplay_one ht
  refine ⟨fun hh hp hi hw hs => hpark (parkPending_register hn hh hp hi hw hs),
    fun hh hp hi hw hf hs => hpark (parkPending_walk hn hh hp hi hw hf hs), fun hp => hpark (parkPending_priv hn hp),
    fun hh => ?_, fun hh => ?_⟩
  · rw [hreplay, if_pos hh]
  · rw [hreplay, if_neg hh]

/-- Settles O48: an incoming write lands register by register (`lookD_landRegs`), and a thread that waits takes the branch of
`parkPending` that its state names. -/
theorem incomingWritesAndReplays : Obligations.IncomingWritesAndReplays := by
  unfold Obligations.IncomingWritesAndReplays
  exact ⟨incomingWrites, pendingParksAndReplays⟩

end Sys2Proof.Machine
end

section
/-! Records that threads write as they park, and park and spawn at their issue (R126 to R134, R145 to R148, R358; O30). -/

namespace Sys2Proof.Machine

/-! ### The record that a parking thread writes -/

/-- Reading a store of which only some keys are kept. -/
theorem Map.look_filter_key {α : Type} (m : Map α) (f : Nat → Bool) (x : Nat) :
    Map.look (m.filter fun p => f p.1) x = if f x then m.look x else none := by
  induction m with
  | nil => simp [Map.look]
  | cons p m ih =>
    obtain ⟨k, v⟩ := p
    by_cases hk : x = k
    · subst hk
      cases hf : f x <;> simp_all [Map.look]
    · cases hf : f k <;> simp [Map.look, hf, hk, ih]

/-- The registers that a record keeps read as in its thread, and the others as zero (R128). -/
theorem lookD_parkRecord_regs (k : Nat) (t : Thread) (b : Block) (hdr : Header) (p : ParkReq) (unit : Nat) (place : Place) (n : Nat) :
    (parkRecord k t b hdr p unit place).regs.lookD n 0 = if n ≤ p.keep then t.regs.lookD n 0 else 0 := by
  have hlook : (parkRecord k t b hdr p unit place).regs.look n = if decide (n ≤ p.keep) then t.regs.look n else none :=
    Map.look_filter_key t.regs (fun r => decide (r ≤ p.keep)) n
  rw [Map.lookD, hlook]
  by_cases hn : n ≤ p.keep
  · rw [if_pos (decide_eq_true hn), if_pos hn, Map.lookD]
  · rw [if_neg (by simpa using hn), if_neg hn, Option.getD_none]

/-- Only a record in the overflow area has its image written (R134). -/
theorem syncRecord_of_not_overflow {s : State} {rid : Nat} {r : Record} (hr : s.records.look rid = some r)
    (hp : ∀ o n, r.place ≠ .overflow o n) : s.syncRecord rid = s := by
  cases hplace : r.place with
  | overflow o n => exact absurd hplace (hp o n)
  | drawer l => simp [State.syncRecord, hr, hplace]
  | image => simp [State.syncRecord, hr, hplace]

@[simp] theorem State.leaveSlot_threads (s : State) (k : Nat) : (s.leaveSlot k).threads = s.threads.del k := by
  simp only [State.leaveSlot]; split <;> rfl

@[simp] theorem State.leaveSlot_records (s : State) (k : Nat) : (s.leaveSlot k).records = s.records := by
  simp only [State.leaveSlot]; split <;> rfl

@[simp] theorem State.leaveSlot_memory (s : State) (k : Nat) : (s.leaveSlot k).memory = s.memory := by
  simp only [State.leaveSlot]; split <;> rfl

/-- A record that goes to the drawer is entered, in some sibling set, and its thread leaves its lane (R126, R138). -/
theorem writeRecord_eq_of_not_overflow (s : State) (k : Nat) (t : Thread) (b : Block) (hdr : Header) (p : ParkReq) {place : Place}
    (hp : ∀ o n, place ≠ .overflow o n) :
    ∃ unit, s.writeRecord k t b hdr p place =
      ({ s with serial := s.serial + 1
                records := s.records.ins s.serial (parkRecord k t b hdr p unit place) } : State).leaveSlot k :=
  ⟨_, syncRecord_of_not_overflow (by rw [State.leaveSlot_records]; exact Map.look_ins_self _ _ _) hp⟩

/-- A thread that finds a place for its record writes it there (R126). -/
theorem parkThread_eq_writeRecord {s : State} {k : Nat} {p : ParkReq} {t : Thread} {b : Block} {hdr : Header} {place : Place}
    (ht : s.thread? k = some t) (hb : s.blockOf k = some b) (hh : s.headerOf k = some hdr)
    (hp : s.placeFor (coreOf k) b.asid (recordSize p.keep t.rep.isSome p.mode) = some place) :
    s.parkThread k p = s.writeRecord k t b hdr p place := by
  simp only [State.parkThread, ht, hb, hh, hp]

theorem parkingWritesRecord : Claim.ParkingWritesRecord := by
  unfold Claim.ParkingWritesRecord
  intro s k p t b hdr place ht hb hh hsorted hplace hdrawer
  obtain ⟨unit, hw⟩ := writeRecord_eq_of_not_overflow s k t b hdr p hdrawer
  rw [parkThread_eq_writeRecord ht hb hh hplace, hw]
  refine ⟨parkRecord k t b hdr p unit place, ?_, rfl, rfl, rfl, rfl, rfl, rfl, rfl, rfl, rfl, rfl, rfl,
    lookD_parkRecord_regs k t b hdr p unit place, ?_, fun n hn => ?_, State.leaveSlot_memory _ _⟩
  · rw [State.leaveSlot_records]
    exact Map.look_ins_self _ _ _
  · rw [State.thread?, State.leaveSlot_threads]
    exact Map.look_del_self _ _ hsorted
  · rw [State.thread?, State.leaveSlot_threads]
    exact Map.look_del_ne _ _ _ hn

/-! ### Sending a message writes no record (R308) -/

/-- What no step of a fold changes, the fold keeps. -/
theorem foldl_keeps {σ α β : Type} {f : σ → α → σ} {get : σ → β} (hf : ∀ u a, get (f u a) = get u) (l : List α) (s : σ) :
    get (l.foldl f s) = get s :=
  List.foldlRecOn l f (motive := fun u => get u = get s) rfl fun u hu a _ => (hf u a).trans hu

theorem pumpOne_records (s : State) (n c : Nat) : (s.pumpOne n c).records = s.records := by
  simp only [State.pumpOne]
  split
  · rfl
  · split
    · split <;> rfl
    · rfl

theorem transmit_records (s : State) (c dest : Nat) (m : Msg) : (s.transmit c dest m).records = s.records :=
  foldl_keeps (get := State.records) (fun u _ => pumpOne_records u _ c) _ _

theorem send_records (s : State) (m : Msg) : (s.send m).records = s.records := by
  simp only [State.send]
  split
  · exact foldl_keeps (get := State.records) (fun u d => transmit_records u _ d m) _ _
  · rfl

theorem askPeer_records (s : State) (asid bid n : Nat) (l : Leaf) (use : PeerUse) (pa : Nat) (req : MemReq) :
    (s.askPeer asid bid n l use pa req).records = s.records :=
  send_records _ _

theorem askWatch_records (s : State) (who : Party) (asid : Nat) (p : Piece) : (s.askWatch who asid p).records = s.records := by
  unfold State.askWatch
  split
  · rfl
  · exact askPeer_records ..

/-! ### park at its issue -/

/-- With no record of the cycle that runs, nothing that keeps the records has a unit to settle. -/
theorem FreshCycle.settleCycle_eq {s u : State} {g : Issue} (hf : FreshCycle s) (hg : s.issuing = some g)
    (hu : u.records = s.records) : u.settleCycle g.cycle = u :=
  settleCycle_none u g.cycle fun r hr hc => hf r (hu ▸ hr) (by simp [hg, hc])

theorem Runs.thread?_eq {i : Instr} {h : Head} {s : State} {k : Nat} {t : Thread} (hr : Runs i h s k t) : s.thread? k = some t :=
  hr.1.2

/-- An instruction that can park, in the one thread that issues: what its body leaves, once the units of the cycle have settled. -/
theorem perLanePark_of_body {i : Instr} {h : Head} {s u : State} {k : Nat} {t : Thread} {g : Issue} (hr : Runs i h s k t)
    (hg : s.issuing = some g) {body : Head → Nat → Thread → State → State} (hu : body h k t s = u) :
    perLanePark i body s = .next (u.settleCycle g.cycle) := by
  rw [perLanePark_runs hr, hu, hg]
  rfl

/-- The same where the body completes the instruction, so that no record was written. -/
theorem perLanePark_of_fresh {i : Instr} {h : Head} {s u : State} {k : Nat} {t : Thread} {g : Issue} (hr : Runs i h s k t)
    (hg : s.issuing = some g) (hf : FreshCycle s) {body : Head → Nat → Thread → State → State} (hu : body h k t s = u)
    (hrec : u.records = s.records) : perLanePark i body s = .next u := by
  rw [perLanePark_of_body hr hg hu, hf.settleCycle_eq hg hrec]

/-- A thread in user mode that waits for an event parks on it with MODE 1 (R126). -/
theorem parkOn_of_user {s : State} {k : Nat} {t : Thread} (event keep : Nat) (log : OpLog) {g : Issue} (ht : s.thread? k = some t)
    (hp : t.priv = false) (hg : s.issuing = some g) :
    s.parkOn k event keep log = s.parkThread k
      ⟨1, event, if keep = 0 then s.regCount k - 1 else keep, t.pc.toNat, some log, 0, false, g.cycle⟩ := by
  simp [State.parkOn, ht, hp, hg, keepCount]

theorem logOf_eq {s : State} {g : Issue} (hg : s.issuing = some g) (i : Instr) (ea b c aux : Nat) :
    s.logOf i ea b c aux = ⟨g.words, ea, b, c, lenOf i, aux, [], false⟩ := by
  simp [State.logOf, hg]

theorem reached_iff (s : State) (d : Nat) : s.reached d = true ↔ d ≤ s.timebase.toNat ∧ d < 2 ^ 60 := by
  simp [State.reached]

/-- The watched word of park.ne at its piece: the bytes that a peer has sent, or those that memory holds for its thread (R146). -/
def State.watchedWord (s : State) (who : Party) (p : Piece) : Nat :=
  if 2 ≤ s.spaceOf p.leaf then (((s.watchAsked who).bind PeerAccess.got).map ofBytes).getD 0
  else
    let own := match s.pairingWho who with
      | some q => q.held.filter fun y => y.who = who
      | none => []
    ofBytes (s.overlaid own (s.spaceOf p.leaf) p.pa 4)

/-- A word that translates, and that no peer still has to send, is read. -/
theorem watchWord_eq {s : State} {who : Party} {core asid va : Nat} {p : Piece} (hp : s.watchPiece core asid va = some p)
    (ha : s.watchAway who p = false) : s.watchWord who core asid va = some (s.watchedWord who p) := by
  simp only [State.watchWord, hp, Option.bind_some, State.watchedWord]
  by_cases hs : 2 ≤ s.spaceOf p.leaf
  · rw [if_pos hs, if_pos hs]
    cases hgot : (s.watchAsked who).bind PeerAccess.got with
    | none => simp [State.watchAway, hs, hgot] at ha
    | some bytes => rfl
  · exact (if_neg hs).trans (congrArg some (if_neg hs).symm)

/-- Why park.ne wakes, once its word has been read: it differs, or the deadline has passed (R146). -/
theorem watchReason_eq {s : State} {who : Party} {core asid w : Nat} {log : OpLog} (hw : s.watchWord who core asid log.ea = some w) :
    s.watchReason who core asid log =
      if w ≠ log.b then some 0 else if log.aux = 1 ∧ s.reached log.c = true then some 1 else none := by
  simp [State.watchReason, hw]

section ParkNe
variable {s : State} {k : Nat} {t : Thread} {h : Head} {keep : Nat} {p : Piece}

theorem watchPiece_eq {core asid va : Nat} (hp : s.translate core asid .load [(va, 0, 4)] = .all [p]) :
    s.watchPiece core asid va = some p := by
  simp only [State.watchPiece, hp]

/-- A word of a peer's page is asked for first, and the instruction issues again (R314). -/
theorem parkNeBody_away (hd : t.rd h.a 64 / 4 * 4 + 4 ≤ 2 ^ 52)
    (hp : s.translate (coreOf k) (s.asidOf k) .load [(t.rd h.a 64 / 4 * 4, 0, 4)] = .all [p])
    (ha : s.watchAway (.thread t.bid t.lin) p = true) :
    parkNeBody keep h k t s = (s.askWatch (.thread t.bid t.lin) (s.asidOf k) p).setThread k { t with hold := .replay } := by
  simp only [parkNeBody, if_neg (Nat.not_lt.mpr hd), hp, ha, if_true]

/-- A word that can be read completes park.ne or parks its thread (R146). -/
theorem parkNeBody_here (hd : t.rd h.a 64 / 4 * 4 + 4 ≤ 2 ^ 52)
    (hp : s.translate (coreOf k) (s.asidOf k) .load [(t.rd h.a 64 / 4 * 4, 0, 4)] = .all [p])
    (ha : s.watchAway (.thread t.bid t.lin) p = false) :
    parkNeBody keep h k t s = parkNeRead (.parkNe h keep) keep (t.rd h.a 64 / 4 * 4) p h k t s := by
  simp only [parkNeBody, if_neg (Nat.not_lt.mpr hd), hp, ha, Bool.false_eq_true, if_false]

/-- A word that differs, or a deadline that has passed, completes park.ne with its reason (R146). -/
theorem parkNeRead_completes {i : Instr} {a r : Nat}
    (hr : s.watchReason (.thread t.bid t.lin) (coreOf k) (s.asidOf k)
      (s.logOf i a (t.rdB h.b 32) (t.rd h.c 64) (b2n (h.c ≠ .reg 0))) = some r) :
    parkNeRead i keep a p h k t s = (s.dropWatch (.thread t.bid t.lin)).setThread k (t.finish i h ⟨r, none, .none⟩) := by
  simp only [parkNeRead, hr]

/-- With neither, a thread in user mode parks on the word (R146). -/
theorem parkNeRead_parks {i : Instr} {a : Nat} (hpriv : t.priv = false)
    (hr : s.watchReason (.thread t.bid t.lin) (coreOf k) (s.asidOf k)
      (s.logOf i a (t.rdB h.b 32) (t.rd h.c 64) (b2n (h.c ≠ .reg 0))) = none) :
    parkNeRead i keep a p h k t s = (s.dropWatch (.thread t.bid t.lin)).parkOn k (eventKey 0x9 (a / 4)) keep
      (s.logOf i a (t.rdB h.b 32) (t.rd h.c 64) (b2n (h.c ≠ .reg 0))) := by
  simp only [parkNeRead, hr, hpriv, Bool.false_and, Bool.false_eq_true, if_false]

/-- Why park.ne completes at its issue, where its word can be read. -/
theorem watchReason_logOf {i : Instr} {a : Nat} {who : Party} (hp : s.watchPiece (coreOf k) (s.asidOf k) a = some p)
    (ha : s.watchAway who p = false) :
    s.watchReason who (coreOf k) (s.asidOf k) (s.logOf i a (t.rdB h.b 32) (t.rd h.c 64) (b2n (h.c ≠ .reg 0))) =
      if s.watchedWord who p ≠ t.rdB h.b 32 then some 0
      else if h.c ≠ .reg 0 ∧ s.reached (t.rd h.c 64) = true then some 1 else none := by
  rw [watchReason_eq (watchWord_eq hp ha)]
  by_cases hc : h.c = .reg 0 <;> simp [State.logOf, b2n, hc]

end ParkNe

theorem parkInstructions : Claim.ParkInstructions := by
  unfold Claim.ParkInstructions
  intro s k t h keep g hg d passed K log waits
  refine ⟨fun hr hp => perLanePark_of_body hr hg ?_, fun hr hf hp => perLanePark_of_fresh hr hg hf (if_pos hp) rfl,
    fun hr hf hd => perLanePark_of_fresh hr hg hf (if_pos ((reached_iff s d).mpr hd)) rfl,
    fun hr hd hp => perLanePark_of_body hr hg ?_, fun p hr hf hd hp => ?_⟩
  · simp [parkNowBody, hp, hg, logOf_eq hg, eventKey, keepCount, K, log]
  · rw [parkUntilBody, if_neg (mt (reached_iff s d).mp hd), parkOn_of_user _ _ _ hr.thread?_eq hp hg, logOf_eq hg]
    rfl
  · intro who held word late away
    have hlate : late ↔ h.c ≠ .reg 0 ∧ s.reached (t.rd h.c 64) = true := by rw [reached_iff]
    let reason := s.watchReason who (coreOf k) (s.asidOf k)
      (s.logOf (.parkNe h keep) (d / 4 * 4) (t.rdB h.b 32) (t.rd h.c 64) (b2n (h.c ≠ .reg 0)))
    have hreason (ha : ¬away) : reason = if word ≠ t.rdB h.b 32 then some 0
        else if h.c ≠ .reg 0 ∧ s.reached (t.rd h.c 64) = true then some 1 else none :=
      watchReason_logOf (watchPiece_eq hp) (Bool.not_eq_true _ ▸ ha)
    have hdiffers (ha : ¬away) (hw : word ≠ t.rdB h.b 32) : reason = some 0 := (hreason ha).trans (if_pos hw)
    have hexpired (ha : ¬away) (hw : word = t.rdB h.b 32) (hl : late) : reason = some 1 :=
      (hreason ha).trans ((if_neg (not_not_intro hw)).trans (if_pos (hlate.mp hl)))
    have hnone (ha : ¬away) (hw : word = t.rdB h.b 32) (hl : ¬late) : reason = none :=
      (hreason ha).trans ((if_neg (not_not_intro hw)).trans (if_neg (mt hlate.mpr hl)))
    have hread (ha : ¬away) : parkNeBody keep h k t s = parkNeRead (.parkNe h keep) keep (d / 4 * 4) p h k t s :=
      parkNeBody_here hd hp (Bool.not_eq_true _ ▸ ha)
    refine ⟨fun ha => perLanePark_of_fresh hr hg hf (parkNeBody_away hd hp ha) (askWatch_records ..),
      fun ha hw => perLanePark_of_fresh hr hg hf ((hread ha).trans (parkNeRead_completes (hdiffers ha hw))) rfl,
      fun ha hw hl => perLanePark_of_fresh hr hg hf ((hread ha).trans (parkNeRead_completes (hexpired ha hw hl))) rfl,
      fun ha hw hl hpriv => perLanePark_of_body hr hg ?_⟩
    rw [hread ha, parkNeRead_parks hpriv (hnone ha hw hl), logOf_eq hg, Nat.mul_div_cancel _ (by decide),
      parkOn_of_user (s := s.dropWatch who) _ _ _ hr.thread?_eq hpriv hg]
    simp only [b2n, decide_eq_true_eq]
    rfl

/-! ### spawn -/

section Spawn
variable {s : State} {k narg : Nat} {t : Thread} {h : Head} {given : Bool}

/-- An entry that is not aligned takes the instruction-address trap, and so does one beyond the address space (R147). -/
theorem spawnBody_unaligned (he : t.rd h.a 64 % 4 ≠ 0) : spawnBody given narg h k t s = s.trap k 0x03 0x01 (t.rd h.a 64) := by
  simp only [spawnBody, if_pos he]

theorem spawnBody_beyond (he : t.rd h.a 64 % 4 = 0) (hb : 2 ^ 52 ≤ t.rd h.a 64) :
    spawnBody given narg h k t s = s.trap k 0x03 0x02 (t.rd h.a 64) := by
  simp only [spawnBody, if_neg (not_not_intro he), if_pos hb]

/-- With room in the drawer, the child's record is entered and, ready as it is, goes on to the crock (R148). -/
theorem spawnBody_drawer {b : Block} {hdr : Header} {l : List Nat} (he : t.rd h.a 64 % 4 = 0) (hb : t.rd h.a 64 < 2 ^ 52)
    (hblock : s.blockOf k = some b) (hhdr : s.headerOf k = some hdr)
    (hp : s.placeFor (coreOf k) b.asid (32 + 4 * narg) = some (.drawer l)) :
    spawnBody given narg h k t s =
      let lane := if given then t.rd h.c 32 % 32 else laneOf k
      ((({ s with
          serial := s.serial + 1
          records := s.records.ins s.serial
            (spawnRecord k b t.bid hdr (t.rd h.a 64) lane narg (spawnRegs t h narg) s.serial (.drawer l)) } : State).updBlock
        t.bid fun b => { b with threads := b.threads + 1, alive := b.alive + 1 }).settleUnit s.serial).setThread k
        (t.finish (.spawn h given narg) h ⟨lane, none, .none⟩) := by
  have hsize : recordSize narg false 0 = 32 + 4 * narg := by simp [recordSize]
  simp only [spawnBody, if_neg (not_not_intro he), if_neg (Nat.not_le.mpr hb), hblock, hhdr, hsize, hp, State.fresh]
  rw [syncRecord_of_not_overflow (Map.look_ins_self _ _ _) fun _ _ => Place.noConfusion]

end Spawn

theorem spawnWritesRecord : Claim.SpawnWritesRecord := by
  unfold Claim.SpawnWritesRecord
  intro s k t h given narg b hdr l i e lane hr hb hh
  have hbody {u : State} (hu : spawnBody given narg h k t s = u) : exec (.spawn h given narg) s = .next u :=
    hu ▸ perLane_runs hr (spawnBody given narg)
  exact ⟨fun he => hbody (spawnBody_unaligned he), fun he hbeyond => hbody (spawnBody_beyond he hbeyond),
    fun he hin hp => hbody (spawnBody_drawer he hin hb hh hp)⟩

/-- Settles O30: a thread that finds room enters its record (`writeRecord_eq_of_not_overflow`), park takes the branch that its
condition names, and spawn enters the record of its child. -/
theorem parkAndSpawn : Obligations.ParkAndSpawn := by
  unfold Obligations.ParkAndSpawn
  exact ⟨parkingWritesRecord, parkInstructions, spawnWritesRecord⟩

end Sys2Proof.Machine
end

section
/-! Deadlines, watched words, the timers of bins, and room in the fault queue (R134, R136, R139, R140, R146, R314, R361; O49). -/

namespace Sys2Proof.Machine

/-! ### Deadlines and watched words of records -/

section Records
variable {s : State} {rid : Nat} {r : Record} {l : OpLog}

/-- A deadline that the timebase has reached satisfies the event of its record (R136). -/
theorem execTimeEventExpiry_reached (hr : s.records.look rid = some r) (hl : r.log = some l) (hs : r.satisfied = false)
    (he : r.event / 2 ^ 60 = 0x8) (hd : s.reached l.aux = true) :
    execTimeEventExpiry rid s = .next (s.satisfyRecord rid r).settleOps := by
  simp only [execTimeEventExpiry, event, hr, he, hs, hl, Option.map_some, Option.getD_some, hd, decide_true, Bool.not_false,
    Bool.and_self, if_true]

/-- One that it has not reached does nothing. -/
theorem execTimeEventExpiry_not_reached (hr : s.records.look rid = some r) (hl : r.log = some l) (hd : s.reached l.aux = false) :
    execTimeEventExpiry rid s = .next s.settleOps := by
  simp only [execTimeEventExpiry, event, hr, hl, Option.map_some, Option.getD_some, hd, Bool.and_false, Bool.false_eq_true, if_false]

/-- A watched word with a reason to wake leaves it in the log of its record, whose event is satisfied (R146). -/
theorem evaluateWatch_wakes {v : Nat} (hr : s.records.look rid = some r) (hl : r.log = some l) (hs : r.satisfied = false)
    (he : r.event / 2 ^ 60 = 0x9) (hv : s.watchReason (.thread r.bid r.lin) r.core r.asid l = some v) :
    s.evaluateWatch rid =
      ((s.dropWatch (.thread r.bid r.lin)).updRecord rid fun r => { r with log := some { l with aux := 2 + v } }).satisfyRecord rid r := by
  simp only [State.evaluateWatch, hr, he, hs, hl, hv, ne_eq, not_true_eq_false, decide_false, Bool.or_self, Bool.false_eq_true,
    if_false, Option.bind_some, Option.map]

/-- With none, the answer of a peer is dropped, if there is one. -/
theorem evaluateWatch_waits (hr : s.records.look rid = some r) (hl : r.log = some l) (hs : r.satisfied = false)
    (he : r.event / 2 ^ 60 = 0x9) (hv : s.watchReason (.thread r.bid r.lin) r.core r.asid l = none) :
    s.evaluateWatch rid = s.dropWatch (.thread r.bid r.lin) := by
  simp only [State.evaluateWatch, hr, he, hs, hl, hv, ne_eq, not_true_eq_false, decide_false, Bool.or_self, Bool.false_eq_true,
    if_false, Option.bind_some, Option.map]

/-- A word that no peer still has to send is evaluated at once. -/
theorem execWatchedWordEvaluate_here {p : Piece} (hr : s.records.look rid = some r) (hl : r.log = some l)
    (hp : s.watchPiece r.core r.asid l.ea = none ∨
      (s.watchPiece r.core r.asid l.ea = some p ∧ s.watchAway (.thread r.bid r.lin) p = false)) :
    execWatchedWordEvaluate rid s = .next (s.evaluateWatch rid).settleOps := by
  rcases hp with hp | ⟨hp, ha⟩
  · simp only [execWatchedWordEvaluate, event, hr, hl, Option.bind_some, hp]
  · simp only [execWatchedWordEvaluate, event, hr, hl, Option.bind_some, hp, ha, Bool.and_false, Bool.false_and,
      Bool.false_eq_true, if_false]

/-- A word of a peer's page is asked for first (R314). -/
theorem execWatchedWordEvaluate_away {p : Piece} (hr : s.records.look rid = some r) (hl : r.log = some l)
    (hs : r.satisfied = false) (he : r.event / 2 ^ 60 = 0x9) (hp : s.watchPiece r.core r.asid l.ea = some p)
    (ha : s.watchAway (.thread r.bid r.lin) p = true) (hd : l.aux ≠ 1) :
    execWatchedWordEvaluate rid s = .next (s.askWatch (.thread r.bid r.lin) r.asid p).settleOps := by
  simp only [execWatchedWordEvaluate, event, hr, hl, Option.bind_some, hp, he, hs, ha, Option.any_some, hd, decide_true,
    decide_false, Bool.false_and, Bool.not_false, Bool.and_self, if_true]

end Records

/-! ### Timers of bins -/

/-- A bin whose timer has run out launches what it holds, and the pass queue moves up (R139, R140). -/
theorem execCrockTimerExpiry_expired {s : State} {core bin : Nat} {b : Bin} (hb : s.bin? core bin = some b)
    (he : s.binExpired b = true) :
    execCrockTimerExpiry core bin s =
      .next ((s.launchBin core bin).pressBins core (4 * (s.launchBin core bin).records.length + 4)).settleOps := by
  simp only [execCrockTimerExpiry, event, hb, Option.map_some, Option.getD_some, he, if_true]

theorem execCrockTimerExpiry_running {s : State} {core bin : Nat} {b : Bin} (hb : s.bin? core bin = some b)
    (he : s.binExpired b = false) : execCrockTimerExpiry core bin s = .next s.settleOps := by
  simp only [execCrockTimerExpiry, event, hb, Option.map_some, Option.getD_some, he, Bool.false_eq_true, if_false]

theorem timersAndWatches : Claim.TimersAndWatches := by
  unfold Claim.TimersAndWatches
  intro s rid core bin v r l p ready who launched here hr hl hs
  have hreached : s.reached l.aux = true ↔ l.aux ≤ s.timebase.toNat ∧ l.aux < 2 ^ 60 := reached_iff s l.aux
  refine ⟨fun he hle hlt => execTimeEventExpiry_reached hr hl hs he (hreached.mpr ⟨hle, hlt⟩),
    fun hd => execTimeEventExpiry_not_reached hr hl (Bool.eq_false_iff.mpr fun h => ?_), fun he hp hv => ?_, fun he hp hv => ?_,
    fun he hp ha hd => execWatchedWordEvaluate_away hr hl hs he hp ha hd, fun b hb he => execCrockTimerExpiry_expired hb he,
    fun b hb he => execCrockTimerExpiry_running hb he⟩
  · obtain ⟨hle, hlt⟩ := hreached.mp h
    omega
  · exact (execWatchedWordEvaluate_here hr hl hp).trans (by rw [evaluateWatch_wakes hr hl hs he hv]; rfl)
  · exact (execWatchedWordEvaluate_here hr hl hp).trans (by rw [evaluateWatch_waits hr hl hs he hv])

/-! ### Room in the fault queue -/

/-- Threads of a context that waited to report do so (R361). -/
def State.retryReports (s : State) (asid : Nat) : State :=
  s.threads.foldl (fun u p => if u.asidOf p.1 = asid then u.retryReport p.1 else u) s

theorem execFaultQueueSpace_eq (asid : Nat) (s : State) :
    execFaultQueueSpace asid s = .next ((State.flushReports asid s.heldReports s).retryReports asid).runDumps.settleOps := rfl

/-- Reports held for other contexts stay held. -/
theorem flushReports_of_others {asid : Nat} {s : State} {l : List HeldReport} (hl : ∀ h ∈ l, h.asid ≠ asid) :
    State.flushReports asid l s = s := by
  induction l with
  | nil => rfl
  | cons h l ih =>
    rw [List.forall_mem_cons] at hl
    simp only [State.flushReports]
    split
    · rfl
    · simpa [hl.1] using ih hl.2

/-- The first report held for a context with room enters its ring before those behind it (R361). -/
theorem flushReports_cons_of_room {asid : Nat} {s : State} {h : HeldReport} {l : List HeldReport} {c : Context}
    (hh : h.asid = asid) (hc : s.ctx? asid = some c) (hroom : s.fqRoom asid c = true) :
    State.flushReports asid (h :: l) s =
      State.flushReports asid l (({ s with heldReports := s.heldReports.erase h } : State).putReport asid c h.entry) := by
  simp only [State.flushReports, hc, hh, hroom, decide_true, Bool.and_self, if_true]

theorem Map.mem_of_look {α : Type} {m : Map α} {x : Nat} {a : α} (h : m.look x = some a) : (x, a) ∈ m := by
  induction m with
  | nil => simp [Map.look] at h
  | cons p m ih =>
    obtain ⟨k, v⟩ := p
    by_cases hk : x = k
    · subst hk
      simp_all [Map.look]
    · exact List.mem_cons_of_mem _ (ih (by simpa [Map.look, hk] using h))

/-- A thread that does not wait to report is left as it is. -/
theorem retryReport_of_quiet {s : State} (hq : ∀ p ∈ s.threads, ∀ e q, p.2.hold ≠ .report e q) (k : Nat) : s.retryReport k = s := by
  unfold State.retryReport
  split
  · rfl
  next t ht =>
    split
    next e q hh => exact absurd hh (hq _ (Map.mem_of_look ht) e q)
    · rfl

theorem retryReports_of_quiet {s : State} (hq : ∀ p ∈ s.threads, ∀ e q, p.2.hold ≠ .report e q) (asid : Nat) :
    s.retryReports asid = s :=
  List.foldlRecOn s.threads _ (motive := fun u => u = s) rfl fun u hu p _ => by
    rw [hu, retryReport_of_quiet hq, ite_self]

section OneThread
variable {s : State} {asid k e : Nat} {t : Thread}

theorem thread?_of_threads_eq (hs : s.threads = [(k, t)]) : s.thread? k = some t := by
  simp [State.thread?, hs, Map.look]

theorem retryReports_one (hs : s.threads = [(k, t)]) (ha : s.asidOf k = asid) : s.retryReports asid = s.retryReport k := by
  simp only [State.retryReports, hs, List.foldl_cons, List.foldl_nil, ha, if_true]

/-- A thread that ends with its report does so once the report is filed (R359, R361). -/
theorem retryReport_ends (ht : s.thread? k = some t) (hh : t.hold = .report e .ends) (ha : s.asidOf k = asid)
    (hc : s.canReport asid = true) : s.retryReport k = (s.fileReport asid e).endThread k := by
  simp only [State.retryReport, ht, hh, ha, hc, Bool.not_true, Bool.false_eq_true, if_false]

/-- A thread that waits for room for its record is held for it from then on, and the fault of its context is reported once (R134). -/
theorem retryReport_holds {cycle : Nat} {q : Option ParkReq} {c : Context} (ht : s.thread? k = some t)
    (hh : t.hold = .report e (.holds cycle q)) (ha : s.asidOf k = asid) (hr : s.canReport asid = true)
    (hc : s.ctx? asid = some c) (hov : c.ovFault = false) :
    s.retryReport k = ((s.updThread k fun t => { t with hold := .overflow cycle q }).updCtx asid
      fun c => { c with ovFault := true }).fileReport asid e := by
  have hctx : (s.updThread k fun t => { t with hold := .overflow cycle q }).ctx? asid = some c := hc
  simp only [State.retryReport, ht, hh, ha, hr, hctx, hov, Bool.not_true, Bool.false_eq_true, if_false, Option.map_some,
    Option.getD_some]

end OneThread

theorem faultQueueDrains : Claim.FaultQueueDrains := by
  unfold Claim.FaultQueueDrains
  intro s asid quiet
  have hexec {u v : State} (hu : State.flushReports asid s.heldReports s = u) (hv : u.retryReports asid = v) :
      exec (.faultQueueSpace asid) s = .next v.runDumps.settleOps := hv ▸ hu ▸ execFaultQueueSpace_eq asid s
  have hnone (h : s.heldReports = []) : State.flushReports asid s.heldReports s = s := by rw [h]; rfl
  refine ⟨fun hothers hq => hexec (flushReports_of_others hothers) (retryReports_of_quiet hq asid), fun h c hs hh hc hroom => ?_,
    fun k t e hs ht hh ha hr => hexec (hnone hs) ?_, fun k t e cycle q c hs ht hh ha hr hc hov => hexec (hnone hs) ?_⟩
  · intro put hq
    have hflush : State.flushReports asid s.heldReports s = put := by
      rw [hs, flushReports_cons_of_room hh hc hroom, hs, List.erase_cons_head]
      rfl
    exact hexec hflush (retryReports_of_quiet hq asid)
  · rw [retryReports_one ht ha, retryReport_ends (thread?_of_threads_eq ht) hh ha hr]
  · rw [retryReports_one ht ha, retryReport_holds (thread?_of_threads_eq ht) hh ha hr hc hov]

/-- Settles O49: each step of a timer or a watched word takes the branch that its condition names, and room in the fault queue lets
held reports in, then threads, then dumps (`execFaultQueueSpace_eq`). -/
theorem timersWatchesAndReports : Obligations.TimersWatchesAndReports := by
  unfold Obligations.TimersWatchesAndReports
  exact ⟨timersAndWatches, faultQueueDrains⟩

end Sys2Proof.Machine
end

section
/-! Accesses of row 0x9 as a thread issues them (R199, R206, R209 to R211, R219): traps, miss-status entries, translation, and the
four ways in which an issue ends. -/

namespace Sys2Proof.Machine

/-! ### Miss-status entries -/

/-- Taking miss-status entries changes nothing else (R209). -/
theorem takeMiss_keeps {β : Type} {get : State → β} (hget : ∀ (u : State) m, get { u with misses := m } = get u)
    (s : State) (core asid cycle key : Nat) (g : GAccess) : get (s.takeMiss core asid cycle key g) = get s := by
  refine foldl_keeps (get := get) (fun u x => ?_) _ _
  split <;> exact hget u _

/-- The core has miss-status entries for one access, or has none in use (R209). -/
def State.missRoom (s : State) (core asid : Nat) (g : GAccess) : Prop :=
  (s.misses.filter fun e => e.core = core) = [] ∨
    (s.misses.filter fun e => e.core = core).length + (s.missNeed core [(asid, g)]).length ≤ 256

theorem Runs.head_eq {i : Instr} {h : Head} {s : State} {k : Nat} {t : Thread} (hr : Runs i h s k t) : i.head = some h :=
  hr.2.1

/-- The one thread that issues an instruction that runs in it is its one participant (R66). -/
theorem participants_of_runs {i : Instr} {h : Head} {s : State} {k : Nat} {t : Thread} (hr : Runs i h s k t) :
    participants i h s = [k] := by
  obtain ⟨⟨hthreads, ht⟩, -, hgate, -, -⟩ := hr
  simp [participants, hthreads, ht, hgate]

/-- With miss-status entries for it, the one thread that issues an access performs or starts it (R209). -/
theorem globalAccess_runs {i : Instr} {h : Head} {s : State} {k : Nat} {t : Thread} {g : GAccess}
    {acc : Head → Thread → Option GAccess} (hr : Runs i h s k t) (hg : acc h t = some g)
    (hroom : s.missRoom (coreOf k) (s.asidOf k) g) : globalAccess i acc s = .next (issueGlobal i g h k t s) := by
  have hfits : (256 < (s.misses.filter fun e => e.core = coreOf k).length + (s.missNeed (coreOf k) [(s.asidOf k, g)]).length &&
      0 < (s.misses.filter fun e => e.core = coreOf k).length) = false := by
    rcases hroom with hnone | hle
    · simp [hnone]
    · simp [Nat.not_lt.mpr hle]
  simp only [globalAccess, hr.head_eq, participants_of_runs hr, List.filterMap_cons, List.filterMap_nil, hr.thread?_eq, hg, Option.map_some,
    List.head?_cons, Option.getD_some, hfits, Bool.false_eq_true, if_false, perLane_runs hr]

/-! ### Translation -/

theorem tlbHas_serial (s : State) (n core asid : Nat) (ps : List (Nat × Nat × Nat)) :
    ({ s with serial := n } : State).tlbHas core asid ps = s.tlbHas core asid ps := rfl

theorem canReport_serial (s : State) (n asid : Nat) : ({ s with serial := n } : State).canReport asid = s.canReport asid := rfl

/-- Serial numbers have no part in translation. -/
theorem translate_serial (s : State) (n core asid : Nat) (a : Access) (ps : List (Nat × Nat × Nat)) :
    ({ s with serial := n } : State).translate core asid a ps = s.translate core asid a ps := by
  induction ps with
  | nil => rfl
  | cons p ps ih => simp only [State.translate, ih]; rfl

/-- Translated pieces have the addresses of the pieces that they translate. -/
theorem translate_va {s : State} {core asid : Nat} {a : Access} {l : List (Nat × Nat × Nat)} {ps : List Piece}
    (h : s.translate core asid a l = .all ps) : ps.map Piece.va = l.map Prod.fst := by
  induction l generalizing ps with
  | nil => cases h; rfl
  | cons p l ih =>
    simp only [State.translate] at h
    split at h
    · cases h
    · split at h
      · cases h
      · split at h
        next qs hq =>
          cases h
          simp [ih hq]
        next hf => exact absurd h (hf _)

/-- Pieces whose translations the TLB of the core holds leave it as it is (R205). -/
theorem fillPieces_of_tlbHas {s u : State} {core asid : Nat} {a : Access} {l : List (Nat × Nat × Nat)} {ps : List Piece}
    (hu : u.cores = s.cores) (hl : s.tlbHas core asid l = true) (hps : s.translate core asid a l = .all ps) :
    u.fillPieces core asid ps = u := by
  have hheld : ∀ p ∈ ps, (u.tlbLook core asid p.va).isSome = true := by
    intro p hp
    have hva : p.va ∈ l.map Prod.fst := translate_va hps ▸ List.mem_map_of_mem hp
    obtain ⟨q, hq, hqva⟩ := List.mem_map.mp hva
    have hlook : u.tlbLook core asid p.va = s.tlbLook core asid p.va := by simp only [State.tlbLook, State.core, hu]
    rw [hlook, ← hqva]
    exact List.all_eq_true.mp hl q hq
  refine List.foldlRecOn ps _ (motive := fun v => v = u) rfl fun v hv p hp => ?_
  rw [hv, if_pos (hheld p hp)]

/-! ### How an access issues -/

/-- An access of row 0x9 as it issues, with its pieces as far as they are translated (R226). -/
def issuedAccess (i : Instr) (h : Head) (s : State) (k : Nat) (t : Thread) (g : GAccess) (ps : List Piece) : Pending :=
  { no := resultNext i h s, who := .thread t.bid t.lin, core := coreOf k, asid := s.asidOf k, launch := s.launchOf k
    wid := resultWid i h s, acc := g, pieces := ps, reply := none, cycle := (s.issuing.map Issue.cycle).getD 0 }

/-- The state in which the thread of an access has gone on, with a miss-status entry for each sector (R129, R209). -/
def sentAccess (i : Instr) (h : Head) (s : State) (k : Nat) (t : Thread) (g : GAccess) : State :=
  ({ sentOff i h s k t with serial := resultNext i h s + 1 } : State).takeMiss (coreOf k) (s.asidOf k)
    ((s.issuing.map Issue.cycle).getD 0) (if resultWid i h s = 0 then resultNext i h s else resultWid i h s) g

/-- An access of a party that is of no pairing is performed, or waits (R226, R368). -/
theorem admitPaired_of_not_paired {s : State} {x : Pending} (hp : s.pairingWho x.who = none) (k : Nat) :
    s.admitPaired k x = s.accept x := by
  simp only [State.admitPaired, hp]

section IssueGlobal
variable {i : Instr} {h : Head} {s : State} {k : Nat} {t : Thread} {g : GAccess}

theorem sentAccess_cores : (sentAccess i h s k t g).cores = s.cores :=
  takeMiss_keeps (get := State.cores) (fun _ _ => rfl) ..

theorem sentAccess_blocks : (sentAccess i h s k t g).blocks = s.blocks :=
  takeMiss_keeps (get := State.blocks) (fun _ _ => rfl) ..

theorem sentAccess_walks : (sentAccess i h s k t g).walks = s.walks :=
  takeMiss_keeps (get := State.walks) (fun _ _ => rfl) ..

/-- An access of a thread whose block is not paired is of no pairing (R368). -/
theorem pairingWho_sentAccess (ht : s.thread? k = some t) (hp : s.pairingOf k = none) :
    (sentAccess i h s k t g).pairingWho (.thread t.bid t.lin) = none := by
  rw [State.pairingWho, sentAccess_blocks]
  simpa only [State.pairingOf, State.blockOf, ht, Option.bind_some, Party.bid] using hp

/-- An access of a thread that is there, whatever the serial number has become. -/
theorem accessOf_serial (ht : s.thread? k = some t) (n : Nat) :
    ({ s with serial := n } : State).accessOf k (resultWid i h s) (resultNext i h s) g = issuedAccess i h s k t g [] := by
  have ht' : ({ s with serial := n } : State).thread? k = some t := ht
  simp only [State.accessOf, ht', Option.map_some, Option.getD_some]
  rfl

/-- An address beyond 2^52, or one that is not aligned, takes the global-address trap (R199, R219). -/
theorem issueGlobal_traps {d : Nat} (hd : gTrap g = some d) : issueGlobal i g h k t s = s.trap k 0x08 d g.va := by
  simp only [issueGlobal, hd]

section Untrapped
variable (hd : gTrap g = none) (ht : s.thread? k = some t)
include hd ht

/-- Without a translation in the TLB of its core, an access waits for a walk (R205, R210). -/
theorem issueGlobal_walks (htlb : s.tlbHas (coreOf k) (s.asidOf k) (piecesOf g.va g.n) = false)
    (hgib : g.va / 2 ^ 30 = (g.va + g.n - 1) / 2 ^ 30) :
    issueGlobal i g h k t s =
      { (sentAccess i h s k t g).updThread k fun t => { t with walk := some (resultNext i h s) } with
        walks := s.walks ++ [⟨k, issuedAccess i h s k t g [], s.logOf i g.va g.b g.c 0, 0⟩] } := by
  have hwalk : (s.tlbHas (coreOf k) (s.asidOf k) (piecesOf g.va g.n) || decide (g.va / 2 ^ 30 ≠ (g.va + g.n - 1) / 2 ^ 30)) = false := by
    rw [htlb, Bool.false_or, decide_eq_false (not_not_intro hgib)]
  rw [← sentAccess_walks (i := i) (h := h) (k := k) (t := t) (g := g)]
  simp only [issueGlobal, hd, newWid_eq, State.fresh, accessOf_serial ht, tlbHas_serial, hwalk, Bool.false_eq_true, if_false]
  rfl

variable (htlb : s.tlbHas (coreOf k) (s.asidOf k) (piecesOf g.va g.n) = true)
include htlb

/-- An access on pages of two tiers takes the tier trap (R206). -/
theorem issueGlobal_straddles {ps : List Piece}
    (hps : s.translate (coreOf k) (s.asidOf k) g.kind (piecesOf g.va g.n) = .all ps) (hst : straddles ps = true) :
    issueGlobal i g h k t s = ({ s with serial := resultNext i h s + 1 } : State).trap k 0x09 0x01 g.va := by
  simp only [issueGlobal, hd, newWid_eq, State.fresh, accessOf_serial ht, tlbHas_serial, translate_serial, htlb, hps, hst,
    Bool.true_or, if_true]

/-- An access that faults is logged under a ticket, and issues again while its report has no room (R211, R361). -/
theorem issueGlobal_faults {va r l e b z : Nat}
    (hf : s.translate (coreOf k) (s.asidOf k) g.kind (piecesOf g.va g.n) = .fault va r l e b z) :
    issueGlobal i g h k t s =
      if s.canReport (s.asidOf k) then
        ((sentAccess i h s k t g).freeMiss (resultNext i h s)).logFault k (resultWid i h s) g.kind (s.logOf i g.va g.b g.c 0)
          va r l e b z 1
      else { s with serial := resultNext i h s + 1 } := by
  simp only [issueGlobal, hd, newWid_eq, State.fresh, accessOf_serial ht, tlbHas_serial, translate_serial, canReport_serial, htlb, hf,
    Bool.true_or, if_true]
  rfl

/-- An access of a block that is not paired is accepted with its pieces (R226). -/
theorem issueGlobal_accepts {ps : List Piece} (hpair : s.pairingOf k = none)
    (hps : s.translate (coreOf k) (s.asidOf k) g.kind (piecesOf g.va g.n) = .all ps) (hst : straddles ps = false) :
    issueGlobal i g h k t s = (sentAccess i h s k t g).accept (issuedAccess i h s k t g ps) := by
  simp only [issueGlobal, hd, newWid_eq, State.fresh, accessOf_serial ht, tlbHas_serial, translate_serial, htlb, hps, hst,
    Bool.true_or, if_true, Bool.false_eq_true, if_false]
  exact (congrArg (State.admitPaired · k (issuedAccess i h s k t g ps)) (fillPieces_of_tlbHas sentAccess_cores htlb hps)).trans
    (admitPaired_of_not_paired (pairingWho_sentAccess ht hpair) k)

end Untrapped

/-- An access within 2^52, and aligned where it has to be, does not trap (R199, R219). -/
theorem gTrap_eq_none (hle : g.va + g.n ≤ 2 ^ 52) (ha : g.kind = .atomic → g.va % g.n = 0) : gTrap g = none := by
  rw [gTrap, if_neg (Nat.not_lt.mpr hle)]
  cases hop : g.op with
  | atom => exact if_pos (ha (by rw [GAccess.kind, hop]))
  | red => exact if_pos (ha (by rw [GAccess.kind, hop]))
  | load => rfl
  | store => rfl
  | fence => rfl

/-- Instructions of row 0x9 that access memory, of one head and with the same modifiers. -/
def row9 (h : Head) (m : ModM) (aop : AtomOp) (rop : RedOp) : List Instr := [.ldg h m, .ldc h m, .stg h m, .atom h m aop, .red h m rop]

theorem opOf_row9 {h : Head} {m : ModM} {aop : AtomOp} {rop : RedOp} {i : Instr} (hi : i ∈ row9 h m aop rop) : opOf i / 16 = 9 := by
  simp only [row9, List.mem_cons, List.not_mem_nil, or_false] at hi
  rcases hi with rfl | rfl | rfl | rfl | rfl
  · exact congrArg (· / 16) (show opOf _ = 0x90 from rfl)
  · exact congrArg (· / 16) (show opOf _ = 0x92 from rfl)
  · exact congrArg (· / 16) (show opOf _ = 0x91 from rfl)
  · exact congrArg (· / 16) (show opOf _ = 0x93 from rfl)
  · exact congrArg (· / 16) (show opOf _ = 0x94 from rfl)

/-- What runs of row 0x9 runs in a block that is not paired (R368). -/
theorem Runs.pairingOf_eq_none {h : Head} {m : ModM} {aop : AtomOp} {rop : RedOp} {i : Instr} {s : State} {k : Nat} {t : Thread}
    (hr : Runs i h s k t) (hi : i ∈ row9 h m aop rop) : s.pairingOf k = none := by
  obtain ⟨-, -, -, hpair, -⟩ := hr
  exact hpair (by simp [pairingMatters, opOf_row9 hi])

/-- With miss-status entries for it, the one thread that issues an access performs or starts it (R209, R215). -/
theorem exec_row9 {m : ModM} {aop : AtomOp} {rop : RedOp} (hi : i ∈ row9 h m aop rop) (hr : Runs i h s k t)
    (hg : gAccessOf i (eaOf h m t) (t.rdB h.b h.ty.regWidth) (t.rd h.c h.ty.regWidth) = some g)
    (hroom : s.missRoom (coreOf k) (s.asidOf k) g) : exec i s = .next (issueGlobal i g h k t s) := by
  simp only [row9, List.mem_cons, List.not_mem_nil, or_false] at hi
  rcases hi with rfl | rfl | rfl | rfl | rfl
  · exact globalAccess_runs (i := .ldg h m) (acc := fun h t => gAccessOf (.ldg h m) (eaOf h m t) 0 0) hr hg hroom
  · exact globalAccess_runs (i := .ldc h m) (acc := fun h t => gAccessOf (.ldc h m) (eaOf h m t) 0 0) hr hg hroom
  · exact globalAccess_runs (i := .stg h m) (acc := fun h t => gAccessOf (.stg h m) (eaOf h m t) (t.rdB h.b h.ty.regWidth) 0) hr hg hroom
  · exact globalAccess_runs (i := .atom h m aop)
      (acc := fun h t => gAccessOf (.atom h m aop) (eaOf h m t) (t.rdB h.b h.ty.regWidth) (t.rd h.c h.ty.regWidth)) hr hg hroom
  · exact globalAccess_runs (i := .red h m rop)
      (acc := fun h t => gAccessOf (.red h m rop) (eaOf h m t) (t.rdB h.b h.ty.regWidth) 0) hr hg hroom

end IssueGlobal

end Sys2Proof.Machine
end

section
/-! Accesses of row 0x9 as they issue and as they are performed (R199, R206, R209, R217 to R221, R225, R229; O38). -/

namespace Sys2Proof.Machine

/-! ### fence and pref -/

/-- A thread that moves on stays the same party (R226). -/
theorem next_party (t : Thread) (len : Nat) : (t.next len).bid = t.bid ∧ (t.next len).lin = t.lin := by
  unfold Thread.next
  split
  · exact ⟨rfl, rfl⟩
  · dsimp only
    split
    · split <;> exact ⟨rfl, rfl⟩
    · exact ⟨rfl, rfl⟩

/-- A thread that moves on stays in its block. -/
theorem blockOf_moved {s : State} {k : Nat} {t : Thread} (ht : s.thread? k = some t) (i : Instr) :
    (moved i s k t).blockOf k = s.blockOf k := by
  have hself : (moved i s k t).thread? k = some (t.next (lenOf i)) := Map.look_ins_self ..
  simp only [State.blockOf, hself, ht, Option.bind_some, (next_party t _).1]
  rfl

/-- fence moves on, and issues like an access (R223). -/
theorem fenceBody_eq {s : State} {k : Nat} {t : Thread} (ht : s.thread? k = some t) (i : Instr) :
    fenceBody i k t s = ({ moved i s k t with serial := s.serial + 1 } : State).accept
      { no := s.serial, who := .thread t.bid t.lin, core := coreOf k, asid := s.asidOf k, launch := s.launchOf k, wid := 0
        acc := ⟨.fence, 0, 0, 0, 0, false, false, 0⟩, pieces := [], reply := none, cycle := (s.issuing.map Issue.cycle).getD 0 } := by
  have hself : (moved i s k t).thread? k = some (t.next (lenOf i)) := Map.look_ins_self ..
  obtain ⟨hbid, hlin⟩ := next_party t (lenOf i)
  have haccess : (moved i s k t).accessOf k 0 s.serial ⟨.fence, 0, 0, 0, 0, false, false, 0⟩ =
      ⟨s.serial, .thread t.bid t.lin, coreOf k, s.asidOf k, s.launchOf k, 0, ⟨.fence, 0, 0, 0, 0, false, false, 0⟩, [], none,
        (s.issuing.map Issue.cycle).getD 0⟩ := by
    simp only [State.accessOf, hself, Option.map_some, Option.getD_some, hbid, hlin, State.asidOf, State.launchOf, blockOf_moved ht]
    rfl
  exact congrArg (State.accept _) haccess

/-! ### Performing an access of this package's or the host's memory -/

/-- An access is performed: without a register result it needs its miss-status entries no longer (R209). -/
def State.ended (s : State) (x : Pending) : State := if x.wid = 0 then s.freeMiss x.no else s

theorem acknowledge_eq_ended {s : State} {x : Pending} (hr : x.reply = none) (data : List Byte) : s.acknowledge x data = s.ended x := by
  unfold State.acknowledge
  rw [hr]
  cases x.who <;> rfl

section Perform
variable {v w y : State} {x : Pending}
  (hfree : (v.blocked x || (x.acc.release && x.wide && v.stashHeld x.who.bid)) = false)
  (hhere : (x.pieces.any fun p => 2 ≤ v.spaceOf p.leaf) = false) (hr : x.reply = none)
include hfree hhere hr

/-- A load brings the bytes at its pieces (R217). -/
theorem tryPerform_load {ty : Ty} (hop : x.acc.op = .load ty) (hw : v.tryTouch x.pieces = some w) :
    v.tryPerform x = some (((w.logPieces x).setIncoming x.wid (loadValue ty (w.piecesValue x))).ended x) := by
  simp only [State.tryPerform, hfree, hhere, hop, hw, Bool.false_eq_true, if_false, Option.map_some, acknowledge_eq_ended hr]

/-- A store writes the bytes of B (R217). -/
theorem tryPerform_store (hop : x.acc.op = .store) (hw : v.tryPieces x x.acc.b = some w) : v.tryPerform x = some (w.ended x) := by
  simp only [State.tryPerform, hfree, hhere, hop, hw, Bool.false_eq_true, if_false, Option.map_some, acknowledge_eq_ended hr]

/-- An atom brings the old value and stores what its operation makes of it (R219). -/
theorem tryPerform_atom {op : AtomOp} {ty : Ty} {r : Nat} {e : Events} (hop : x.acc.op = .atom op ty)
    (hw : v.tryTouch x.pieces = some w) (hc : atomCombine op ty (w.piecesValue x) x.acc.b x.acc.c = (some r, e))
    (hy : w.tryPieces x r = some y) :
    v.tryPerform x = some ((((y.setIncoming x.wid (w.piecesValue x)).countFor x.core x.launch x.acc.tid e).giveOld x.who
      (w.piecesValue x)).ended x) := by
  simp only [State.tryPerform, hfree, hhere, hop, hw, hc, hy, Bool.false_eq_true, if_false, Option.map_some, Option.bind_some,
    acknowledge_eq_ended hr]

/-- An atom whose operation stores nothing brings the old value alone (R219). -/
theorem tryPerform_atom_without_store {op : AtomOp} {ty : Ty} {e : Events} (hop : x.acc.op = .atom op ty)
    (hw : v.tryTouch x.pieces = some w) (hc : atomCombine op ty (w.piecesValue x) x.acc.b x.acc.c = (none, e)) :
    v.tryPerform x = some ((((w.setIncoming x.wid (w.piecesValue x)).countFor x.core x.launch x.acc.tid e).giveOld x.who
      (w.piecesValue x)).ended x) := by
  simp only [State.tryPerform, hfree, hhere, hop, hw, hc, Bool.false_eq_true, if_false, Option.map_some, Option.bind_some,
    acknowledge_eq_ended hr]

/-- A reduction of a page of scope PKG goes into the partial of its core (R325). -/
theorem tryPerform_red_partial {op : RedOp} {ty : Ty} {p : Piece} (hop : x.acc.op = .red op ty) (hp : x.pieces = [p])
    (hscope : p.leaf.scope = 2) (htier : p.leaf.tier ≤ 1) (hpdom : p.leaf.pdom = 0) (hcore : x.core < 192)
    (hw : v.tryRedPartial x op ty p.pa = some w) : v.tryPerform x = some (w.ended x) := by
  rw [hp] at hhere
  simp only [State.tryPerform, hfree, hhere, hop, hp, hscope, htier, hpdom, hcore, hw, decide_true, Bool.and_self, Bool.false_eq_true,
    if_false, if_true, Option.map_some, acknowledge_eq_ended hr]

/-- A reduction of a page of another scope stores its result (R220). -/
theorem tryPerform_red_store {op : RedOp} {ty : Ty} {p : Piece} (hop : x.acc.op = .red op ty) (hp : x.pieces = [p])
    (hscope : p.leaf.scope ≠ 2) (hw : v.tryTouch x.pieces = some w)
    (hy : w.tryPieces x (redCombine op ty (w.piecesValue x) x.acc.b).1 = some y) :
    v.tryPerform x = some ((y.countFor x.core x.launch x.acc.tid (redCombine op ty (w.piecesValue x) x.acc.b).2).ended x) := by
  rw [hp] at hhere hw
  simp only [State.tryPerform, hfree, hhere, hop, hp, decide_eq_false hscope, hw, hy, Bool.false_and, Bool.false_eq_true, if_false,
    Option.map_some, Option.bind_some, acknowledge_eq_ended hr]

end Perform

/-- Settles O38: an access that `ready` describes reaches the one branch of its issue that accepts it (`issueGlobal_accepts`), and a
performed one takes the branch of its operation. -/
theorem globalAccesses : Obligations.GlobalAccesses := by
  unfold Obligations.GlobalAccesses
  intro s k t h m aop rop hbm ps asid core va n b c acquire release access sent issued ready load cload store atom red
  have haccepts {i : Instr} {g : GAccess} (hi : i ∈ row9 h m aop rop) (hg : gAccessOf i va b c = some g) (hva : g.va = va)
      (hn : g.n = n) (ha : g.kind = .atomic → va % n = 0) (hready : ready i g) :
      exec i s = .next ((sentAccess i h s k t g).accept (issuedAccess i h s k t g ps)) := by
    obtain ⟨hr, hle, htlb, hps, hst, hroom⟩ := hready
    have hp : piecesOf g.va g.n = piecesOf va n := by rw [hva, hn]
    have hd : gTrap g = none := gTrap_eq_none (by rw [hva, hn]; exact hle) (by rw [hva, hn]; exact ha)
    rw [exec_row9 hi hr hg hroom, issueGlobal_accepts hd hr.thread?_eq (hp ▸ htlb) (hr.pairingOf_eq_none hi) (hp ▸ hps) hst]
  refine ⟨fun hready => ?_, fun hready => ?_, fun hready => ?_, fun hready ha => ?_, fun hready ha => ?_, fun hr => ?_,
    fun hr => ?_, ?_⟩
  · exact haccepts (by simp [row9]) rfl rfl rfl nofun hready
  · exact haccepts (by simp [row9]) rfl rfl rfl nofun hready
  · exact haccepts (by simp [row9]) rfl rfl rfl nofun hready
  · exact haccepts (by simp [row9]) rfl rfl rfl (fun _ => ha) hready
  · exact haccepts (by simp [row9]) rfl rfl rfl (fun _ => ha) hready
  · exact (perLane_runs hr _).trans (congrArg _ (fenceBody_eq hr.thread?_eq _))
  · exact perLane_runs hr _
  · intro v w y x hr hb hh hs ended old
    have hfree : (v.blocked x || (x.acc.release && x.wide && v.stashHeld x.who.bid)) = false := by rw [hb, hh, Bool.and_false]; rfl
    have hhere : (x.pieces.any fun p => 2 ≤ v.spaceOf p.leaf) = false := by simpa using hs
    exact ⟨fun _ => tryPerform_load hfree hhere hr, tryPerform_store hfree hhere hr, fun _ _ _ _ => tryPerform_atom hfree hhere hr,
      fun _ _ _ => tryPerform_atom_without_store hfree hhere hr, fun _ _ _ => tryPerform_red_partial hfree hhere hr,
      fun _ _ _ => tryPerform_red_store hfree hhere hr⟩

end Sys2Proof.Machine
end

section
/-! Where accesses of row 0x9 trap, fault or wait for a walk, and how walks end (R199, R205, R206, R210, R211, R219; O39). -/

namespace Sys2Proof.Machine

/-- The access of an instruction of row 0x9 is at its effective address, as wide as its type (R215). -/
theorem gAccessOf_row9 {i : Instr} {h : Head} {m : ModM} {aop : AtomOp} {rop : RedOp} {va b c : Nat} {g : GAccess}
    (hi : i ∈ row9 h m aop rop) (hg : gAccessOf i va b c = some g) : g.va = va ∧ g.n = tyBytes h.ty := by
  simp only [row9, List.mem_cons, List.not_mem_nil, or_false] at hi
  rcases hi with rfl | rfl | rfl | rfl | rfl <;> cases hg <;> exact ⟨rfl, rfl⟩

/-- An access beyond 2^52 traps with detail 0x01 (R199). -/
theorem gTrap_of_beyond {g : GAccess} (hlt : 2 ^ 52 < g.va + g.n) : gTrap g = some 0x01 := if_pos hlt

/-- An atom or reduction that is not aligned traps with detail 0x02 (R219). -/
theorem gTrap_of_unaligned {i : Instr} {h : Head} {m : ModM} {aop : AtomOp} {rop : RedOp} {va b c : Nat} {g : GAccess}
    (hi : i ∈ [Instr.atom h m aop, .red h m rop]) (hg : gAccessOf i va b c = some g) (hle : g.va + g.n ≤ 2 ^ 52)
    (hmod : g.va % g.n ≠ 0) : gTrap g = some 0x02 := by
  rw [gTrap, if_neg (Nat.not_lt.mpr hle)]
  simp only [List.mem_cons, List.not_mem_nil, or_false] at hi
  rcases hi with rfl | rfl <;> cases hg <;> exact if_neg hmod

theorem globalTraps : Claim.GlobalTrapsAndWalks := by
  unfold Claim.GlobalTrapsAndWalks
  intro s k t h m aop rop i g asid core va pieces log wid no cycle x sent hi hr hg hmiss
  obtain ⟨hva, hn⟩ : g.va = va ∧ g.n = tyBytes h.ty := gAccessOf_row9 hi hg
  have hpieces : piecesOf g.va g.n = pieces := by rw [hva, hn]
  have hlog : s.logOf i g.va g.b g.c 0 = log := by rw [hva]; rfl
  have hissue {u : State} (hu : issueGlobal i g h k t s = u) : exec i s = .next u := hu ▸ exec_row9 hi hr hg (.inl hmiss)
  have ht := hr.thread?_eq
  rw [← hva, ← hpieces, ← hlog]
  refine ⟨fun hlt => hissue (issueGlobal_traps (gTrap_of_beyond hlt)),
    fun hle hat hmod => hissue (issueGlobal_traps (gTrap_of_unaligned hat hg hle hmod)),
    fun hd => ⟨fun htlb hgib => hissue (issueGlobal_walks hd ht htlb hgib),
      fun ps htlb hps hst => hissue (issueGlobal_straddles hd ht htlb hps hst),
      fun fa r l e b z htlb hf => ⟨fun hc => hissue ?_, fun hc => hissue ?_⟩⟩⟩
  · exact (issueGlobal_faults hd ht htlb hf).trans (if_pos hc)
  · exact (issueGlobal_faults hd ht htlb hf).trans (if_neg (Bool.not_eq_true _ ▸ hc))

/-! ### How walks end -/

section Walks
variable {s : State} {w : Walk} {cycle waiters : Nat}

/-- A walk that is not under way ends nothing. -/
theorem execWalkComplete_of_none {no : Nat} (hw : (s.walks.find? fun y => y.x.no = no) = none) :
    execWalkComplete no s = .next s.settleOps := by
  simp only [execWalkComplete, event, hw]

/-- One whose report would have no room, or that is not among those that run, does not end yet (R205, R361). -/
theorem execWalkComplete_later {no : Nat} (hw : (s.walks.find? fun y => y.x.no = no) = some w)
    (hlater : s.canReport w.x.asid = false ∨ s.walkRuns w = false) : execWalkComplete no s = .next s.settleOps := by
  have hstop : (!(s.canReport w.x.asid) || !(s.walkRuns w)) = true := by
    rcases hlater with h | h <;> simp [h]
  simp only [execWalkComplete, event, hw, hstop, if_true]

/-- A walk that runs and that no other access shares ends for its own. -/
theorem execWalkComplete_ends {no : Nat} (hw : (s.walks.find? fun y => y.x.no = no) = some w) (hc : s.canReport w.x.asid = true)
    (hruns : s.walkRuns w = true) (hown : (s.walks.filter fun y => s.sharesWalk y w) = [w]) :
    execWalkComplete no s = .next
      ((({ s with serial := s.serial + 1 } : State).endWalk w s.serial (s.walkWaiters [w] w)).settleCycle s.serial).settleOps := by
  simp only [execWalkComplete, event, hw, hc, hruns, hown, Bool.not_true, Bool.or_self, Bool.false_eq_true, if_false, List.map_cons,
    List.map_nil, List.foldl_cons, List.foldl_nil, State.fresh]

/-- The state once a walk is over, with the walker's cache holding what it found (R205). -/
def State.walkOver (s : State) (w : Walk) : State :=
  (piecesOf w.x.acc.va w.x.acc.n).foldl (fun (u : State) p => u.walkFill (dieOf w.x.core) w.x.asid p.1)
    { s with walks := s.walks.filter fun y => y.x.no ≠ w.x.no }

variable (hticket : w.ticket = 0) (hfor : s.walksFor w = true)
include hticket hfor

/-- A walk that finds a page for each piece performs its access (R206, R210). -/
theorem endWalk_all {ps : List Piece} (hps : s.walkPieces w = .all ps) (hst : straddles ps = false) :
    s.endWalk w cycle waiters =
      (((s.walkOver w).fillPieces w.x.core w.x.asid ps).updThread w.thread fun t => { t with walk := none }).admitPaired w.thread
        { w.x with pieces := ps } := by
  simp only [State.endWalk, hps, hst, hticket, hfor, ne_eq, not_true_eq_false, Bool.false_eq_true, if_false, if_true]
  rfl

/-- One that ends in a fault is logged under a ticket, and its thread parks where it can (R211). -/
theorem endWalk_fault {va r l e b z : Nat} (hf : s.walkPieces w = .fault va r l e b z) :
    s.endWalk w cycle waiters = (((s.walkOver w).freeMiss w.x.no).logFault w.thread w.x.wid w.x.acc.kind w.log va r l e b z
      waiters).settleAsync w.thread cycle := by
  simp only [State.endWalk, hf, hticket, hfor, ne_eq, not_true_eq_false, if_false, if_true]
  rfl

end Walks

theorem walksEnd : Claim.WalksEnd := by
  unfold Claim.WalksEnd
  intro s w no x ends n done free
  refine ⟨execWalkComplete_of_none, execWalkComplete_later, fun ⟨hw, hc, hruns, hown⟩ hticket hfor => ?_⟩
  have hexec {u : State} (hu : n.endWalk w s.serial (s.walkWaiters [w] w) = u) :
      exec (.walkComplete x.no) s = .next (u.settleCycle s.serial).settleOps := hu ▸ execWalkComplete_ends hw hc hruns hown
  exact ⟨fun ps hps hst => hexec (endWalk_all hticket hfor hps hst), fun va r l e b z hf => hexec (endWalk_fault hticket hfor hf)⟩

/-- Settles O39: an access at its issue, and a walk at its end, take the branch that the translation of its pieces names. -/
theorem globalTrapsAndWalks : Obligations.GlobalTrapsAndWalks := by
  unfold Obligations.GlobalTrapsAndWalks
  exact ⟨globalTraps, walksEnd⟩

end Sys2Proof.Machine
end

section
/-! A read of the host that sees a write which memory does not hold (R228, R368, R396; O50). -/

namespace Sys2Proof.Machine

/-- A write of byte 1 at physical address 0, of the host, that is not performed. -/
def unperformedHostWrite : Pending :=
  { no := 0, who := .host, core := 192, asid := 0, launch := 0, wid := 0, acc := ⟨.store, 0, 1, 1, 0, false, false, 0⟩
    pieces := [⟨0, 0, 1, ⟨0, 0, 0, 0⟩, 0⟩], reply := none, cycle := 0 }

/-- The machine after reset, but with a paired block under number 0, which holds that write. `Party.bid` gives the host that number
too, so the writes that `State.ownWrites` finds for the host are those that this block holds. -/
def holdsHostWrite : State :=
  { State.reset with blocks := [(0, { Block.blank with pairing := some ⟨0, true, 0, [unperformedHostWrite], 0⟩ })] }

/-- The host reads the byte that the block holds, where memory holds 0. -/
theorem exec_hostBar2Read_holdsHostWrite :
    exec (.hostBar2Read 0 1) holdsHostWrite =
      .next { holdsHostWrite with serial := 2, outbox := [.hostReply (some [1])] } := rfl

/-- Refutes O50: `holdsHostWrite` meets every hypothesis of `Claim.HostAndPeerAccesses`, and yet a host read of address 0 is answered with
byte 1 instead of the byte 0 of memory. The claim does not ask that no paired block holds a write of the host, and a read takes the bytes
of such a write as well (R228). -/
theorem not_invalidationsAndHostAccesses : ¬ Obligations.InvalidationsAndHostAccesses := by
  unfold Obligations.InvalidationsAndHostAccesses Claim.HostAndPeerAccesses
  rintro ⟨-, hclaim⟩
  have hstash : ∀ b ∈ holdsHostWrite.blocks, ∀ a ∈ b.2.allocs, a.stash = none := by decide
  have hall : ∀ x, 0 ≤ x → x < 0 + 1 → populated x = true := by
    intro x _ hx
    obtain rfl : x = 0 := by omega
    rfl
  obtain ⟨hnopeers, -⟩ := hclaim holdsHostWrite holdsHostWrite 0 1 0 0 0 [] [] rfl hstash rfl rfl rfl rfl rfl rfl rfl rfl
  obtain ⟨hread, -⟩ := hnopeers rfl
  have hstate := Host.Outcome.next.inj (exec_hostBar2Read_holdsHostWrite.symm.trans (hread hall))
  exact absurd (congrArg State.outbox hstate) (by decide)

end Sys2Proof.Machine
end

section
/-! A store that nothing delays, from its issue to the bytes of memory (R161, R226, R229, R233, R299; O40). -/

namespace Sys2Proof.Machine

/-! ### A state that delays no store without a persist domain -/

/-- Nothing stands between a store without a persist domain and memory: no stash line or partial sum that it would recall (R161,
R233), no capture or held stack (R299, R375, R377), and no access that it would come after (R225, R229). -/
structure State.Unobstructed (s : State) : Prop where
  captures : s.captures = []
  partials : s.partials = []
  stashBound : s.stashBound = []
  ops : s.ops = []
  peers : s.peers = []
  walks : s.walks = []
  selfRefresh : s.selfRefresh = []
  hbmcfgNext : s.regs.hbmcfgNext = none

/-- Without a stash-mapped allocation, one that has ended among them, no line is bound to a global address (R160, R162). -/
theorem stashBound_eq_nil {s : State} (halloc : ∀ b ∈ s.blocks, ∀ a ∈ b.2.allocs, a.stash = none)
    (hfreed : ∀ f ∈ s.freed, f.stash = none) : s.stashBound = [] := by
  simp only [State.stashBound, List.append_eq_nil_iff, List.flatMap_eq_nil_iff]
  exact ⟨fun b hb a ha => by simp only [halloc b hb a ha], fun f hf => by simp only [hfreed f hf]⟩

/-- HBM and the storage-class tier are this package's own memory (R200, R202). -/
theorem spaceOf_of_tier_le_one {l : Leaf} (hl : l.tier ≤ 1) (s : State) : s.spaceOf l = 0 := by
  have hhost : l.tier ≠ 3 := by omega
  have hpeer : l.tier ≠ 2 := by omega
  simp [State.spaceOf, hhost, hpeer]

/-- Steps that leave a state as it is leave it so one after another. -/
theorem tryAll_of_keeps {α : Type} {f : α → State → Option State} {s : State} (hf : ∀ x, f x s = some s) (l : List α) :
    tryAll f l s = some s := by
  induction l with
  | nil => rfl
  | cons x l ih => rw [tryAll, hf, Option.bind_some, ih]

namespace State.Unobstructed
variable {s : State} (hs : s.Unobstructed)
include hs

/-- A write of a line has nothing to merge or to recall (R161, R233). -/
theorem tryRecallWrite_eq (space pa : Nat) (but : Option Nat) : s.tryRecallWrite space pa but = some s := by
  have hmerge : s.tryMerge pa = some s := by simp [State.tryMerge, hs.partials]
  have hlines : s.stashAt space pa = [] := by simp [State.stashAt, hs.stashBound]
  have hanswered : s.backOnWay space pa = false := by simp [State.backOnWay, hs.peers]
  simp [State.tryRecallWrite, hmerge, hlines, hanswered, tryAll]

/-- The bytes of a write without a persist domain take their place in memory (R226). -/
theorem tryWrite_eq (who : Party) (no die pa : Nat) (bs : List Byte) : s.tryWrite who no die pa bs 0 = some (s.performed pa bs) := by
  have hstack : s.stackHeld pa = false := by simp [State.stackHeld, hs.selfRefresh, hs.hbmcfgNext]
  have hcapture : s.underCapture pa = false := by simp [State.underCapture, hs.captures]
  simp [State.tryWrite, hstack, hcapture]

/-- A store to HBM or to the storage-class tier, of persist domain 0, is performed. -/
theorem tryStore_eq {l : Leaf} (htier : l.tier ≤ 1) (hpdom : l.pdom = 0) (who : Party) (no die asid bid pa : Nat) (bs : List Byte)
    (use : PeerUse) : s.tryStore who no die asid bid pa l bs use = some (s.performed pa bs) := by
  rw [State.tryStore, tryAll_of_keeps fun a => hs.tryRecallWrite_eq (s.spaceOf l) a none, Option.bind_some, State.tryLeafWrite,
    spaceOf_of_tier_le_one htier, hpdom]
  exact hs.tryWrite_eq ..

/-- No access has to wait for an earlier one (R225, R229). -/
theorem blocked_eq_false (x : Pending) : s.blocked x = false := by
  simp [State.blocked, State.atPeers, hs.ops, hs.peers, hs.walks]

/-- No write-back of a stash line is to come (R162). -/
theorem dirtyOf_eq_nil (bid : Nat) : s.dirtyOf bid = [] := by
  simp [State.dirtyOf, State.dirtyAmong, hs.stashBound]

theorem releaseOf_eq (x : Pending) : s.releaseOf x = s := by
  simp [State.releaseOf, State.releaseStash, State.flushSome, hs.dirtyOf_eq_nil]

theorem stashHeld_eq_false (bid : Nat) : s.stashHeld bid = false := by
  simp [State.stashHeld, hs.dirtyOf_eq_nil, hs.peers]

/-- A store in one piece is performed at once (R207, R226), and frees its miss-status entries (R209). -/
theorem accept_store {x : Pending} {va n pa : Nat} {l : Leaf} (hop : x.acc.op = .store) (hp : x.pieces = [⟨va, 0, n, l, pa⟩])
    (hwid : x.wid = 0) (hr : x.reply = none) (htier : l.tier ≤ 1) (hpdom : l.pdom = 0) :
    s.accept x = (s.performed pa (toBytes n x.acc.b)).freeMiss x.no := by
  have hfree : (s.blocked x || (x.acc.release && x.wide && s.stashHeld x.who.bid)) = false := by
    rw [hs.blocked_eq_false, hs.stashHeld_eq_false, Bool.and_false, Bool.or_false]
  have hhere : (x.pieces.any fun p => 2 ≤ s.spaceOf p.leaf) = false := by simp [hp, spaceOf_of_tier_le_one htier]
  have hstore : s.tryPieces x x.acc.b = some (s.performed pa (toBytes n x.acc.b)) := by
    rw [State.tryPieces, hp, tryAll, hs.tryStore_eq htier hpdom, Nat.mul_zero, Nat.pow_zero, Nat.div_one]
    rfl
  simp only [State.accept, hs.releaseOf_eq, tryPerform_store hfree hhere hr hop hstore, State.ended, hwid, if_true]

end State.Unobstructed

/-! ### A store as it issues -/

/-- Miss-status entries are all that taking some changes (R209). -/
theorem takeMiss_eq (s : State) (core asid cycle key : Nat) (g : GAccess) :
    s.takeMiss core asid cycle key g = { s with misses := (s.takeMiss core asid cycle key g).misses } :=
  congrArg (fun u : State => { u with misses := (s.takeMiss core asid cycle key g).misses })
    (takeMiss_keeps (get := fun u => { u with misses := [] }) (fun _ _ => rfl) s core asid cycle key g)

/-- What an opcode accepts is looked up by it, under the X and the types that the fields encode (R28, R30). -/
theorem attr_eq_attrOf {i : Instr} {op x m : Nat} {h : Head} (hi : i.parts = some (op, x, m, h)) :
    ∃ x' ty ty2, i.attr = attrOf op x' ty ty2 := by
  simp only [Instr.attr, Instr.raw, hi]
  exact ⟨_, _, _, rfl⟩

/-- A store has no destination D (R217). -/
theorem destWidth_stg (h : Head) (m : ModM) : destWidth (.stg h m) = 0 := by
  obtain ⟨x, ty, ty2, hattr⟩ := attr_eq_attrOf (i := .stg h m) rfl
  rw [destWidth, hattr]
  rfl

/-- The access of a thread's store (R215 to R217). -/
def storeAccess (h : Head) (m : ModM) (t : Thread) : GAccess :=
  ⟨.store, eaOf h m t, tyBytes h.ty, t.rdB h.b h.ty.regWidth, 0, false, ordReleases m.ord, m.tid⟩

theorem gAccessOf_stg (h : Head) (m : ModM) (t : Thread) :
    gAccessOf (.stg h m) (eaOf h m t) (t.rdB h.b h.ty.regWidth) (t.rd h.c h.ty.regWidth) = some (storeAccess h m t) := rfl

/-- A store that issues writes no register: its thread has gone on, and its miss-status entries are taken (R209). -/
theorem sentAccess_stg (h : Head) (m : ModM) (s : State) (k : Nat) (t : Thread) (g : GAccess) :
    ∃ misses, sentAccess (.stg h m) h s k t g =
      { s.setThread k (t.sendOff (.stg h m) h 0) with serial := s.serial + 1, misses } := by
  have hwid : resultWid (.stg h m) h s = 0 := if_pos (.inl (destWidth_stg h m))
  have hnext : resultNext (.stg h m) h s = s.serial := if_pos (.inl (destWidth_stg h m))
  rw [sentAccess, takeMiss_eq, sentOff, hwid, hnext]
  exact ⟨_, rfl⟩

/-- Bytes that lie in one granule are one piece (R208). -/
theorem piecesOf_of_one_granule {va n : Nat} (h : va % 32 + n ≤ 32) : piecesOf va n = [(va, 0, n)] :=
  if_pos (by omega)

/-- Once a store that nothing delays has issued, its thread has gone on and its bytes are in memory. Beside these only the serial
number, the miss-status entries and the words that no code corrects differ. -/
theorem exec_stg_of_unobstructed {s : State} {k va pa : Nat} {t : Thread} {h : Head} {m : ModM} {l : Leaf}
    (hr : Runs (.stg h m) h s k t) (hs : s.Unobstructed) (hva : eaOf h m t = va) (hle : va + tyBytes h.ty ≤ 2 ^ 52)
    (hgranule : va % 32 + tyBytes h.ty ≤ 32) (htlb : s.tlbHas (coreOf k) (s.asidOf k) [(va, 0, tyBytes h.ty)] = true)
    (hps : s.translate (coreOf k) (s.asidOf k) .store [(va, 0, tyBytes h.ty)] = .all [⟨va, 0, tyBytes h.ty, l, pa⟩])
    (htier : l.tier ≤ 1) (hpdom : l.pdom = 0) (hmiss : (s.misses.filter fun e => e.core = coreOf k) = []) :
    ∃ misses poison, exec (.stg h m) s = .next
      { s.setThread k (t.sendOff (.stg h m) h 0) with
        memory := putBytes s.memory pa (toBytes (tyBytes h.ty) (t.rdB h.b h.ty.regWidth)), serial := s.serial + 1, misses, poison } := by
  subst hva
  have hrow : Instr.stg h m ∈ row9 h m (.red .add) .add := by simp [row9]
  have hd : gTrap (storeAccess h m t) = none := gTrap_eq_none hle nofun
  have hwid : resultWid (.stg h m) h s = 0 := if_pos (.inl (destWidth_stg h m))
  rw [← piecesOf_of_one_granule hgranule] at htlb hps
  obtain ⟨misses, hsent⟩ := sentAccess_stg h m s k t (storeAccess h m t)
  have hclear : (sentAccess (.stg h m) h s k t (storeAccess h m t)).Unobstructed := by
    rw [hsent]
    exact { hs with }
  rw [exec_row9 hrow hr (gAccessOf_stg h m t) (.inl hmiss),
    issueGlobal_accepts hd hr.thread?_eq htlb (hr.pairingOf_eq_none hrow) hps rfl, hclear.accept_store rfl rfl hwid rfl htier hpdom, hsent]
  exact ⟨_, _, rfl⟩

/-- Settles O40: nothing delays the store (`State.Unobstructed`), so its bytes are in memory when its thread has gone on
(`exec_stg_of_unobstructed`), where they are read back (`bytesAt_putBytes_self`). -/
theorem storesReachMemory : Obligations.StoresReachMemory := by
  unfold Obligations.StoresReachMemory
  intro s k t h m l asid va n pa hr hle hgranule htlb hps htier hpdom hcaptures hpartials halloc hfreed hops hpeers hwalks hmiss
    hrefresh hhbmcfg
  have hs : s.Unobstructed :=
    ⟨hcaptures, hpartials, stashBound_eq_nil halloc hfreed, hops, hpeers, hwalks, hrefresh, hhbmcfg⟩
  obtain ⟨misses, poison, hexec⟩ := exec_stg_of_unobstructed hr hs rfl hle hgranule htlb hps htier hpdom hmiss
  have hlen : (toBytes n (t.rdB h.b h.ty.regWidth)).length = n := length_toBytes ..
  refine ⟨_, hexec, rfl, fun hwf => ⟨?_, fun x hx => ?_⟩, rfl, rfl, rfl, rfl, rfl, fun j hj => ?_, ?_⟩
  · simpa only [hlen] using bytesAt_putBytes_self hwf pa (toBytes n (t.rdB h.b h.ty.regWidth))
  · exact byteAt_putBytes_ne s.memory pa _ x (hlen.symm ▸ hx)
  · exact Map.look_ins_ne _ k j _ hj
  · exact Map.look_ins_self ..

end Sys2Proof.Machine
end

section
/-! Requests that threads hand to the engines (R162, R245, R250, R251, R255 to R257, R327, R328, R334; O41). -/

namespace Sys2Proof.Machine

/-! ### A trap writes no record (R357 to R362) -/

/-- Where an attempt succeeds, it leaves the records as they are in a state. -/
def KeepsRecords (s : State) (o : Option State) : Prop := ∀ u, o = some u → u.records = s.records

theorem KeepsRecords.some {s u : State} (hu : u.records = s.records) : KeepsRecords s (some u) := fun _ h => Option.some.inj h ▸ hu

theorem KeepsRecords.none {s : State} : KeepsRecords s none := nofun

theorem KeepsRecords.ite {s : State} {c : Prop} {_ : Decidable c} {o p : Option State} (ho : KeepsRecords s o) (hp : KeepsRecords s p) :
    KeepsRecords s (if c then o else p) := by
  split <;> assumption

theorem KeepsRecords.bind {s : State} {o : Option State} {f : State → Option State} (ho : KeepsRecords s o)
    (hf : ∀ u, KeepsRecords u (f u)) : KeepsRecords s (o.bind f) := fun v hv => by
  obtain ⟨u, hu, hfu⟩ := Option.bind_eq_some_iff.mp hv
  exact (hf u v hfu).trans (ho u hu)

theorem KeepsRecords.map {s : State} {o : Option State} {f : State → State} (ho : KeepsRecords s o)
    (hf : ∀ u, (f u).records = u.records) : KeepsRecords s (o.map f) := fun v hv => by
  obtain ⟨u, hu, hfu⟩ := Option.map_eq_some_iff.mp hv
  exact hfu ▸ (hf u).trans (ho u hu)

theorem KeepsRecords.tryAll {α : Type} {f : α → State → Option State} (hf : ∀ x u, KeepsRecords u (f x u)) (l : List α)
    (s : State) : KeepsRecords s (tryAll f l s) := by
  induction l generalizing s with
  | nil => exact .some rfl
  | cons x l ih => exact .bind (hf x s) ih

theorem countFor_records (s : State) (core launch tid : Nat) (e : Events) : (s.countFor core launch tid e).records = s.records := by
  unfold State.countFor
  split <;> rfl

theorem partialToDie_records (s : State) (p : Partial) : (s.partialToDie p).records = s.records := by
  simp only [State.partialToDie]
  split
  · rfl
  · exact countFor_records ..

theorem partialToLine_records (s : State) (p : Partial) : (s.partialToLine p).records = s.records := by
  refine foldl_keeps (get := State.records) (fun u v => ?_) _ _
  exact countFor_records ..

theorem tryMerge_records {s : State} {pa : Nat} : KeepsRecords s (s.tryMerge pa) := by
  refine .ite (.ite .none (.some ?_)) (.some rfl)
  refine (foldl_keeps (get := State.records) (fun u c => ?_) _ _).trans (foldl_keeps (get := State.records) (fun u c => ?_) _ _)
  · split
    · exact partialToLine_records ..
    · rfl
  · split
    · exact partialToDie_records ..
    · rfl

theorem tryWrite_records {s : State} {who : Party} {no die pa : Nat} {bs : List Byte} {pdom : Nat} :
    KeepsRecords s (s.tryWrite who no die pa bs pdom) :=
  .ite .none (.ite (.some rfl) (.ite .none (.ite (.ite (.some rfl) .none) (.ite (.some rfl) .none))))

theorem tryLeafWrite_records {s : State} {who : Party} {no die asid bid pa : Nat} {l : Leaf} {bs : List Byte} {use : PeerUse} :
    KeepsRecords s (s.tryLeafWrite who no die asid bid pa l bs use) := by
  unfold State.tryLeafWrite
  split
  · exact tryWrite_records
  · exact .some rfl
  · exact .some (askPeer_records ..)

theorem tryWriteBack_records {s : State} {l : StashLine} : KeepsRecords s (s.tryWriteBack l) :=
  .ite (.map (tryLeafWrite_records) fun _ => rfl) (.some rfl)

theorem tryRecallWrite_records {s : State} {space pa : Nat} {but : Option Nat} : KeepsRecords s (s.tryRecallWrite space pa but) := by
  refine .bind (.bind (.ite tryMerge_records (.some rfl)) fun u => ?_) fun u => .ite .none (.some rfl)
  refine .tryAll (fun l v => ?_) _ _
  exact .map tryWriteBack_records fun _ => rfl

theorem tryStore_records {s : State} {who : Party} {no die asid bid pa : Nat} {l : Leaf} {bs : List Byte} {use : PeerUse} :
    KeepsRecords s (s.tryStore who no die asid bid pa l bs use) :=
  .bind (.tryAll (fun _ _ => tryRecallWrite_records) _ _) fun _ => tryLeafWrite_records

theorem hubStore_records (s : State) (asid va pa : Nat) (l : Leaf) (bs : List Byte) : (s.hubStore asid va pa l bs).records = s.records := by
  refine foldl_keeps (get := State.records) (fun u g => ?_) _ _
  have htry : KeepsRecords u.fresh.2 (if (u.fresh.2.opsOf .hub).isEmpty
      then u.fresh.2.tryStore .hub u.fresh.1 (hubDie g.1) asid 0 g.1 l g.2 (.written 0 va) else none) := .ite tryStore_records .none
  dsimp only
  split
  next v hv => exact htry v hv
  · rfl

theorem ctxStore_records (s : State) (asid va : Nat) (bs : List Byte) : (s.ctxStore asid va bs).records = s.records := by
  unfold State.ctxStore
  split
  · rfl
  · exact hubStore_records ..

theorem putReport_records (s : State) (asid : Nat) (c : Context) (entry : Nat) : (s.putReport asid c entry).records = s.records := by
  have hput (u : State) (pa n v : Nat) : (u.hubPut asid pa n v).records = u.records := hubStore_records ..
  simp only [State.putReport]
  split
  · exact (send_records _ _).trans ((hput ..).trans (ctxStore_records ..))
  · exact (hput ..).trans (ctxStore_records ..)

theorem fileReport_records (s : State) (asid entry : Nat) : (s.fileReport asid entry).records = s.records := by
  unfold State.fileReport
  split
  · rfl
  · split
    · exact putReport_records ..
    · rfl

theorem endThread_records (s : State) (k : Nat) : (s.endThread k).records = s.records := by
  unfold State.endThread
  split
  · rfl
  · refine (State.leaveSlot_records ..).trans (foldl_keeps (get := State.records) (fun u i => ?_) _ _)
    rfl

theorem unhandled_records (s : State) (k tcause tinfo word : Nat) : (s.unhandled k tcause tinfo word).records = s.records := by
  simp only [State.unhandled]
  split
  · rfl
  · split
    · exact (endThread_records ..).trans (fileReport_records ..)
    · rfl

theorem trap_records (s : State) (k cause detail info : Nat) : (s.trap k cause detail info).records = s.records := by
  simp only [State.trap, State.trapWith]
  split
  · rfl
  · split
    · exact unhandled_records ..
    · rfl

/-! ### Requests that lie in the larder (R157, R160, R255) -/

/-- The line of a request at a larder address can be read: it is no stash line, or is present. -/
def State.lineHere (s : State) (b : Block) (ea : Nat) : Prop :=
  ∀ a, b.allocAt ea = some a → a.stash = none ∨ (s.line (a.lineAt b.core ea)).present = true

theorem waitBlock_of_lineHere {s : State} {b : Block} {ea : Nat} (hl : s.lineHere b ea) (k : Nat) (wait : State → State)
    (lost : Nat → State → State) : s.waitBlock k b ea wait lost = none := by
  unfold State.waitBlock
  split
  · rfl
  next a ha => exact if_pos (by simpa using hl a ha)

/-! ### copy (R245, R255, R256) -/

section Copy
variable {s : State} {k ea keep : Nat} {t : Thread} {b : Block} {st : Stage} {i : Instr} {h : Head}
  (hb : s.blockOf k = some b) (ht : s.thread? k = some t) (htrap : s.blockTrap b ea 64 = none)
include hb ht htrap

theorem kickCopy_engine_full (hfull : 64 ≤ s.engineLoad b.core) :
    s.kickCopy k st i h ea keep = s.parkOn k (eventKey 0x7 0) keep (st.log s i ea 0) := by
  simp only [State.kickCopy, hb, ht, htrap, hfull, if_true]

variable (hroom : s.engineLoad b.core < 64) (hl : s.lineHere b ea)
include hroom hl

theorem kickCopy_bad_request {d : Nat} (hd : s.reqTrap b.asid (s.blockBits b ea 64) = some d) :
    s.kickCopy k st i h ea keep = s.stageTrap k st 0x0A d ea := by
  simp only [State.kickCopy, hb, ht, htrap, Nat.not_le.mpr hroom, State.waitParked, waitBlock_of_lineHere hl, hd, if_false]

/-- A request with nothing wrong is a release: it waits for the write-backs of its block, and is then accepted (R162, R245). -/
theorem kickCopy_request (hd : s.reqTrap b.asid (s.blockBits b ea 64) = none) :
    s.kickCopy k st i h ea keep =
      if (s.releaseStash t.bid).stashHeld t.bid then (s.releaseStash t.bid).retryStage k st
      else ((((s.releaseStash t.bid).advance k st i h).2.signRequest k (toBytes 64 (s.blockBits b ea 64))).acceptCopy b.core b.asid t.bid
        b.launch ea (s.blockBits b ea 64)) := by
  simp only [State.kickCopy, hb, ht, htrap, Nat.not_le.mpr hroom, State.waitParked, waitBlock_of_lineHere hl, hd, if_false]

end Copy

/-! ### enq (R250, R251, R255, R256) -/

section Enq
variable {s : State} {k keep ea sel p : Nat} {t : Thread} {b : Block} {st : Stage} {i : Instr} {h : Head} {log : OpLog}

/-- A packet that can be read and has nothing wrong goes to the queue that its selector names. -/
theorem enqAt_packet (hb : s.blockOf k = some b) (ht : s.thread? k = some t) (htrap : s.blockTrap b ea 64 = none) (hl : s.lineHere b ea)
    (hp : packetTrap (s.blockBits b ea 64) = none) :
    s.enqAt k st i h keep ea sel = s.enqPacket k st i h keep t (s.asidOf k) sel (s.blockBits b ea 64) (st.log s i ea sel) := by
  simp only [State.enqAt, hb, ht, htrap, State.waitParked, waitBlock_of_lineHere hl, hp]

/-- A packet for a queue of this package claims the index at WIDX, and takes the slot for it (R250, R251). -/
theorem enqPacket_here {asid va : Nat} {d : QDesc} {v : State} (haux : log.aux = 0) (hsel : sel < 2 ^ 22) (hpkg : selPkg sel = s.pkg)
    (hd : s.qdesc asid (sel % 2 ^ 12) = some d) (hheld : (s.releaseStash t.bid).stashHeld t.bid = false)
    (hv : (s.releaseStash t.bid).claimIndex asid d = some v)
    (hslot : (v.signRequest k (toBytes 64 p)).slotFor ((v.signRequest k (toBytes 64 p)).asidOf k) d d.widx = some va) :
    s.enqPacket k st i h keep t asid sel p log =
      let u := v.signRequest k (toBytes 64 p)
      let r := u.advance k st i h
      (r.2.putPacket (u.asidOf k) va p d.widx).setIncoming r.1 (d.widx % 2 ^ 32) := by
  have hq : field sel 0 12 = sel % 2 ^ 12 := by rw [field, Nat.pow_zero, Nat.div_one]
  simp only [State.enqPacket, haux, Nat.not_le.mpr hsel, hpkg, hq, hd, hheld, hv, State.enqPlace, hslot, if_true, decide_true,
    decide_false, Bool.true_or, Bool.not_true, Bool.or_false, Bool.false_eq_true, if_false]

/-- A packet for a queue of another package of the domain goes there (R255). -/
theorem enqPacket_away {asid : Nat} (haux : log.aux = 0) (hsel : sel < 2 ^ 22) (hpkg : selPkg sel ≠ s.pkg)
    (hdom : s.domain.contains (selPkg sel) = true) (hheld : (s.releaseStash t.bid).stashHeld t.bid = false) :
    s.enqPacket k st i h keep t asid sel p log =
      (s.releaseStash t.bid).enqRemote k st i h keep asid (.thread t.bid t.lin) sel p log none := by
  simp only [State.enqPacket, haux, Nat.not_le.mpr hsel, hpkg, hdom, hheld, if_true, decide_false, Bool.or_true, Bool.not_true,
    Bool.or_false, Bool.false_eq_true, if_false]

theorem enqRemote_sends {asid : Nat} {who : Party} (hw : s.packetOf who = none) :
    s.enqRemote k st i h keep asid who sel p log none =
      ((s.signRequest k (toBytes 64 p)).sendPacket who asid sel p 0 none).retryStage k st := by
  simp only [State.enqRemote, hw, Option.isNone_none, if_true]

/-- The answer that the packet stands in its slot ends the enq with the claimed index (R256, log 19). -/
theorem enqRemote_answered {asid : Nat} {who : Party} {q : PeerAccess} {bs : List Byte} {claim : Option Nat}
    (hw : s.packetOf who = some q) (hg : q.got = some bs) (hbs : (bs.drop 8).map BitVec.toNat = [1]) :
    s.enqRemote k st i h keep asid who sel p log claim =
      let r := (s.dropPacket who).advance k st i h
      r.2.setIncoming r.1 (ofBytes (bs.take 8) % 2 ^ 32) := by
  cases bs with
  | nil => cases hbs
  | cons c cs => simp only [State.enqRemote, hw, hg, hbs]

end Enq

/-! ### publish, coll and repart (R255, R257, R327, R328, R334) -/

section Kicks
variable {s : State} {k : Nat} {t : Thread} {i : Instr} {h : Head}

/-- An instruction in the one thread that issues: what its body leaves. -/
theorem perLane_of_body (hr : Runs i h s k t) {body : Head → Nat → Thread → State → State} {u : State} (hu : body h k t s = u) :
    perLane i body s = .next u := by
  rw [perLane_runs hr, hu]

/-- An instruction that carries a release, in the one thread that issues: it is issued again while a write-back of its block is to
come, and takes effect when there is none (R162). -/
theorem perLane_releasing (hr : Runs i h s k t) {body : Head → Nat → Thread → State → State} {f : State → State}
    (hbody : body h k t s = s.releasing k t.bid f) :
    ((s.releaseStash t.bid).stashHeld t.bid = true → perLane i body s = .next ((s.releaseStash t.bid).holdReplay k)) ∧
    ((s.releaseStash t.bid).stashHeld t.bid = false → perLane i body s = .next (f (s.releaseStash t.bid))) := by
  rw [perLane_runs hr, hbody]
  exact ⟨fun hh => congrArg _ (releasing_waits _ _ _ _ hh), fun hh => congrArg _ (releasing_done _ _ _ _ hh)⟩

/-- A swap of a publish set that waits for the requests accepted before it (R254, R257). -/
def askSwap (i : Instr) (h : Head) (asid set k : Nat) (t : Thread) (w : State) : State :=
  let u := sentOff i h w k t
  { u with
    serial := u.serial + 1
    swaps := u.swaps ++ [⟨u.serial, asid, t.bid, set, (u.copies.filter fun c => c.writesSet asid set).map CopyReq.serial, none,
      resultWid i h w, 0⟩] }

theorem publishBody_closed {seti : Nat} (ho : s.setOpen (s.asidOf k) ((t.rd h.a 32 + seti) % 64) = false) :
    publishBody i seti h k t s = s.trap k 0x0A 0x08 ((t.rd h.a 32 + seti) % 64) := by
  simp only [publishBody, ho, Bool.not_false, if_true]

theorem publishBody_open {seti : Nat} (ho : s.setOpen (s.asidOf k) ((t.rd h.a 32 + seti) % 64) = true) :
    publishBody i seti h k t s = s.releasing k t.bid (askSwap i h (s.asidOf k) ((t.rd h.a 32 + seti) % 64) k t) := by
  simp only [publishBody, ho, Bool.not_true, Bool.false_eq_true, if_false, newWid_eq]
  rfl

/-- A run of graph `n` of the block's context, active if no other run of that graph is (R327, R328). -/
def askRun (i : Instr) (h : Head) (tid n table k : Nat) (t : Thread) (b : Block) (gr : Graph) (w : State) : State :=
  let number := ((w.ctx? b.asid).map fun c => c.runCounts.lookD n 0).getD 0
  let u := (sentOff i h w k t).signRequest k (toBytes 64 table)
  let u' : State := { u with serial := u.serial + 1 }
  let v := u'.updCtx b.asid fun c => { c with runCounts := c.runCounts.ins n ((number + 1) % 2 ^ 20) }
  let r := Run.fresh u.serial b.asid n number t.bid b.core b.launch tid (resultWid i h w) none table (u'.currentHalves b.asid) gr.nodes
  ({ v with runs := v.runs ++ [{ r with active := (v.runsOf b.asid n).isEmpty }] } : State).startRuns

section CollRun
variable {tid : Nat} {b : Block} (hb : s.blockOf k = some b) (hn : t.rdB h.b 32 < 16)
  (htrap : s.blockTrap b (t.rd h.a 32) 64 = none) (hcpl : h.c = .reg 0)
include hb hn htrap hcpl

theorem collRunBody_not_loaded (hg : s.graph? b.asid (t.rdB h.b 32) = none) : collRunBody i tid h k t s = s.answer k t i h 1 := by
  simp only [collRunBody, hb, Nat.not_le.mpr hn, htrap, hcpl, State.collObjTrap, hg, if_true, if_false]

theorem collRunBody_loaded {gr : Graph} (hg : s.graph? b.asid (t.rdB h.b 32) = some gr) (hd : gr.dropped = none)
    (hroom : (s.runs.filter fun r => r.asid = b.asid).length < 64) (hl : s.lineHere b (t.rd h.a 32)) :
    collRunBody i tid h k t s =
      s.releasing k t.bid (askRun i h tid (t.rdB h.b 32) (s.blockBits b (t.rd h.a 32) 64) k t b gr) := by
  simp only [collRunBody, hb, Nat.not_le.mpr hn, htrap, hcpl, State.collObjTrap, hg, hd, Nat.not_le.mpr hroom, State.waitSlot,
    waitBlock_of_lineHere hl, newWid_eq, Option.isSome_none, Bool.false_eq_true, if_true, if_false]
  rfl

end CollRun

/-- The read of an image of `n` nodes at an address, under a number for its graph (R328). -/
def askLoad (i : Instr) (h : Head) (asid addr ctl k : Nat) (t : Thread) (w : State) : State :=
  let v := (sentOff i h w k t).signRequest k (toBytes 8 addr ++ toBytes 4 ctl)
  let u : State := { v with serial := v.serial + 1 }
  { u with
    collLoads := u.collLoads ++ [⟨v.serial, asid, resultWid i h w, addr, ctl % 2 ^ 13, ctl / 2 ^ 16 % 2 ^ 4, t.bid,
      u.currentHalves asid, none, []⟩] }

theorem collLoadBody_valid (hctl : t.rdB h.b 32 / 2 ^ 13 % 2 ^ 3 = 0) (hres : t.rdB h.b 32 / 2 ^ 20 = 0)
    (hlow : 1 ≤ t.rdB h.b 32 % 2 ^ 13) (hhigh : t.rdB h.b 32 % 2 ^ 13 ≤ 4096)
    (hend : t.rd h.a 64 + 32 * (t.rdB h.b 32 % 2 ^ 13) ≤ 2 ^ 52) (halign : t.rd h.a 64 % 32 = 0) :
    collLoadBody i h k t s = s.releasing k t.bid (askLoad i h (s.asidOf k) (t.rd h.a 64) (t.rdB h.b 32) k t) := by
  have hn : field (t.rdB h.b 32) 0 13 = t.rdB h.b 32 % 2 ^ 13 := by rw [field, Nat.pow_zero, Nat.div_one]
  have hmid : field (t.rdB h.b 32) 13 3 = 0 := hctl
  have htop : field (t.rdB h.b 32) 20 12 = 0 := by rw [field, hres, Nat.zero_mod]
  simp only [collLoadBody, hn, hmid, htop, Nat.ne_of_gt hlow, Nat.not_lt.mpr hhigh, Nat.not_lt.mpr hend, halign, newWid_eq,
    ne_eq, not_true_eq_false, decide_false, Bool.or_false, Bool.false_eq_true, if_false]
  rfl

theorem collDropBody_beyond (hid : 16 ≤ t.rdB h.b 32) : collDropBody i h k t s = s.trap k 0x01 0x02 0 := if_pos hid

section CollDrop
variable (hid : t.rdB h.b 32 < 16)
include hid

theorem collDropBody_not_loaded (hg : s.graph? (s.asidOf k) (t.rdB h.b 32) = none) :
    collDropBody i h k t s = s.answer k t i h 0 := by
  simp only [collDropBody, Nat.not_le.mpr hid, hg, if_false]

theorem collDropBody_dropped {gr : Graph} (hg : s.graph? (s.asidOf k) (t.rdB h.b 32) = some gr) (hd : gr.dropped ≠ none) :
    collDropBody i h k t s = s.answer k t i h 0 := by
  simp only [collDropBody, Nat.not_le.mpr hid, hg, Option.isSome_iff_ne_none.mpr hd, if_true, if_false]

/-- A graph that no coll.drop has named is freed now when it has no runs, and otherwise once they have ended (R328). -/
theorem collDropBody_loaded {gr : Graph} (hg : s.graph? (s.asidOf k) (t.rdB h.b 32) = some gr) (hd : gr.dropped = none) :
    collDropBody i h k t s =
      let u := sentOff i h s k t
      if (s.runsOf (s.asidOf k) (t.rdB h.b 32)).isEmpty then u.freeGraph (s.asidOf k) (t.rdB h.b 32) (resultWid i h s)
      else u.updCtx (s.asidOf k) fun c =>
        { c with graphs := c.graphs.ins (t.rdB h.b 32) { gr with dropped := some (resultWid i h s) } } := by
  simp only [collDropBody, Nat.not_le.mpr hid, hg, hd, newWid_eq, Option.isSome_none, Bool.false_eq_true, if_false]
  rfl

end CollDrop

/-- A member's issue of a repartition, whose descriptor goes to the home agent where that is another package (R333, R334). -/
def askRepart (i : Instr) (h : Head) (d k : Nat) (t : Thread) (b : Block) (w : State) : State :=
  let v := (sentOff i h w k t).signRequest k (toBytes 64 d)
  let u : State := { v with serial := v.serial + 1 }
  let x : State := { u with
    repartIssues := u.repartIssues ++ [⟨v.serial, b.asid, t.bid, b.core, resultWid i h w, d, false, u.currentHalves b.asid,
      none, [], [], [], [], 0, none⟩] }
  if x.isHome b.asid then x else x.send (.repart b.asid (x.homeOf b.asid) b.handle d v.serial)

section Repart
variable {b : Block} (hb : s.blockOf k = some b) (htrap : s.blockTrap b (t.rd h.a 32) 64 = none) (hl : s.lineHere b (t.rd h.a 32))
include hb htrap hl

theorem repartBody_bad_descriptor {x : Nat} (hd : repartTrap (s.blockBits b (t.rd h.a 32) 64) = some x) :
    repartBody i h k t s = s.trap k 0x0A x (t.rd h.a 32) := by
  simp only [repartBody, hb, htrap, State.waitSlot, waitBlock_of_lineHere hl, hd]

theorem repartBody_descriptor (hd : repartTrap (s.blockBits b (t.rd h.a 32) 64) = none) :
    repartBody i h k t s = s.releasing k t.bid (askRepart i h (s.blockBits b (t.rd h.a 32) 64) k t b) := by
  simp only [repartBody, hb, htrap, State.waitSlot, waitBlock_of_lineHere hl, hd, newWid_eq]
  rfl

end Repart

end Kicks

/-- Settles O41: each request is what its body hands over once `State.releaseStash` leaves nothing to write back
(`perLane_releasing`, `kickCopy_request`, `enqPacket_here`, `enqPacket_away`). -/
theorem engineRequests : Obligations.EngineRequests := by
  unfold Obligations.EngineRequests
  intro s k t h ofs keep seti tid b g hg hb asid bits here w again rel wid
  refine ⟨?_, ?_, ?_, ?_, ?_, ?_, ?_⟩
  · rintro ea rfl hr htrap
    have ht := hr.thread?_eq
    refine ⟨fun hroom hl hd => ⟨fun hheld => ?_, fun hheld => ?_⟩, fun hfull hpriv => ?_, fun d hf hroom hl hd => ?_⟩
    · exact perLanePark_of_body hr hg ((kickCopy_request hb ht htrap hroom hl hd).trans (if_pos hheld))
    · exact perLanePark_of_body hr hg ((kickCopy_request hb ht htrap hroom hl hd).trans (if_neg (ne_true_of_eq_false hheld)))
    · refine perLanePark_of_body hr hg ((kickCopy_engine_full hb ht htrap hfull).trans ?_)
      rw [parkOn_of_user _ _ _ ht hpriv hg, Stage.log, logOf_eq hg]
    · exact perLanePark_of_fresh hr hg hf (kickCopy_bad_request hb ht htrap hroom hl hd) (trap_records ..)
  · rintro ea rfl hr htrap hl hp sel who hsel
    have hbody := enqAt_packet (keep := keep) (sel := sel) (st := .issue) (i := .enq h ofs keep) (h := h) hb hr.thread?_eq htrap hl hp
    refine ⟨?_, fun hpkg hdom hheld => ⟨fun hw => ?_, ?_⟩⟩
    · intro d v va hpkg hd hheld hv u hslot r
      exact perLanePark_of_body hr hg (hbody.trans (enqPacket_here rfl hsel hpkg hd hheld hv hslot))
    · exact perLanePark_of_body hr hg (hbody.trans ((enqPacket_away rfl hsel hpkg hdom hheld).trans (enqRemote_sends hw)))
    · intro q bs hw hgot hbs r
      exact perLanePark_of_body hr hg (hbody.trans ((enqPacket_away rfl hsel hpkg hdom hheld).trans (enqRemote_answered hw hgot hbs)))
  · intro hr set
    exact ⟨fun ho => perLane_of_body hr (publishBody_closed ho), fun ho => (perLane_releasing hr (publishBody_open ho)).1,
      fun ho => (perLane_releasing hr (publishBody_open ho)).2⟩
  · rintro n rfl hr hn htrap hcpl
    exact ⟨fun hgr => perLane_of_body hr (collRunBody_not_loaded hb hn htrap hcpl hgr), fun gr hgr hd hroom hl =>
      perLane_releasing hr (collRunBody_loaded hb hn htrap hcpl hgr hd hroom hl)⟩
  · intro hr ctl addr n hctl hres hlow hhigh hend halign
    exact perLane_releasing hr (collLoadBody_valid hctl hres hlow hhigh hend halign)
  · intro hr id u mine
    refine ⟨fun hbad => perLane_of_body hr (collDropBody_beyond hbad),
      fun hid hgr => perLane_of_body hr (collDropBody_not_loaded hid hgr),
      fun gr hid hgr hd => perLane_of_body hr (collDropBody_dropped hid hgr hd), fun gr hid hgr hd hruns => ?_,
      fun gr hid hgr hd hruns => ?_⟩
    · exact perLane_of_body hr ((collDropBody_loaded hid hgr hd).trans (if_pos (List.isEmpty_iff.mpr hruns)))
    · exact perLane_of_body hr ((collDropBody_loaded hid hgr hd).trans (if_neg (mt List.isEmpty_iff.mp hruns)))
  · intro hr ea htrap hl
    exact ⟨fun x hd => perLane_of_body hr (repartBody_bad_descriptor hb htrap hl hd),
      fun hd => (perLane_releasing hr (repartBody_descriptor hb htrap hl hd)).1,
      fun hd => (perLane_releasing hr (repartBody_descriptor hb htrap hl hd)).2⟩

end Sys2Proof.Machine
end

section
/-! Packets as they leave their queues, queue copies, stuck queues, and packets as they become launches or reports (R250 to R252, R337 to
R343, R347, R356; O54). -/

namespace Sys2Proof.Machine

/-! ### Packets leave their queues (R250, R347) -/

section Take
variable {s : State} {asid queue : Nat}

theorem execQueuePacketTake_without_packet (hp : s.headPacket asid queue = none) :
    execQueuePacketTake asid queue s = .next s.settleOps := by
  simp only [execQueuePacketTake, event, hp]

theorem execQueuePacketTake_out_of_turn {d : QDesc} {p : Nat} (hp : s.headPacket asid queue = some (d, p))
    (ht : s.mayTake d.prio asid queue = false) : execQueuePacketTake asid queue s = .next s.settleOps := by
  simp only [execQueuePacketTake, event, hp, ht, Bool.not_false, if_true]

/-- The dispatcher has the packet at RIDX of a queue, and knows that queue as the last of its level that it served (R347). -/
def State.takenPacket (s : State) (asid queue : Nat) (d : QDesc) (p : Nat) : State :=
  { s with
    serial := s.serial + 1
    packets := s.packets ++ [⟨s.serial, asid, queue, d.prio, d.ridx, d.slot d.ridx, p, s.placedAt asid queue d.ridx⟩]
    placed := s.placed.filter fun y => !(y.asid = asid && y.queue = queue && y.index = d.ridx)
    lastServed := s.lastServed.ins d.prio (queue * 512 + asid) }

theorem execQueuePacketTake_in_turn {d : QDesc} {p : Nat} (hp : s.headPacket asid queue = some (d, p))
    (ht : s.mayTake d.prio asid queue = true) :
    execQueuePacketTake asid queue s =
      .next (((((s.takenPacket asid queue d p).ctxPut asid (d.at_ + 0x100) 8 (d.ridx + 1)).moveSpills asid
        { d with ridx := d.ridx + 1 }).wakeQueue asid queue)).settleOps := by
  simp only [execQueuePacketTake, event, hp, ht, Bool.not_true, Bool.false_eq_true, if_false]
  rfl

end Take

/-! ### Queue copies (R252) -/

section QueueCopy
variable {s : State} {x : Packet}

theorem execQueueCopy_engine_full (hx : (s.packets.find? fun p => packetType p.data = 3) = some x)
    (hl : 64 ≤ s.engineLoad 192) : execQueueCopy x.serial s = .next s.settleOps := by
  simp only [execQueueCopy, event, hx, hl, decide_true, Bool.or_true, Bool.true_or, if_true]

/-- The packets that are left once one has been processed (R250). -/
def State.withoutPacket (s : State) (x : Packet) : State := { s with packets := s.packets.filter fun y => y.serial ≠ x.serial }

section Room
variable (hx : (s.packets.find? fun p => packetType p.data = 3) = some x) (hc : s.canReport x.asid = true)
  (hl : s.engineLoad 192 < 64)
include hx hc hl

theorem execQueueCopy_accepts (hok : (s.withoutPacket x).queueCopyBad x.asid x.data = none) :
    execQueueCopy x.serial s = .next ((s.withoutPacket x).acceptCopy 192 x.asid 0 0 x.slot x.data).settleOps := by
  rw [State.withoutPacket] at hok ⊢
  simp only [execQueueCopy, event, hx, hc, Nat.not_le.mpr hl, hok, ne_eq, not_true_eq_false, decide_false, Bool.not_true,
    Bool.or_false, Bool.false_eq_true, if_false]

theorem execQueueCopy_refuses {e : Nat} (hbad : (s.withoutPacket x).queueCopyBad x.asid x.data = some e) :
    execQueueCopy x.serial s =
      .next ((s.withoutPacket x).report x.asid 0x24 (0x10 + e) (engineRecord 0 x.slot 0 192 (0x10 + e))).settleOps := by
  rw [State.withoutPacket] at hbad ⊢
  simp only [execQueueCopy, event, hx, hc, Nat.not_le.mpr hl, hbad, ne_eq, not_true_eq_false, decide_false, Bool.not_true,
    Bool.or_false, Bool.false_eq_true, if_false]

end Room

end QueueCopy

/-! ### Full queues (R356) -/

section Deadlock
variable {s : State} {asid queue since : Nat} {d : QDesc} {c : Context}

theorem execQueueDeadlockDetect_reported (hd : s.qdesc asid queue = some d) (hc : s.ctx? asid = some c) (hq : queue ∈ c.deadlocked) :
    execQueueDeadlockDetect asid queue s = .next s.settleOps := by
  simp only [execQueueDeadlockDetect, event, hd, hc, List.contains_iff_mem.mpr hq, Bool.not_true, Bool.and_false, Bool.false_and,
    Bool.false_eq_true, if_false]

theorem execQueueDeadlockDetect_early (hd : s.qdesc asid queue = some d) (hc : s.ctx? asid = some c)
    (hs : c.stalled.look queue = some since) (hn : s.ns < since + 100000) :
    execQueueDeadlockDetect asid queue s = .next s.settleOps := by
  simp only [execQueueDeadlockDetect, event, hd, hc, hs, Option.any_some, Nat.not_le.mpr hn, decide_false, Bool.false_and,
    Bool.false_eq_true, if_false]

/-- The conditions of R356: no slot is free, a producer waits for one, and nothing on the cores that could place the packet at RIDX can
end. -/
theorem stuckQueue_of {e : QDesc} {p : Nat} (hd : s.qdesc asid queue = some d)
    (hw : s.parkedOn asid queue ≠ 0 ∨ s.heldOn asid queue = true)
    (hslot : s.slotFor asid d d.widx = none) (hp : s.headPacket asid queue = some (e, p)) (hstart : s.couldStart asid p = false)
    (hpark : s.allParked asid (s.coresFor p) = true) : s.stuckQueue asid queue = true := by
  simp only [State.stuckQueue, hd, hp, hslot, hstart, hpark, Option.isNone_none, Bool.not_false, Bool.and_true, Bool.or_eq_true,
    decide_eq_true_eq]
  exact hw

theorem execQueueDeadlockDetect_reports (hd : s.qdesc asid queue = some d) (hc : s.ctx? asid = some c)
    (hs : c.stalled.look queue = some since) (hn : since + 100000 ≤ s.ns) (hq : queue ∉ c.deadlocked)
    (hstuck : s.stuckQueue asid queue = true) (hr : s.canReport asid = true) :
    execQueueDeadlockDetect asid queue s =
      .next ((s.updCtx asid fun c => { c with deadlocked := c.deadlocked ++ [queue] }).report asid 0x29 0
        (recordOf [(0, 8, d.widx), (8, 8, d.ridx), (16, 2, queue), (20, 4, s.parkedOn asid queue)])).settleOps := by
  have hnew : c.deadlocked.contains queue = false := by simpa using hq
  simp only [execQueueDeadlockDetect, event, hd, hc, hs, Option.any_some, hn, hstuck, hnew, hr, decide_true, Bool.not_false,
    Bool.and_self, if_true]

end Deadlock

theorem queueSteps : Claim.QueueSteps := by
  unfold Claim.QueueSteps
  intro s asid queue serial d p n x c
  refine ⟨execQueuePacketTake_without_packet, execQueuePacketTake_out_of_turn, execQueuePacketTake_in_turn, ?_, ?_⟩
  · rintro hx rfl hc u
    exact ⟨execQueueCopy_engine_full hx, fun hl => ⟨execQueueCopy_accepts hx hc hl, fun e => execQueueCopy_refuses hx hc hl⟩⟩
  · rintro hd hc rfl
    exact ⟨execQueueDeadlockDetect_reported hd hc, fun since => execQueueDeadlockDetect_early hd hc,
      fun since e q hs hn hq hslot hw hp hstart hpark hr =>
        execQueueDeadlockDetect_reports hd hc hs hn hq (stuckQueue_of hd hw hslot hp hstart hpark) hr⟩

/-! ### Packets become launches (R337 to R343) -/

section Packets
variable {s : State} {x : Packet}

/-- A step of a packet's kind processes it. -/
theorem packetStep_of_kind {f : Nat → Bool} (hx : (s.packets.find? fun y => y.serial = x.serial) = some x) (hf : f x.data = true)
    (hc : s.canReport x.asid = true) : packetStep x.serial f s = .next (s.acceptPacket x).settleOps := by
  simp only [packetStep, event, hx, hf, hc, Bool.and_self, if_true]

theorem packetStep_of_other_kind {f : Nat → Bool} (hx : (s.packets.find? fun y => y.serial = x.serial) = some x)
    (hf : f x.data = false) : packetStep x.serial f s = .next s.settleOps := by
  simp only [packetStep, event, hx, hf, Bool.false_and, Bool.false_eq_true, if_false]

/-- The packets that LAUNCH_PACKET_GRID processes: neither task records nor copies, and with MODE 0 (R337). -/
def gridKind (p : Nat) : Bool := packetType p ≠ 2 && packetType p ≠ 3 && !(pkMask p)

theorem execLaunchPacketGrid_eq (serial : Nat) : execLaunchPacketGrid serial s = packetStep serial gridKind s := rfl

theorem gridKind_iff (p : Nat) : gridKind p = true ↔ packetType p ≠ 2 ∧ packetType p ≠ 3 ∧ pkMask p = false := by
  simp only [gridKind, Bool.and_eq_true, decide_eq_true_eq, Bool.not_eq_true', and_assoc]

theorem execTaskRecord_eq (serial : Nat) : execTaskRecord serial s = packetStep serial (fun p => packetType p = 2) s := rfl

/-- The header of a packet's launch: the one at its address, with the packet's own entry where it names one (R343). -/
theorem header_with_entry (hdr : Header) (p : Nat) :
    (if pkEntry p = 0 then hdr else { hdr with entry := pkEntry p }) =
      { hdr with entry := if pkEntry p = 0 then hdr.entry else pkEntry p } := by
  split <;> rfl

end Packets

theorem packetsBecomeLaunches : Claim.PacketsBecomeLaunches := by
  unfold Claim.PacketsBecomeLaunches
  intro s x p gone v hdr kind l after grid hx
  have hafter : s.acceptPacket x = after := by
    simp only [State.acceptPacket, header_with_entry]
    cases hb : s.packetBad x.data with
    | some e => simp only [after, p, hb, gone]
    | none =>
      cases hh : headerBad (s.ctxVal x.asid (pkHdr x.data) 64) with
      | some e => simp only [after, p, v, hb, hh, gone]
      | none => simp only [after, p, v, hb, hh, gone]; rfl
  have hof {f : Nat → Bool} (hf : f p = true) (hc : s.canReport x.asid = true) : packetStep x.serial f s = .next after.settleOps :=
    hafter ▸ packetStep_of_kind hx hf hc
  exact ⟨fun hg hc => (execLaunchPacketGrid_eq _).trans (hof ((gridKind_iff p).mpr hg) hc), hof,
    fun ht hc => (execTaskRecord_eq _).trans (hof (decide_eq_true ht) hc),
    fun hg => (execLaunchPacketGrid_eq _).trans (packetStep_of_other_kind hx (Bool.eq_false_iff.mpr (mt (gridKind_iff p).mp hg))),
    packetStep_of_other_kind hx, fun ht => (execTaskRecord_eq _).trans (packetStep_of_other_kind hx (decide_eq_false ht))⟩

/-- Settles O54: what each step of a queue does is said per branch of its meaning, and a packet step of the packet's kind is
`State.acceptPacket`. -/
theorem queuesAndLaunches : Obligations.QueuesAndLaunches := by
  unfold Obligations.QueuesAndLaunches
  exact ⟨queueSteps, packetsBecomeLaunches⟩

end Sys2Proof.Machine
end
